-- ==== Sys2Proof/Word.lean ====
section
/-! DEFINITION. The word types of the module and their plainest arithmetic (00 R3: every multi-byte value is
little-endian, bit 0 is the least significant bit). -/

namespace Sys2Proof

/-- One byte. -/
abbrev Byte := BitVec 8
/-- One halfword. -/
abbrev W16 := BitVec 16
/-- One 32-bit word: a general register of a thread, an FP32 value as its bits. -/
abbrev W32 := BitVec 32
/-- One 64-bit word: a register pair, a 64-bit device register, an LPK code word. -/
abbrev W64 := BitVec 64
/-- One 256-bit word: a mask bit-tile (03 R44). -/
abbrev W256 := BitVec 256

/-- The byte `i` of a number, byte 0 the least significant. -/
def natByte (v i : Nat) : Byte := BitVec.ofNat 8 (v >>> (8 * i))

/-- A number as `n` little-endian bytes (00 R3). -/
def natBytes : Nat → Nat → List Byte
  | 0, _ => []
  | n + 1, v => BitVec.ofNat 8 v :: natBytes n (v / 256)

/-- Little-endian bytes read as a number (00 R3). -/
def bytesNat : List Byte → Nat
  | [] => 0
  | b :: bs => b.toNat + 256 * bytesNat bs

/-- The field `[lo + len - 1 : lo]` of a number. -/
def field (v lo len : Nat) : Nat := (v >>> lo) % 2 ^ len

/-- The bit `i` of a number. -/
def bitOf (v i : Nat) : Bool := v.testBit i

/-- A bool as 0 or 1. -/
def b2n (b : Bool) : Nat := if b then 1 else 0

/-- `v` with the field `[lo + len - 1 : lo]` replaced by `x`. -/
def setField (v lo len x : Nat) : Nat :=
  let lowPart := v % 2 ^ lo
  let highPart := (v >>> (lo + len)) <<< (lo + len)
  highPart + (x % 2 ^ len) <<< lo + lowPart

/-- The two's complement value of a number of `n` bits. -/
def signed (n v : Nat) : Int :=
  let u := v % 2 ^ n
  if u < 2 ^ (n - 1) then (u : Int) else (u : Int) - 2 ^ n

/-- The two's complement code of an integer in `n` bits. -/
def unsigned (n : Nat) (x : Int) : Nat := (x % (2 ^ n : Int)).toNat

theorem natBytes_length (n v : Nat) : (natBytes n v).length = n := by
  induction n generalizing v with
  | zero => rfl
  | succ n ih => simp [natBytes, ih]

theorem bytesNat_natBytes (n v : Nat) : bytesNat (natBytes n v) = v % 256 ^ n := by
  induction n generalizing v with
  | zero => simp [natBytes, bytesNat, Nat.mod_one]
  | succ n ih =>
    simp only [natBytes, bytesNat, ih, BitVec.toNat_ofNat]
    have h : 256 ^ (n + 1) = 256 * 256 ^ n := by rw [Nat.pow_succ, Nat.mul_comm]
    rw [h, Nat.mod_mul]

end Sys2Proof
end

