-- ==== Sys2Proof/Syntax.lean ====
section
/-! DEFINITION. The commands of the block: one constructor per row of spec/opcode_table.json, with the row's operands.
No row has bits in the table; the operands are the values the spec's text gives the event (which core and slot issues
which LPK word, which register is written with what, which flit or transaction arrives). -/

namespace Sys2Proof

/-- A group slot of a core of the module (00 Table 0.2). -/
structure Slot where
  core : Fin 48
  slot : Fin 32
  deriving DecidableEq, Repr

/-- What the residue check of the scalar pipe meets at one issue (07 R150): nothing, a recomputation of these threads that
passes, or a second failure in these threads. -/
inductive PipeCheck where
  | clean
  | recomputed (threads : BitVec 32)
  | failed (threads : BitVec 32)
  deriving DecidableEq, Repr

/-- An issue by the group in a slot, with the residue check's outcome. -/
structure Issue where
  core : Fin 48
  slot : Fin 32
  chk : PipeCheck
  deriving DecidableEq, Repr

/-- The fields of an LPK instruction word (02 Table 2.3) besides CLASS and OP, and its extension word. -/
structure Lpk where
  pn : Bool
  preg : BitVec 3
  d : BitVec 6
  a : BitVec 6
  b : BitVec 6
  mod : BitVec 30
  ext : W64
  deriving DecidableEq, Repr

/-- Who makes a register-space or doorbell access: the host through BAR0, firmware, or the pending access `id` of a
thread group of core `n` (08 R459). -/
inductive RegSrc where
  | host
  | firmware
  | access (n : Fin 48) (id : Nat)
  deriving DecidableEq, Repr

/-- A write to the register space or a doorbell: the address, the width in bytes and the value (00 R6). BAR0-only blocks
(MBX, HST; 16 Table 16.1) lie at `2^48` plus their BAR0 offset. For a thread's access the address, width and value are the
access's own. -/
structure RegWr where
  src : RegSrc
  addr : Nat
  bytes : Nat
  value : W64
  deriving DecidableEq, Repr

/-- An upset of one accumulator or check cell during a native sweep (04 R84; row or column 128 is the check row or
column), or an uncorrectable error on an operand read (04 R87). -/
inductive Upset where
  | cell (array : Fin 2) (row col : Fin 129) (delta : Int)
  | operand (array : Fin 2)
  deriving DecidableEq, Repr

/-- What the lane checks of one vector-queue entry or fused delivery met (06 R133): nothing, a recomputation that passed,
a second failure, or an uncorrectable error in a tile register or mask tile. -/
inductive LaneCheck where
  | clean
  | recomputed (group : Fin 4) (unit : Fin 4) (stage : Fin 8)
  | failed (group : Fin 4) (unit : Fin 4) (stage : Fin 8)
  | treg
  deriving DecidableEq, Repr

/-- A memory that a scrubber walks (15 Table 15.6). -/
inductive ScrubMem where
  | edram
  | ddr
  | scratchpad
  | slice
  | weights
  | opcache
  | tiles
  | sync
  deriving DecidableEq, Repr

/-- What a scrubber finds at its next word (15 R343); an uncorrectable error names the codeword of the line. -/
inductive ScrubFinding where
  | clean
  | correctable
  | uncorrectable (cw : Fin 4)
  deriving DecidableEq, Repr

/-- Where a waiting group is: in a slot, or suspended in a park record (07 R160). -/
inductive WaitPlace where
  | slot (i : Fin 32)
  | record (i : Fin 32)
  deriving DecidableEq, Repr

/-- A flit as the receiver's decoder hands it over (11 R250, R251): its bytes after correction, its place in its frame, and the symbol errors that the
frame's two codewords had. -/
structure Flit where
  bytes : List Byte
  place : Fin 5
  errs : Nat × Nat
  deriving DecidableEq, Repr

/-- An alignment frame as received (11 R250): the frame count, whether the lane numbers come in reversed order, the polarity sense of the lanes, and
the symbol errors of its two codewords. -/
structure AlignFrame where
  count : BitVec 24
  reversed : Bool
  polarity : BitVec 16
  errs : Nat × Nat
  deriving DecidableEq, Repr

/-- A fabric transaction: its decoded header (12 Tables 12.1, 12.2) and its payload. `part` is the model's own: of a WRITE of fewer bytes than its words
hold, the first of them and their number (12 R273 gives ADDR and LEN in words; log entry 96). -/
structure Txn where
  ty : Nat
  op : Nat
  flag : Bool
  noalloc : Bool
  retx : Bool
  dst : BitVec 12
  src : BitVec 12
  tag : BitVec 12
  ridx : BitVec 12
  addr : BitVec 48
  len : Nat
  sctx : BitVec 8
  key : W32
  seq : W32
  arg0 : W32
  arg1 : W32
  payload : List Byte
  part : Option (Nat × Nat) := none
  deriving DecidableEq, Repr

/-- A response as received: its decoded header and its data (12 R276). -/
structure Resp where
  ty : Nat
  status : Nat
  src : BitVec 12
  dst : BitVec 12
  seq : W32
  data : List Byte
  deriving DecidableEq, Repr

/-- What crosses a module: a transaction or a response (12 R274). -/
inductive FabMsg where
  | txn (t : Txn)
  | resp (r : Resp)
  deriving DecidableEq, Repr

/-- Which child or parent side of the reduction tree a record or pull concerns (13). -/
inductive Side where
  | left
  | right
  deriving DecidableEq, Repr

/-- Why an update run stops (14 R335): an uncorrectable error in what a sequencer reads, or a FAILED record of a neighbour of the norm
tree. -/
inductive RunFail where
  | ecc
  | failedRecord
  deriving DecidableEq, Repr

/-- An error that a unit reports to the collector (15 R338). -/
structure ErrRec where
  faultId : W32
  source : W16
  cls : Byte
  sev : Fin 4
  injected : Bool
  address : W64
  count : W32
  ctx : Byte
  info : Byte
  deriving DecidableEq, Repr

/-- What link training finds (11 R248): whether the lanes are in reverse order, and which lanes have their pair swapped. -/
structure TrainFind where
  reversed : Bool
  polarity : BitVec 16
  deriving DecidableEq, Repr

/-- A key record at KEY_LOAD (17 R383, R384): KEY_ID, K, the level mask, and whether the CRC-32 that follows it matches. -/
structure KeyLoad where
  keyId : W32
  key : List Byte
  mask : BitVec 4
  crcOk : Bool
  deriving DecidableEq, Repr

/-- Why a DORMANT cluster wakes (18 R402). -/
inductive WakeCause where
  | sync
  | timer
  | launch
  | access
  | sequencer
  | heldWrites
  | firmware
  deriving DecidableEq, Repr

/-- The result of a Cicada self-test of a domain (18 R416). -/
inductive CicadaResult where
  | pass
  | fail (unit : Nat)
  deriving DecidableEq, Repr

/-- A step of an eDRAM segment test (18 R415). -/
inductive SegStep where
  | save
  | test (ok : Bool)
  | restore
  deriving DecidableEq, Repr

/-- A supply rail (19). -/
inductive Rail where
  | vdd (d : Fin 4)
  | other (i : Fin 9)
  deriving DecidableEq, Repr

/-- Strap levels (19 R428). -/
structure Straps where
  position : BitVec 4
  deriving DecidableEq, Repr

/-- A BAR2 access of the host (19 R437). -/
inductive Bar2Acc where
  | read (off : Nat) (bytes : Nat)
  | write (off : Nat) (data : List Byte)
  deriving DecidableEq, Repr


/-- The commands, in the order of spec/opcode_table.json. -/
inductive Instr where
  /-- REGISTER_WRITE (R5): A write to a register that has no behaviour of its own takes effect under its access code, or is discarded for a wrong width, alignment or reserved value. -/
  | registerWrite (w : RegWr)
  /-- DPT_UPDATE (R22): Firmware rewrites DPT entries once a permitted condition holds, making DPT_GEN odd before the writes and even after them. -/
  | dptUpdate (entries : List (Nat × W64))
  /-- ADD (R147): Integer add modulo 2^32, per thread. -/
  | add (u : Issue) (w : Lpk)
  /-- SUB (R147): Integer subtract, per thread. -/
  | sub (u : Issue) (w : Lpk)
  /-- MUL (R147): Low 32 bits of the integer product. -/
  | mul (u : Issue) (w : Lpk)
  /-- MULHS (R147): High 32 bits of the signed product. -/
  | mulhs (u : Issue) (w : Lpk)
  /-- MULHU (R147): High 32 bits of the unsigned product. -/
  | mulhu (u : Issue) (w : Lpk)
  /-- DIVS (R147): Signed truncating division that never traps. -/
  | divs (u : Issue) (w : Lpk)
  /-- DIVU (R147): Unsigned division that never traps. -/
  | divu (u : Issue) (w : Lpk)
  /-- REMS (R147): Signed remainder. -/
  | rems (u : Issue) (w : Lpk)
  /-- REMU (R147): Unsigned remainder. -/
  | remu (u : Issue) (w : Lpk)
  /-- AND (R147): Bitwise and. -/
  | and (u : Issue) (w : Lpk)
  /-- OR (R147): Bitwise or. -/
  | or (u : Issue) (w : Lpk)
  /-- XOR (R147): Bitwise exclusive or. -/
  | xor (u : Issue) (w : Lpk)
  /-- SHL (R147): Logical shift left by B mod 32. -/
  | shl (u : Issue) (w : Lpk)
  /-- SHR (R147): Logical shift right by B mod 32. -/
  | shr (u : Issue) (w : Lpk)
  /-- SAR (R147): Arithmetic shift right by B mod 32. -/
  | sar (u : Issue) (w : Lpk)
  /-- MINS (R147): Signed minimum. -/
  | mins (u : Issue) (w : Lpk)
  /-- MAXS (R147): Signed maximum. -/
  | maxs (u : Issue) (w : Lpk)
  /-- MINU (R147): Unsigned minimum. -/
  | minu (u : Issue) (w : Lpk)
  /-- MAXU (R147): Unsigned maximum. -/
  | maxu (u : Issue) (w : Lpk)
  /-- CLZ (R147): Count of leading zeros. -/
  | clz (u : Issue) (w : Lpk)
  /-- POPC (R147): Count of set bits. -/
  | popc (u : Issue) (w : Lpk)
  /-- SETP (R147): Sets a predicate from an integer comparison. -/
  | setp (u : Issue) (w : Lpk)
  /-- SEL (R147): Selects A or B by a predicate. -/
  | sel (u : Issue) (w : Lpk)
  /-- MOVI (R147): Loads a sign-extended 20-bit immediate. -/
  | movi (u : Issue) (w : Lpk)
  /-- MOVHI (R147): Loads the upper halfword from an immediate. -/
  | movhi (u : Issue) (w : Lpk)
  /-- SRD (R141): Reads a special register into a register or register pair. -/
  | srd (u : Issue) (w : Lpk)
  /-- SWR (R141): Writes a special register, parking with THR_SPECIAL for a read-only one. -/
  | swr (u : Issue) (w : Lpk)
  /-- FADD (R149): FP32 add with one rounding. -/
  | fadd (u : Issue) (w : Lpk)
  /-- FSUB (R149): FP32 subtract with one rounding. -/
  | fsub (u : Issue) (w : Lpk)
  /-- FMUL (R149): FP32 multiply with one rounding. -/
  | fmul (u : Issue) (w : Lpk)
  /-- FFMA (R149): FP32 fused multiply-add with one rounding. -/
  | ffma (u : Issue) (w : Lpk)
  /-- FMIN (R149): FP32 minimum as TMIN. -/
  | fmin (u : Issue) (w : Lpk)
  /-- FMAX (R149): FP32 maximum as TMAX. -/
  | fmax (u : Issue) (w : Lpk)
  /-- FSETP (R149): Sets a predicate from an FP32 comparison. -/
  | fsetp (u : Issue) (w : Lpk)
  /-- FCVT (R118): Converts between FP32, int32 and BF16. -/
  | fcvt (u : Issue) (w : Lpk)
  /-- FABS (R147): Clears the sign bit. -/
  | fabs (u : Issue) (w : Lpk)
  /-- FNEG (R147): Inverts the sign bit. -/
  | fneg (u : Issue) (w : Lpk)
  /-- LDB (R148): Loads a sign-extended byte per thread. -/
  | ldb (u : Issue) (w : Lpk)
  /-- LDBU (R148): Loads a zero-extended byte per thread. -/
  | ldbu (u : Issue) (w : Lpk)
  /-- LDH (R148): Loads a sign-extended halfword. -/
  | ldh (u : Issue) (w : Lpk)
  /-- LDHU (R148): Loads a zero-extended halfword. -/
  | ldhu (u : Issue) (w : Lpk)
  /-- LDW (R148): Loads a word. -/
  | ldw (u : Issue) (w : Lpk)
  /-- LDD (R148): Loads a doubleword into a register pair. -/
  | ldd (u : Issue) (w : Lpk)
  /-- STB (R148): Stores a byte, optionally with NOALLOC, DEAD or FLAG. -/
  | stb (u : Issue) (w : Lpk)
  /-- STH (R148): Stores a halfword. -/
  | sth (u : Issue) (w : Lpk)
  /-- STW (R148): Stores a word. -/
  | stw (u : Issue) (w : Lpk)
  /-- STD (R148): Stores a doubleword from a register pair. -/
  | std (u : Issue) (w : Lpk)
  /-- PREF (R198): Prefetches a line into its home slice or a far slice, never faulting. -/
  | pref (u : Issue) (w : Lpk)
  /-- FENCE (R208): Starts a fence of core, module or system scope for the issuing subset. -/
  | fence (u : Issue) (w : Lpk)
  /-- FARINV (R220): Starts the invalidation of far lines over an address range. -/
  | farinv (u : Issue) (w : Lpk)
  /-- BRA (R144): Branches per thread, possibly splitting the subset. -/
  | bra (u : Issue) (w : Lpk)
  /-- CALL (R147): Saves the return index and branches. -/
  | call (u : Issue) (w : Lpk)
  /-- RET (R147): Returns to a saved index, parking with THR_BRANCH if the target is invalid. -/
  | ret (u : Issue) (w : Lpk)
  /-- EXIT (R139): Removes the thread from the live set, ending the group when none remain. -/
  | exit (u : Issue) (w : Lpk)
  /-- GBAR (R153): Arrival of threads at the group barrier with a participant mask. -/
  | gbar (u : Issue) (w : Lpk)
  /-- YIELD (R144): Causes a subset switch and lowers the group's issue priority. -/
  | yield (u : Issue) (w : Lpk)
  /-- TRAP (R158): Parks the group with THR_TRAP and an INFO code. -/
  | trap (u : Issue) (w : Lpk)
  /-- NOP (R147): Does nothing. -/
  | nop (u : Issue) (w : Lpk)
  /-- PRESUME (R161): A group applies REPLAY or ABORT to a park record of its core. -/
  | presume (u : Issue) (w : Lpk)
  /-- AADD (R152): Atomic add coalesced across threads in lane order. -/
  | aadd (u : Issue) (w : Lpk)
  /-- AMINS (R152): Atomic signed minimum. -/
  | amins (u : Issue) (w : Lpk)
  /-- AMAXS (R152): Atomic signed maximum. -/
  | amaxs (u : Issue) (w : Lpk)
  /-- AMINU (R152): Atomic unsigned minimum. -/
  | aminu (u : Issue) (w : Lpk)
  /-- AMAXU (R152): Atomic unsigned maximum. -/
  | amaxu (u : Issue) (w : Lpk)
  /-- AAND (R152): Atomic and. -/
  | aand (u : Issue) (w : Lpk)
  /-- AOR (R152): Atomic or. -/
  | aor (u : Issue) (w : Lpk)
  /-- AXOR (R152): Atomic exclusive or. -/
  | axor (u : Issue) (w : Lpk)
  /-- AFADD (R152): Atomic FP32 add in lane order. -/
  | afadd (u : Issue) (w : Lpk)
  /-- AEXCH (R152): Atomic exchange. -/
  | aexch (u : Issue) (w : Lpk)
  /-- ACAS (R152): Atomic compare-and-swap, whose failure is a failed lock attempt. -/
  | acas (u : Issue) (w : Lpk)
  /-- SIGNAL (R228): Sends an addition to a sync object after an implicit module fence. -/
  | signal (u : Issue) (w : Lpk)
  /-- WAIT (R230): Registers a wait on a sync object condition with an optional timeout. -/
  | wait (u : Issue) (w : Lpk)
  /-- WATCH (R232): Registers a one-shot watch that reports to a queue. -/
  | watch (u : Issue) (w : Lpk)
  /-- SREAD (R227): Reads a sync object's counter and state in one cycle. -/
  | sread (u : Issue) (w : Lpk)
  /-- SARM (R236): Re-arms an owned sync object, optionally setting its counter. -/
  | sarm (u : Issue) (w : Lpk)
  /-- WCANCEL (R232): Ends the context's watches with a tag on an object with CANCELLED. -/
  | wcancel (u : Issue) (w : Lpk)
  /-- FFARRIVE (R241): Records this core's arrival at a Firefly line. -/
  | ffarrive (u : Issue) (w : Lpk)
  /-- FFWAIT (R242): Waits for the next release of a Firefly line. -/
  | ffwait (u : Issue) (w : Lpk)
  /-- TLD (R117): Enters a tile load into the vector queue. -/
  | tld (u : Issue) (w : Lpk)
  /-- TST (R117): Enters a tile store into the vector queue. -/
  | tst (u : Issue) (w : Lpk)
  /-- TGATHER (R117): Enters an indexed tile gather into the vector queue. -/
  | tgather (u : Issue) (w : Lpk)
  /-- TMOV (R117): Enters a tile copy. -/
  | tmov (u : Issue) (w : Lpk)
  /-- TADD (R117): Enters an element-wise FP32 tile add. -/
  | tadd (u : Issue) (w : Lpk)
  /-- TMUL (R117): Enters an element-wise FP32 tile multiply. -/
  | tmul (u : Issue) (w : Lpk)
  /-- TFMA (R117): Enters an element-wise tile fused multiply-add. -/
  | tfma (u : Issue) (w : Lpk)
  /-- TMIN (R117): Enters an element-wise tile minimum. -/
  | tmin (u : Issue) (w : Lpk)
  /-- TMAX (R117): Enters an element-wise tile maximum. -/
  | tmax (u : Issue) (w : Lpk)
  /-- TCMP (R117): Enters a tile comparison into a mask tile. -/
  | tcmp (u : Issue) (w : Lpk)
  /-- TSEL (R117): Enters a tile select by mask. -/
  | tsel (u : Issue) (w : Lpk)
  /-- TCVT (R118): Enters a tile conversion between FP32, int32 and BF16 precision. -/
  | tcvt (u : Issue) (w : Lpk)
  /-- TSFU (R130): Enters a special-function evaluation over a tile. -/
  | tsfu (u : Issue) (w : Lpk)
  /-- TRED (R457): Enters a tile reduction along an axis. -/
  | tred (u : Issue) (w : Lpk)
  /-- TBCAST (R117): Enters a broadcast of a register value into a tile. -/
  | tbcast (u : Issue) (w : Lpk)
  /-- TEXT (R116): Extracts one tile element into a register, the group waiting for it. -/
  | text (u : Issue) (w : Lpk)
  /-- MLD (R457): Enters a mask-tile load. -/
  | mld (u : Issue) (w : Lpk)
  /-- MST (R457): Enters a mask-tile store. -/
  | mst (u : Issue) (w : Lpk)
  /-- OCLOAD (R114): Enters a copy of memory lines into the operand cache. -/
  | ocload (u : Issue) (w : Lpk)
  /-- OCSTORE (R114): Enters a copy of operand-cache lines to memory. -/
  | ocstore (u : Issue) (w : Lpk)
  /-- TFENCE (R116): Makes the group wait for its earlier vector entries and their writes. -/
  | tfence (u : Issue) (w : Lpk)
  /-- CHRUN (R123): Enters a Scarab chain run into the vector queue. -/
  | chrun (u : Issue) (w : Lpk)
  /-- CHBIND (R124): Binds a chain descriptor as the group's fused chain at issue. -/
  | chbind (u : Issue) (w : Lpk)
  /-- CHUNBIND (R124): Removes the group's fused chain at issue. -/
  | chunbind (u : Issue) (w : Lpk)
  /-- MSWEEP (R67): Enters a sweep that opens or extends a contraction into the matrix queue. -/
  | msweep (u : Issue) (w : Lpk)
  /-- MZERO (R67): Enters an instruction that empties a logical bank. -/
  | mzero (u : Issue) (w : Lpk)
  /-- MWLOAD (R71): Enters an append of weight rows to an array's ring. -/
  | mwload (u : Issue) (w : Lpk)
  /-- MDRAIN (R68): Enters the close and delivery of a contraction. -/
  | mdrain (u : Issue) (w : Lpk)
  /-- MCHECK (R75): Reads an array's residue record, optionally clearing it. -/
  | mcheck (u : Issue) (w : Lpk)
  /-- MWRESET (R75): Enters a reset of an array's ring state and format. -/
  | mwreset (u : Issue) (w : Lpk)
  /-- DMA (R191): Enters a DMA descriptor into the core's DMA queue. -/
  | dma (u : Issue) (w : Lpk)
  /-- GATHER (R197): Enters a gather descriptor into the core's DMA queue. -/
  | gather (u : Issue) (w : Lpk)
  /-- DMAFENCE (R189): Makes the group wait for its earlier DMA and gather descriptors. -/
  | dmafence (u : Issue) (w : Lpk)
  /-- FSIGNAL (R294): Enters a fabric SIGNAL to an IMPORT entry's peer. -/
  | fsignal (u : Issue) (w : Lpk)
  /-- FMSG (R295): Enters a fabric MSG to a peer's queue. -/
  | fmsg (u : Issue) (w : Lpk)
  /-- FQFENCE (R294): Makes the group wait for its earlier fabric-queue instructions. -/
  | fqfence (u : Issue) (w : Lpk)
  /-- FSTATUS (R294): Reads the connection state and unacknowledged count for a peer. -/
  | fstatus (u : Issue) (w : Lpk)
  /-- QPUT (R381): Appends an entry to a queue of the context. -/
  | qput (u : Issue) (w : Lpk)
  /-- QGET (R381): Takes an entry from an EVENT or MSG queue of the context. -/
  | qget (u : Issue) (w : Lpk)
  /-- QSTAT (R381): Reads a queue's producer and consumer indices. -/
  | qstat (u : Issue) (w : Lpk)
  /-- LOAD_RETURN (R202): Load data returns and writes the destination registers, or faults per thread. -/
  | loadReturn (n : Fin 48) (id : Nat) (ecc : W32)
  /-- REQUEST_SLOT_GRANT (R184): A waiting line request takes a request slot when the pool and its cap have room. -/
  | requestSlotGrant (n : Fin 48) (id : Nat)
  /-- FENCE_COMPLETE (R208): The fence condition holds for all threads of the subset, which continue. -/
  | fenceComplete (u : Slot) (id : Nat)
  /-- FARINV_COMPLETE (R220): All far lines of the range are dropped on all dies. -/
  | farinvComplete (u : Slot) (id : Nat)
  /-- TFENCE_COMPLETE (R116): The group's earlier vector entries complete and it becomes ready. -/
  | tfenceComplete (u : Slot)
  /-- DMAFENCE_COMPLETE (R189): The group's earlier descriptors complete and it becomes ready. -/
  | dmafenceComplete (u : Slot)
  /-- FQFENCE_COMPLETE (R294): The group's earlier fabric-queue instructions complete. -/
  | fqfenceComplete (u : Slot)
  /-- GBAR_COMPLETE (R153): Every thread of the mask has arrived or left, and the barrier releases. -/
  | gbarComplete (u : Slot)
  /-- GBAR_WATCHDOG_EXPIRY (R155): The barrier watchdog expires and the group is parked with ORPHAN_BARRIER. -/
  | gbarWatchdogExpiry (u : Slot)
  /-- RECONV_RELEASE (R145): A held subset is released after 1,024 instructions of the others. -/
  | reconvRelease (u : Slot) (pc : Nat)
  /-- PARK (R159): A faulted group is written to the lowest free park record and its slot released. -/
  | park (u : Slot)
  /-- SUSPEND (R160): A waiting group is suspended into a park record when a launch needs a slot. -/
  | suspend (u : Slot)
  /-- SUSPENDED_RESTORE (R160): A released suspended group takes the next free slot and reloads its state. -/
  | suspendedRestore (n : Fin 48) (rec : Fin 32)
  /-- PARKCTL_REPLAY (R161): A THR_PARKCTL write restarts a parked group from its record after checks. -/
  | parkctlReplay (w : RegWr)
  /-- PARKCTL_ABORT (R161): A THR_PARKCTL write ends a parked group and releases its record. -/
  | parkctlAbort (w : RegWr)
  /-- MATQ_HEAD (R77): A matrix-queue entry at the head is checked and handed to its unit or faults. -/
  | matqHead (n : Fin 48)
  /-- SWEEP_START (R80): The staging unit starts a native sweep or replay once its bank is free. -/
  | sweepStart (n : Fin 48) (upsets : List Upset)
  /-- FILL_ROW_LAND (R71): A weight row or scale block requested by the fill engine lands in the ring. -/
  | fillRowLand (n : Fin 48) (a : Fin 2)
  /-- DRAIN_READ (R85): The drain unit reads a physical bank, checks residues and updates or replays. -/
  | drainRead (n : Fin 48) (a : Fin 2)
  /-- DRAIN_DELIVERY (R78): Delivery of a drain buffer ends, the bank empties and SIG is signalled. -/
  | drainDelivery (n : Fin 48) (a : Fin 2)
  /-- FUSED_DELIVERY (R126): Ready fused rows take the lanes at a tile boundary and pass through the bound chain. -/
  | fusedDelivery (n : Fin 48) (a : Fin 2) (chk : LaneCheck)
  /-- MAT_INJECT_ARM (R91): A MAT_INJECT write arms a fault injection into a cell. -/
  | matInjectArm (w : RegWr)
  /-- WBUF_WINDOW_ACCESS (R73): A load or store through a weight-buffer window. -/
  | wbufWindowAccess (n : Fin 48) (id : Nat)
  /-- VECQ_EXECUTE (R115): The engine executes the vector-queue head entry or removes the faulting group's entries. -/
  | vecqExecute (n : Fin 48) (chk : LaneCheck)
  /-- VEC_FENCE_WRITE (R136): Firmware writes VEC_CFG.FENCE, taking effect or being refused. -/
  | vecFenceWrite (w : RegWr)
  /-- SLICE_ACCESS (R173): A read, write, atomic or ACCUM is performed at the home slice. -/
  | sliceAccess (n : Fin 48) (id : Nat)
  /-- SLICE_FILL (R174): A fill returns to a slice and is installed or discarded as a duplicate. -/
  | sliceFill (id : Nat)
  /-- FAR_LINE_FILL (R221): A far-line fill arrives and is installed or discarded as stale. -/
  | farLineFill (n : Fin 48) (id : Nat)
  /-- RED_EVICTION (R180): A RED line's partial is sent to the home channel adder. -/
  | redEviction (line : Nat)
  /-- CHANNEL_ACCESS (R169): An eDRAM channel performs an access with RS decoding, correction and write-back. -/
  | channelAccess (id : Nat) (symErrs : List Nat)
  /-- EDRAM_REFRESH (R171): A refresh is scheduled between bank accesses. -/
  | edramRefresh (ch : Fin 64) (bank : Fin 32)
  /-- SCRUB_STEP (R343): A scrubber reads one protected word on its timer and corrects or logs. -/
  | scrubStep (mem : ScrubMem) (inst : Nat) (found : ScrubFinding)
  /-- DMAQ_DISPATCH (R190): A DMA-queue entry is handed to its engine, which checks the descriptor. -/
  | dmaqDispatch (n : Fin 48)
  /-- DESCRIPTOR_COMPLETE (R194): A DMA or gather descriptor's writes are visible and its completion is signalled. -/
  | descriptorComplete (e : Fin 48) (id : Nat)
  /-- DESCRIPTOR_FAULT (R196): A fault stops a running descriptor and posts DMA_FAULT. -/
  | descriptorFault (e : Fin 48) (id : Nat) (ecc : Option Nat)
  /-- DDR_INIT_LINE (R439): Background DDR5 initialisation advances a channel's watermark. -/
  | ddrInitLine (ch : Fin 8)
  /-- SYNC_ARBITRATION (R233): A segment resolves one object's signal, re-arm, waits, watches and abandonment in a cycle. -/
  | syncArbitration (obj : Fin 65536)
  /-- WAIT_TIMEOUT (R231): A WAIT or FFWAIT timeout expires with TIMEOUT. -/
  | waitTimeout (n : Fin 48) (at_ : WaitPlace)
  /-- WATCH_MSG_DELIVER (R232): A held watch message is written when its queue has room. -/
  | watchMsgDeliver (seg : Fin 16) (qid : Nat)
  /-- FIREFLY_RELEASE (R241): Every participating core has arrived and the line releases to a new generation. -/
  | fireflyRelease (l : Fin 8)
  /-- FFLY_PIN_EDGE (R243): A change of level on a bound board Firefly pin. -/
  | fflyPinEdge (pin : Fin 2) (high : Bool)
  /-- TSYNC_EDGE (R269): A rising edge on the FFLY1 land latches fabric time. -/
  | tsyncEdge
  /-- FF_PIN_WRITE (R243): A write of FF_PIN binds or unbinds Firefly pins and TSYNC. -/
  | ffPinWrite (w : RegWr)
  /-- DATA_FLIT_RECEIVE (R255): A DATA flit is accepted in LSEQ order or discarded. -/
  | dataFlitReceive (p : Fin 16) (raw : Flit)
  /-- RETRY_REQ_RECEIVE (R256): A RETRY_REQ causes the sender to replay from ACK + 1. -/
  | retryReqReceive (p : Fin 16) (raw : Flit)
  /-- HEARTBEAT_RECEIVE (R266): A link HEARTBEAT is taken and the time offset filter updated. -/
  | heartbeatReceive (p : Fin 16) (raw : Flit)
  /-- PARAM_RECEIVE (R262): A PARAM flit is taken, credits set and wiring checked. -/
  | paramReceive (p : Fin 16) (raw : Flit)
  /-- DEGRADE_RECEIVE (R258): A DEGRADE flit makes the port FAILED and starts a half-width retrain. -/
  | degradeReceive (p : Fin 16) (raw : Flit)
  /-- IDLE_RECEIVE (R252): An IDLE flit carries ACK and credit returns. -/
  | idleReceive (p : Fin 16) (raw : Flit)
  /-- ALIGNMENT_FRAME_RECEIVE (R250): An alignment frame delivers lane identity, sense and frame count. -/
  | alignmentFrameReceive (p : Fin 16) (fr : AlignFrame)
  /-- RETRY_REQ_REPEAT (R256): The receiver repeats RETRY_REQ every 1 µs until the replay arrives. -/
  | retryReqRepeat (p : Fin 16)
  /-- LINK_SILENCE_TIMEOUT (R257): No valid flit for 4 µs makes the port FAILED. -/
  | linkSilenceTimeout (p : Fin 16)
  /-- LANE_LOCK_LOSS (R257): An active lane loses signal or lock and the port becomes FAILED. -/
  | laneLockLoss (p : Fin 16) (lane : Fin 16)
  /-- LANE_ERROR_LIMIT (R257): A lane's symbol errors exceed the limit within 1 ms and the port becomes FAILED. -/
  | laneErrorLimit (p : Fin 16) (lane : Fin 16) (errors : Nat)
  /-- DEGRADE_RETRAIN_DONE (R258): A half-width retrain completes and the port returns as DEGRADED. -/
  | degradeRetrainDone (p : Fin 16)
  /-- PORT_DOWN_TIMEOUT (R258): A port not ACTIVE or DEGRADED 10 ms after FAILED becomes DOWN. -/
  | portDownTimeout (p : Fin 16)
  /-- PORT_BRINGUP_START (R261): Firmware starts every enabled port after the link clocks lock. -/
  | portBringupStart
  /-- SIGNAL_DETECT (R261): Signal on all receive lanes moves a port from DETECT to TRAIN. -/
  | signalDetect (p : Fin 16)
  /-- TRAIN_COMPLETE (R261): Equalization, reversal and polarity training ends and the port enters ALIGN. -/
  | trainComplete (p : Fin 16) (found : TrainFind)
  /-- ALIGN_COMPLETE (R261): FEC lock and deskew end and the port enters PARAM. -/
  | alignComplete (p : Fin 16)
  /-- BRINGUP_TIMEOUT (R261): A state exceeds its maximum time, or 100 ms pass without ACTIVE. -/
  | bringupTimeout (p : Fin 16)
  /-- PARAM_RESEND (R261): A port in PARAM resends PARAM every 1 µs until it receives one. -/
  | paramResend (p : Fin 16)
  /-- HEARTBEAT_SEND (R266): Every active port sends a HEARTBEAT every 1 µs. -/
  | heartbeatSend (p : Fin 16)
  /-- HOLDOVER_LIMIT (R270): The holdover error bound exceeds 100 ns and SYNCED clears. -/
  | holdoverLimit
  /-- NUMBER_SEND (R277): A transaction is numbered at the port group and sent on an eligible port. -/
  | numberSend (i : Nat)
  /-- FABRIC_READ_RECEIVE (R286): A READ is admitted and answered with READ_RSP, or NAKed. -/
  | fabricReadReceive (die : Fin 4) (t : Txn)
  /-- FABRIC_WRITE_RECEIVE (R286): A WRITE is admitted and performed, or NAKed, or held under FLAG. -/
  | fabricWriteReceive (die : Fin 4) (t : Txn)
  /-- FABRIC_ACCUM_RECEIVE (R286): An ACCUM is admitted and applied at the channel adder, or NAKed. -/
  | fabricAccumReceive (die : Fin 4) (t : Txn)
  /-- FABRIC_ATOMIC_RECEIVE (R280): An ATOMIC is admitted and performed once, or its stored response resent. -/
  | fabricAtomicReceive (die : Fin 4) (t : Txn)
  /-- FABRIC_SIGNAL_RECEIVE (R238): A SIGNAL is translated and applied to a local object after its predecessors land. -/
  | fabricSignalReceive (die : Fin 4) (t : Txn)
  /-- FABRIC_MSG_RECEIVE (R286): A MSG is admitted and appended to a queue, or NAKed. -/
  | fabricMsgReceive (die : Fin 4) (t : Txn)
  /-- FABRIC_MGMT_RECEIVE (R272): An MGMT transaction is handed to firmware. -/
  | fabricMgmtReceive (die : Fin 4) (t : Txn)
  /-- TRANSIT_FORWARD (R292): An intermediate module forwards or drops a transaction. -/
  | transitForward (die : Fin 4) (m : FabMsg)
  /-- FLAG_RELEASE (R214): A held FLAG, SIGNAL or MSG is applied once its predecessors have landed. -/
  | flagRelease (src : BitVec 12) (seq : W32)
  /-- ACK_SEND (R279): A target sends a cumulative ACK within 100 ns of its advance. -/
  | ackSend (src : BitVec 12)
  /-- FABRIC_ACK_RECEIVE (R217): A cumulative ACK completes the covered transactions at the source. -/
  | fabricAckReceive (r : Resp)
  /-- READ_RSP_RECEIVE (R280): A READ_RSP returns data to its requester. -/
  | readRspReceive (r : Resp)
  /-- ATOMIC_RSP_RECEIVE (R276): An ATOMIC_RSP returns the old value to its requester. -/
  | atomicRspReceive (r : Resp)
  /-- NAK_RECEIVE (R296): A NAK fails the transaction at its issuer with the matching cause. -/
  | nakReceive (r : Resp)
  /-- RTO_EXPIRY (R281): The retransmission timer expires and the transaction is resent with RETX. -/
  | rtoExpiry (peer : BitVec 12) (seq : W32)
  /-- TRANSACTION_TIMEOUT (R297): 20 µs pass without acknowledgement and the peer becomes UNREACHABLE. -/
  | transactionTimeout (peer : BitVec 12) (seq : W32)
  /-- ATOMIC_RSP_EXPIRE (R280): A stored atomic response is released 40 µs after sending. -/
  | atomicRspExpire (peer : BitVec 12) (seq : W32)
  /-- RDX_ARM (R306): A store to RDX_ARM arms a bucket after checking its header. -/
  | rdxArm (w : RegWr)
  /-- BUCKET_START_MET (R308): A bucket's start condition holds, before or after its decision. -/
  | bucketStartMet (b : Fin 256)
  /-- BUCKET_DECISION (R308): A member fixes its included inputs when all qualify or at T(i). -/
  | bucketDecision (b : Fin 256)
  /-- READY_RECORD (R311): A child's ready record arrives and is checked and used. -/
  | readyRecord (b : Fin 256) (side : Side)
  /-- CHUNK_PULL_LAND (R310): A pulled child chunk lands in its slot and is added into SUM. -/
  | chunkPullLand (b : Fin 256) (side : Side)
  /-- DOWN_RECORD (R312): A down record arrives and the chunks are forwarded to children. -/
  | downRecord (b : Fin 256)
  /-- BUCKET_DELIVER (R312): RESULT completes, the state becomes DELIVERED and DONE_VSYNC is signalled. -/
  | bucketDeliver (b : Fin 256)
  /-- COMET (R313): A late or excluded contribution is dropped or carried. -/
  | comet (b : Fin 256)
  /-- BUCKET_NO_RESULT (R317): No FINAL down record by the limit fails the bucket with NO_RESULT. -/
  | bucketNoResult (b : Fin 256)
  /-- UPD_ARM (R325): A store to UPD_ARM arms an update run after checks. -/
  | updArm (w : RegWr)
  /-- SEGMENT_START (R326): A segment's start pair is met and its pass 1 begins. -/
  | segmentStart (r : Fin 4) (j : Nat)
  /-- UPDATE_TILE (R329): A virtual sequencer completes one tile of pass 1 or pass 2. -/
  | updateTile (r : Fin 4) (v : Fin 16)
  /-- NORM_READY_RECORD (R328): A child's norm ready record arrives. -/
  | normReadyRecord (r : Fin 4) (side : Side)
  /-- NORM_DOWN_RECORD (R328): The clip factor arrives and pass 2 starts or the run is skipped. -/
  | normDownRecord (r : Fin 4)
  /-- SEGMENT_DONE (R330): A segment's pass 2 is visible, PASS2_DONE is set and DONE_VSYNC signalled. -/
  | segmentDone (r : Fin 4) (j : Nat)
  /-- UPDATE_RUN_FAIL (R335): An error or a FAILED record fails the run. -/
  | updateRunFail (r : Fin 4) (cause : RunFail)
  /-- ERROR_RECORD (R338): A unit reports an error record, which the collector logs or coalesces. -/
  | errorRecord (rec : ErrRec)
  /-- COALESCE_WINDOW_CLOSE (R341): The 100 µs window of a record closes and its count is forwarded. -/
  | coalesceWindowClose (lsn : W32)
  /-- CKP_MARK (R347): A store to CKP_MARK is taken or refused and a boundary starts. -/
  | ckpMark (w : RegWr)
  /-- CKPT_BLOCK_COPY (R348): A PENDING block is copied to both buddies and its held writes released. -/
  | ckptBlockCopy (ctx : BitVec 8) (block : Nat)
  /-- CKPT_GENERATION_DONE (R349): The generation record is written last and the generation is complete. -/
  | ckptGenerationDone (ctx : BitVec 8)
  /-- COPY_REBUILD (R352): A segment's F-copy and T-copy are rebuilt from the master. -/
  | copyRebuild (ctx : BitVec 8) (segAddr : Nat)
  /-- MODULE_HEARTBEAT_SEND (R354): A module sends its heartbeat to each mesh peer every 100 µs. -/
  | moduleHeartbeatSend
  /-- MODULE_HEARTBEAT_MISS (R354): Missing heartbeats declare a mesh peer dead. -/
  | moduleHeartbeatMiss (peer : BitVec 12)
  /-- RECOVERY_OPEN (R356): The fabric manager opens a recovery and carries out tear-down to resume. -/
  | recoveryOpen (job : BitVec 16) (lost : Option (BitVec 12)) (faultId : W32)
  /-- MBX_GO (R361): A GO write makes the mailbox BUSY or sets OVERRUN. -/
  | mbxGo (k : Fin 9) (req : List Byte)
  /-- SESSION_OPEN (R385): Opens a PENDING session on a key, level and nonce. -/
  | sessionOpen (m : Fin 11)
  /-- SESSION_AUTH (R385): Checks the proof, derives message keys and authenticates the session. -/
  | sessionAuth (m : Fin 11)
  /-- SESSION_CLOSE (R389): Ends the session. -/
  | sessionClose (m : Fin 11)
  /-- SESSION_AUTH_TIMEOUT (R387): A PENDING session not authenticated within 1 s ends. -/
  | sessionAuthTimeout (m : Fin 11)
  /-- KEY_LOCK_EXPIRE (R388): A key's authentication lock expires. -/
  | keyLockExpire (keyId : W32)
  /-- CTX_CREATE (R367): Creates a context with its park area and event queue. -/
  | ctxCreate (m : Fin 11)
  /-- CTX_DESTROY (R368): Destroys a context and all it holds in order. -/
  | ctxDestroy (m : Fin 11)
  /-- CTX_PREEMPT (R369): Requests preemption of a context. -/
  | ctxPreempt (m : Fin 11)
  /-- CTX_RESUME (R235): Resumes a preempted context, re-arming and re-evaluating its waits. -/
  | ctxResume (m : Fin 11)
  /-- PREEMPT_EFFECT (R369): Preemption takes effect when allowed, suspending groups and abandoning objects. -/
  | preemptEffect (ctx : BitVec 8)
  /-- PREEMPT_WITHDRAW (R369): A preemption not effective within 100 ms is withdrawn with BUSY. -/
  | preemptWithdraw (ctx : BitVec 8)
  /-- REGION_MAP (R370): Writes a LOCAL or IMPORT Region Table entry. -/
  | regionMap (m : Fin 11)
  /-- REGION_UNMAP (R287): Removes a Region Table entry after admitted transactions. -/
  | regionUnmap (m : Fin 11)
  /-- REGION_EPOCH (R288): Raises an IMPORT entry's epoch, staling its far lines. -/
  | regionEpoch (m : Fin 11)
  /-- QUEUE_CREATE (R373): Creates a queue and its descriptor. -/
  | queueCreate (m : Fin 11)
  /-- QUEUE_DESTROY (R371): Destroys a queue after its taken entries finish. -/
  | queueDestroy (m : Fin 11)
  /-- KERNEL_LOAD (R454): Checks, finalizes or finds a kernel and returns a handle. -/
  | kernelLoad (m : Fin 11) (image : List Byte)
  /-- SYNC_MAP_CREATE (R372): Allocates new sync objects for a range of virtual IDs. -/
  | syncMapCreate (m : Fin 11)
  /-- SYNC_MAP_SHARE (R372): Maps virtual IDs to another context's objects. -/
  | syncMapShare (m : Fin 11)
  /-- SYNC_MAP_UNMAP (R372): Clears translation entries of a range. -/
  | syncMapUnmap (m : Fin 11)
  /-- FIREFLY_GRANT (R240): Grants Firefly lines and core masks to a context. -/
  | fireflyGrant (m : Fin 11)
  /-- FIREFLY_REVOKE (R245): Revokes a Firefly grant. -/
  | fireflyRevoke (m : Fin 11)
  /-- ROUTE_SET (R289): Writes route table entries on selected dies. -/
  | routeSet (m : Fin 11)
  /-- LPM_SET (R302): Changes the Logical Position Map of a job. -/
  | lpmSet (m : Fin 11)
  /-- FABRIC_ID_SET (R451): Assigns the module's fabric ID and announces it in PARAM. -/
  | fabricIdSet (m : Fin 11)
  /-- FABRIC_ID_CLEAR (R451): Removes the module's fabric ID. -/
  | fabricIdClear (m : Fin 11)
  /-- UPDATE_TABLE_SET (R321): Writes and makes current a context's Update Group Table. -/
  | updateTableSet (m : Fin 11) (image : List Byte)
  /-- TRACKER_ALLOC (R57): Assigns consecutive scale trackers to a context. -/
  | trackerAlloc (m : Fin 11)
  /-- TRACKER_FREE (R61): Frees trackers and clears their entries. -/
  | trackerFree (m : Fin 11)
  /-- CKPT_CONFIG (R344): Configures checkpoint regions, buddies and resume entry. -/
  | ckptConfig (m : Fin 11)
  /-- SPARE_POLICY (R339): Sets spare mode and error thresholds. -/
  | sparePolicy (m : Fin 11)
  /-- DPT_READ (R23): Returns a consistent copy of DPT entries. -/
  | dptRead (m : Fin 11)
  /-- TELEMETRY_READ (R366): Returns a telemetry set. -/
  | telemetryRead (m : Fin 11)
  /-- ERRLOG_READ (R338): Returns error log records from a sequence number. -/
  | errlogRead (m : Fin 11)
  /-- POWER_LIMIT_SET (R407): Sets the power limit and returns the applied value. -/
  | powerLimitSet (m : Fin 11)
  /-- SELFTEST_REPORT (R416): Returns Cicada records. -/
  | selftestReport (m : Fin 11)
  /-- SELFTEST_RUN (R413): Starts Cicada tests of requested domains. -/
  | selftestRun (m : Fin 11)
  /-- FW_UPDATE (R393): Verifies and writes a firmware image to a slot. -/
  | fwUpdate (m : Fin 11) (image : List Byte)
  /-- LIFECYCLE_ADVANCE (R394): Starts a life-cycle transition. -/
  | lifecycleAdvance (m : Fin 11)
  /-- TRANSITION_COMPLETE (R396): The transition's effects finish, the state fuse burns and the module resets. -/
  | transitionComplete
  /-- KEY_LOAD (R384): A tester loads a key record through the test access port. -/
  | keyLoad (rec : KeyLoad)
  /-- SMB_BLOCK_WRITE (R365): Delivers a request fragment to an SMBus mailbox. -/
  | smbBlockWrite (m : Fin 2) (off : Nat) (frag : List Byte)
  /-- SMB_BLOCK_READ (R365): Returns the next response fragment. -/
  | smbBlockRead (m : Fin 2)
  /-- SMB_STATE_READ (R365): Returns a mailbox state byte. -/
  | smbStateRead (m : Fin 2)
  /-- SMB_GO (R365): A zero-length Block Write acts as GO on an SMBus mailbox. -/
  | smbGo (m : Fin 2)
  /-- SMB_STATUS_READ (R429): Returns the module status byte. -/
  | smbStatusRead
  /-- DOORBELL (R374): A doorbell store proposes a new producer or consumer index. -/
  | doorbell (w : RegWr)
  /-- LAUNCH_ENTRY_TAKE (R377): The queue block takes and checks a LAUNCH entry. -/
  | launchEntryTake (qid : Nat)
  /-- LAUNCH_WATCH_RETRY (R377): A refused start watch is retried every 1 µs. -/
  | launchWatchRetry (qid : Nat)
  /-- LAUNCH_PLACE (R378): Groups of a launch start on a core when resources free. -/
  | launchPlace (id : Nat) (n : Fin 48)
  /-- LAUNCH_COMPLETE (R378): The last group ends, DONE_VSYNC is signalled and LAUNCH_DONE posted. -/
  | launchComplete (id : Nat)
  /-- DMA_QUEUE_TAKE (R190): An engine takes a descriptor from a DMA-type hardware queue. -/
  | dmaQueueTake (qid : Nat)
  /-- HELD_EVENT_POST (R376): A held event or completion is written when its queue has room. -/
  | heldEventPost (qid : Nat)
  /-- TRNG_HEALTH_FAIL (R392): A continuous TRNG health test fails and the security module enters its error state. -/
  | trngHealthFail
  /-- DORMANT_ENTRY (R401): An idle cluster enters DORMANT after the dwell time. -/
  | dormantEntry (k : Fin 16)
  /-- DORMANT_WAKE (R402): A wake event brings a DORMANT cluster back or cancels its entry. -/
  | dormantWake (k : Fin 16) (why : WakeCause)
  /-- STAGGER_SLOT (R403): A cluster state change takes its 2.5 µs stagger slot. -/
  | staggerSlot (k : Fin 16)
  /-- WAKE_FIRST_ISSUE (R403): A woken cluster issues exactly 45 µs after its wake, applying held writes first. -/
  | wakeFirstIssue (k : Fin 16)
  /-- SELF_REFRESH_ENTRY (R405): Idle channels beside a DORMANT cluster enter self-refresh. -/
  | selfRefreshEntry (ch : Fin 64)
  /-- TIMER_SLOT_COMPARE (R406): An AON compare slot reaches its value and wakes its cluster. -/
  | timerSlotCompare (i : Fin 16)
  /-- POLL_TICK (R406): The 100 µs polling tick fires due wake timers. -/
  | pollTick
  /-- POWER_SAMPLE (R407): The 10 µs draw sample updates the average and throttles. -/
  | powerSample (mW : Nat)
  /-- CCLK_STEP (R399): A cluster clock changes by one 25 MHz step. -/
  | cclkStep (k : Fin 16) (up : Bool)
  /-- THERMAL_CHECK (R408): Die temperature throttles or trips the module. -/
  | thermalCheck (die : Fin 4) (cTemp mTemp : Int)
  /-- HELD_WRITE (R410): A register write to a stopped domain is held. -/
  | heldWrite (w : RegWr)
  /-- CICADA_TEST_DONE (R416): A domain test ends and its record is written. -/
  | cicadaTestDone (dom : Fin 32) (res : CicadaResult)
  /-- CICADA_SEGMENT_TEST (R415): One eDRAM segment per channel is copied, tested and restored. -/
  | cicadaSegmentTest (die : Fin 4) (seg : Nat) (step : SegStep)
  /-- RAIL_FAULT (R423): A rail stays outside its window for 5 µs and the module holds itself in reset. -/
  | railFault (rail : Rail)
  /-- COLD_RESET (R426): Rails rise and everything resets. -/
  | coldReset
  /-- PWRGOOD_RISE (R441): Straps are sampled and boot starts toward READY. -/
  | pwrgoodRise (straps : Straps)
  /-- PWRGOOD_FALL (R426): A low of 10 µs or more is a module reset. -/
  | pwrgoodFall
  /-- HOST_RESET (R426): PERST# or function-level reset resets the PCIe endpoint and mailboxes. -/
  | hostReset
  /-- BOOT_READY (R441): Boot ends, READY is set and waiting mailbox commands run. -/
  | bootReady
  /-- BAR2_ACCESS (R437): A host BAR2 access is performed or completed with Unsupported Request. -/
  | bar2Access (acc : Bar2Acc)
  /-- TRK_ADVANCE (R58): Advances a tracker's history and exponent. -/
  | trkAdvance (w : RegWr)
  /-- TRK_CLEAR_HIST (R57): Clears a tracker's history. -/
  | trkClearHist (w : RegWr)
  /-- NUM_CLR_COUNTS (R64): Clears NUM counters. -/
  | numClrCounts (w : RegWr)
  /-- MAT_CLR_COUNTS (R90): Clears MAT counters. -/
  | matClrCounts (w : RegWr)
  /-- MAT_CLR_CHECK (R90): Clears an array's residue record. -/
  | matClrCheck (w : RegWr)
  /-- VEC_CLR_COUNTS (R137): Clears VEC counters. -/
  | vecClrCounts (w : RegWr)
  /-- VEC_CLR_CHECK (R137): Clears the VEC residue record. -/
  | vecClrCheck (w : RegWr)
  /-- THR_CLR_COUNTS (R164): Clears THR counters. -/
  | thrClrCounts (w : RegWr)
  /-- SLC_CLR_COUNTS (R200): Clears slice counters. -/
  | slcClrCounts (w : RegWr)
  /-- SLC_FLUSH_RED (R180): Evicts all RED lines of a slice. -/
  | slcFlushRed (w : RegWr)
  /-- SLC_CLR_WEEVIL (R200): Clears a slice's Weevil filter. -/
  | slcClrWeevil (w : RegWr)
  /-- LSU_CLR_COUNTS (R201): Clears LSU counters. -/
  | lsuClrCounts (w : RegWr)
  /-- XFR_CLR_COUNTS (R201): Clears XFR counters. -/
  | xfrClrCounts (w : RegWr)
  /-- SYN_CLR_COUNTS (R246): Clears SYN counters. -/
  | synClrCounts (w : RegWr)
  /-- SYN_XLT_INVAL (R246): Invalidates all cached sync translations. -/
  | synXltInval (w : RegWr)
  /-- LNK_CLR_COUNTS (R271): Clears link counters. -/
  | lnkClrCounts (w : RegWr)
  /-- LNK_RETRAIN (R260): Firmware starts a retrain or full bring-up of a port. -/
  | lnkRetrain (w : RegWr)
  /-- LNK_DISABLE (R271): Firmware disables a port. -/
  | lnkDisable (w : RegWr)
  /-- FAB_CLR_COUNTS (R300): Clears FAB counters. -/
  | fabClrCounts (w : RegWr)
  /-- RDX_CLR_COUNTS (R319): Clears RDX counters. -/
  | rdxClrCounts (w : RegWr)
  /-- UPD_CLR_COUNTS (R336): Clears UPD counters. -/
  | updClrCounts (w : RegWr)
  /-- ERR_CLR_COUNTS (R359): Clears ERR counters. -/
  | errClrCounts (w : RegWr)
  /-- ERR_CLR_OVERFLOW (R359): Clears ERR_STATUS.OVERFLOW. -/
  | errClrOverflow (w : RegWr)
  /-- CKP_CLR_COUNTS (R359): Clears CKP counters. -/
  | ckpClrCounts (w : RegWr)
  /-- QUE_CLR_COUNTS (R382): Clears QUE counters. -/
  | queClrCounts (w : RegWr)
  /-- QUE_FLUSH (R382): Writes back every cached queue descriptor. -/
  | queFlush (w : RegWr)
  /-- SEC_CLR_COUNTS (R397): Clears SEC counters. -/
  | secClrCounts (w : RegWr)
  /-- PWR_CLR_COUNTS (R418): Clears PWR counters. -/
  | pwrClrCounts (w : RegWr)
  /-- HST_CLR_COUNTS (R436): Clears HST counters. -/
  | hstClrCounts (w : RegWr)
  /-- PMC_CLR_COUNTS (R445): Clears PMC counters. -/
  | pmcClrCounts (w : RegWr)
  /-- PMC_SNAP_NOW (R448): Takes a PMC snapshot at once. -/
  | pmcSnapNow (w : RegWr)
  /-- PMC_SNAP_TIME_WRITE (R448): Schedules a PMC snapshot at a fabric time. -/
  | pmcSnapTimeWrite (w : RegWr)
  /-- PMC_SNAPSHOT (R448): Fabric time reaches PMC_SNAP_TIME and counters are copied. -/
  | pmcSnapshot (die : Fin 4)
  /-- PMC_SEL_WRITE (R445): Selects a counter's event, instance and context. -/
  | pmcSelWrite (w : RegWr)
  /-- REGISTER_READ (R5): A register read by the host through BAR0 or by firmware clears RC fields and sets or clears the reader's STALE bit in PWR_RDSTAT. -/
  | registerRead (src : RegSrc) (addr : Nat) (bytes : Nat)
  /-- FIREFLY_HOLD_END (R241): 16 ns, or 64 ns for a pin-bound line, after a release the participating cores drive the line low again for the next generation. -/
  | fireflyHoldEnd (l : Fin 8)
  /-- RAIL_EXCURSION_START (R423): A rail leaves its tolerance window while PWRGOOD is high, starting the 5 µs count. -/
  | railExcursionStart (rail : Rail)
  /-- RAIL_GLITCH (R423): A rail returns to its window within 5 µs and the excursion is counted in HST_RAIL_GLITCHES. -/
  | railGlitch (rail : Rail)
  /-- AVS_STATUS_FAULT (R422): A VDD_CORE regulator reports a status fault over AVSBus, which raises the rail fault of R423. -/
  | avsStatusFault (d : Fin 4)
  /-- REFCLK_LOSS (R398): REFCLK becomes absent and AONCLK switches to the internal oscillator. -/
  | refclkLoss
  /-- REFCLK_RETURN (R398): REFCLK returns and AONCLK again derives from REFCLK ÷ 8. -/
  | refclkReturn
  /-- PERST_DEASSERT (R426): PERST# rises, ending the host reset so that the PCIe endpoint retrains and the mailboxes return to service. -/
  | perstDeassert
  /-- VDD_AON_LOSS (R425): VDD_AON is removed, stopping the AON seconds counter so that AON_LOST is set at its return. -/
  | vddAonLoss
  deriving DecidableEq, Repr

end Sys2Proof
end

