-- ==== Sys2Proof/WellFormed.lean ====
section
/-! DEFINITION. Which commands are well formed: operands in the ranges their types leave open. -/

namespace Sys2Proof

/-- A register or doorbell write: a width of 1, 2, 4 or 8 bytes, and a value that fits it. -/
def RegWr.wf (w : RegWr) : Bool :=
  [1, 2, 4, 8].contains w.bytes && decide (w.value.toNat < 2 ^ (8 * w.bytes)) && decide (w.addr < 2 ^ 49)

/-- A flit is 256 bytes (11 R250). -/
def Flit.wf (f : Flit) : Bool := f.bytes.length == 256

/-- A transaction: reserved types are received too; the payload is no longer than 512 bytes (12 R273). -/
def Txn.wf (t : Txn) : Bool := decide (t.ty < 16) && decide (t.op < 16) && decide (t.payload.length ≤ 512)

end Sys2Proof
end

