-- ==== Sys2Proof/Config.lean ====
section
/-! DEFINITION. What an implementation fixes and the spec does not, and the free values: constants without a body, applied
to the operands or to the counter `State.free`, so that nothing can be proved of their values. -/

namespace Sys2Proof.Config

/-- A free 32-bit value per draw (log entry 3). -/
opaque freeW32 : Nat → W32
/-- A free byte per draw (log entry 3). -/
opaque freeByte : Nat → Byte
/-- A free 64-bit value per draw (log entry 3). -/
opaque freeW64 : Nat → W64
/-- A free natural number per draw (log entry 3). -/
opaque freeNat : Nat → Nat
/-- The set of a slice that a line address falls into (08 Cache slices names 16 ways and 512 sets of lines, and no index
function). -/
opaque sliceSet : Nat → Nat

/-- The lengths the finalizer chooses for the native sweeps of a contraction in a normal-mode context (02 R32, 03 R51), by the kernel cache's key
(R29: digest, DPT_GEN, FINALIZER_REV), code address and K that remains. -/
opaque sweepSplit : List Byte × Nat × Nat → Nat → Nat → Nat

/-- What an MGMT transaction says to firmware. Its OP and payload are firmware's own (12 Table 12.1), so how they spell this is open (log entry 58). -/
inductive Mgmt where
  | heartbeat (state : Nat)
  | record (bytes : List Byte)
  | more (fault count : Nat)
  | quiesce (job : Nat)
  | latch (ftime : Nat)
  | reset
  | base (start : Nat)
  | journal (bytes : List Byte)
  | reserve (ctx bytes : Nat)
  | release (ctx : Nat)
  | promote
  | other
  deriving DecidableEq, Repr, Inhabited

/-- The hops of a module along its tree of upstream ports (11 R268): the tree is other modules' state (log entry 95). -/
opaque hopsOf : Nat → Nat
/-- What an MGMT transaction's OP and payload say. -/
opaque mgmtRead : Nat → List Byte → Mgmt
/-- The OP and payload that say it. -/
opaque mgmtWrite : Mgmt → Nat × List Byte
/-- Where a checkpoint engine writes in a buddy's memory, in units of 512 bytes (15 R349 and 08 R452 give the areas and not their layout): of a context,
buddy, area, and the block, or 0 for the generation record. -/
opaque genAddr : Nat → Bool → Nat → Nat → Nat

/-- The bytes of microcode that the finalizer makes of a container, by its digest, mode, DPT_GEN and FINALIZER_REV (02 R29 says that it is a
function of them). -/
opaque microBytes : List Byte → Bool → Nat → Nat → Nat
/-- The revision of the finalizer in a firmware image, by the image's version (02 Table 2.1: it changes only with FW_VERSION; log entry 5). -/
opaque finalizerRev : Nat → Nat
/-- Whether the two buddies of a CKPT_CONFIG have reserved their areas: other modules' state, by draw (log entry 62). -/
opaque buddiesReserve : Nat → Bool
/-- Whether a firmware image's signature verifies under the fused public key (17 R393 names ECDSA P-384; log entry 9), by header bytes and signature. -/
opaque fwSigned : List Byte → List Byte → Bool

end Sys2Proof.Config
end

