-- ==== Sys2Proof/Machine/Store.lean ====
section
/-! DEFINITION. Sparse maps: lists of (key, value) pairs with strictly rising keys, and total maps in which no
entry equal to the default is listed, so that equal maps are equal data. -/

namespace Sys2Proof.Machine

/-- A sparse map: pairs with strictly rising keys. -/
abbrev SMap (α : Type) := List (Nat × α)

/-- The entry at a key. -/
def SMap.get? {α : Type} : SMap α → Nat → Option α
  | [], _ => none
  | (k, v) :: m, i => if k = i then some v else SMap.get? m i

/-- The map with a key set. -/
def SMap.put {α : Type} : SMap α → Nat → α → SMap α
  | [], i, x => [(i, x)]
  | (k, v) :: m, i, x =>
    if i < k then (i, x) :: (k, v) :: m
    else if i = k then (i, x) :: m
    else (k, v) :: SMap.put m i x

/-- The map without a key. -/
def SMap.del {α : Type} : SMap α → Nat → SMap α
  | [], _ => []
  | (k, v) :: m, i => if k = i then SMap.del m i else (k, v) :: SMap.del m i

/-- The entry at a key, or a default. -/
def SMap.getD {α : Type} (m : SMap α) (i : Nat) (d : α) : α := (SMap.get? m i).getD d

/-- A total map's update: writing the default removes the entry. -/
def SMap.setD {α : Type} [DecidableEq α] (m : SMap α) (i : Nat) (d x : α) : SMap α :=
  if x = d then SMap.del m i else SMap.put m i x

/-- The entry at a key changed, where there is one. -/
def SMap.mod {α : Type} (m : SMap α) (i : Nat) (f : α → α) : SMap α :=
  match SMap.get? m i with
  | some v => SMap.put m i (f v)
  | none => m

/-- Whether the keys rise strictly and all lie above `lo`. -/
def SMap.above {α : Type} : Nat → SMap α → Bool
  | _, [] => true
  | lo, (k, _) :: m => decide (lo < k) && SMap.above k m

/-- Whether the keys rise strictly. -/
def SMap.sorted {α : Type} : SMap α → Bool
  | [] => true
  | (k, _) :: m => SMap.above k m

/-- The sorted map of a list of pairs; a later pair wins. -/
def SMap.ofList {α : Type} (l : List (Nat × α)) : SMap α := l.foldl (fun m p => SMap.put m p.1 p.2) []

/-- The lowest natural number that is no key, from `i` on (`fuel` tries). -/
def SMap.freeKey {α : Type} (m : SMap α) : Nat → Nat → Nat
  | 0, i => i
  | fuel + 1, i => if (SMap.get? m i).isSome then SMap.freeKey m fuel (i + 1) else i

/-- A key that is above every key of the map. -/
def SMap.nextKey {α : Type} (m : SMap α) : Nat := m.foldl (fun a p => max a (p.1 + 1)) 0

/-- The element at an index of a list, or a default. -/
def nth {α : Type} (l : List α) (i : Nat) (d : α) : α := l.getD i d

/-- The element at an index changed, where there is one. -/
def modAt {α : Type} : List α → Nat → (α → α) → List α
  | [], _, _ => []
  | x :: xs, 0, f => f x :: xs
  | x :: xs, i + 1, f => x :: modAt xs i f

/-- The element at an index replaced, where there is one. -/
def setAt {α : Type} (l : List α) (i : Nat) (x : α) : List α := modAt l i (fun _ => x)

/-- A list padded to at least `n` elements. -/
def padUp {α : Type} (n : Nat) (d : α) (l : List α) : List α := l ++ List.replicate (n - l.length) d

/-- The numbers below `n` that satisfy `p`, rising. -/
def below (n : Nat) (p : Nat → Bool) : List Nat := (List.range n).filter p

/-- The first element that satisfies `p`, with its index. -/
def findIdxFrom {α : Type} (p : α → Bool) : Nat → List α → Option (Nat × α)
  | _, [] => none
  | i, x :: xs => if p x then some (i, x) else findIdxFrom p (i + 1) xs

/-- The list without the element at an index. -/
def dropAt {α : Type} : List α → Nat → List α
  | [], _ => []
  | _ :: xs, 0 => xs
  | x :: xs, i + 1 => x :: dropAt xs i

/-- Cut a list into pieces of `n` elements (`fuel` pieces at most). -/
def chunksOf {α : Type} (n : Nat) : Nat → List α → List (List α)
  | 0, _ => []
  | fuel + 1, l => if l.isEmpty then [] else l.take n :: chunksOf n fuel (l.drop n)

/-- A list cut or padded to `n` elements. -/
def padTo {α : Type} (n : Nat) (d : α) (l : List α) : List α :=
  l.take n ++ List.replicate (n - l.length) d

end Sys2Proof.Machine
end

