-- ==== Sys2Proof/Machine/Fp.lean ====
section
/-! DEFINITION. FP32 and BF16 arithmetic (03 R41, R42; 06 R118, R130, R131): every result is the exact value rounded
once to the nearest, ties to even, with the flags of 06 Table 6.11. Values are exact dyadics until the one rounding. -/

namespace Sys2Proof.Machine

/-- What an FP32 value is: a NaN, an infinity, or `± m × 2^e` exactly. -/
inductive FVal where
  | nan
  | inf (neg : Bool)
  | fin (neg : Bool) (m : Nat) (e : Int)
  deriving DecidableEq, Repr

/-- A result with its flags, bits [4:0] in the order of 06 Table 6.11. -/
structure FRes where
  v : W32
  fl : Nat
  deriving DecidableEq, Repr

/-- 06 Table 6.11 [0]. -/
def flInvalid : Nat := 1
/-- 06 Table 6.11 [1]. -/
def flDivZero : Nat := 2
/-- 06 Table 6.11 [2]. -/
def flOverflow : Nat := 4
/-- 06 Table 6.11 [3]. -/
def flUnderflow : Nat := 8
/-- 06 Table 6.11 [4]. -/
def flInexact : Nat := 16

/-- The quiet NaN of R41. -/
def fNaN : W32 := 0x7FC00000
/-- `+∞`. -/
def fPosInf : W32 := 0x7F800000
/-- `−∞`. -/
def fNegInf : W32 := 0xFF800000
/-- `1.0`. -/
def fOne : W32 := 0x3F800000
/-- `+0.0`. -/
def fZero : W32 := 0

/-- The sign bit as a number's top bit. -/
def signBit (neg : Bool) : Nat := if neg then 0x80000000 else 0

/-- The infinity of a sign. -/
def fInf (neg : Bool) : W32 := if neg then fNegInf else fPosInf

/-- The zero of a sign. -/
def fZeroOf (neg : Bool) : W32 := if neg then 0x80000000 else 0

/-- The value that FP32 bits hold (R41, Table 3.3; subnormals kept). -/
def fval (x : W32) : FVal :=
  let n := x.toNat
  let neg := n.testBit 31
  let e := field n 23 8
  let f := field n 0 23
  if e = 255 then (if f = 0 then .inf neg else .nan)
  else if e = 0 then .fin neg f (-149)
  else .fin neg (f + 0x800000) ((e : Int) - 150)

/-- Whether FP32 bits are a NaN. -/
def isNaN (x : W32) : Bool := field x.toNat 23 8 = 255 && field x.toNat 0 23 ≠ 0
/-- Whether FP32 bits are an infinity. -/
def isInf (x : W32) : Bool := field x.toNat 23 8 = 255 && field x.toNat 0 23 = 0

/-- `m / 2^d` rounded to the nearest integer, ties to even. -/
def shiftRne (m d : Nat) : Nat :=
  if d = 0 then m
  else
    let q := m >>> d
    let r := m % 2 ^ d
    let half := 2 ^ (d - 1)
    if r > half || (r = half && q % 2 = 1) then q + 1 else q

/-- `m × 2^e` rounded to a multiple of `2^t`: the multiple's count and whether bits were lost. -/
def roundAt (m : Nat) (e t : Int) : Nat × Bool :=
  if t ≤ e then (m <<< (e - t).toNat, false)
  else
    let d := (t - e).toNat
    (shiftRne m d, m % 2 ^ d ≠ 0)

/-- rne_fp32 of the exact value `± m × 2^e` (R41; flags as 06 R131: tiny is judged after rounding to 24 bits with
unbounded exponent). -/
def roundFp32 (neg : Bool) (m : Nat) (e : Int) : FRes :=
  if m = 0 then ⟨fZeroOf neg, 0⟩
  else
    let top : Int := e + (m.log2 : Int)
    let t : Int := max (top - 23) (-149)
    let r := roundAt m e t
    let bits := if t = -149 then r.1 else (t + 149).toNat * 0x800000 + r.1
    if bits ≥ 0x7F800000 then ⟨fInf neg, flOverflow + flInexact⟩
    else
      let tiny : Bool :=
        if top ≥ -126 then false
        else if top < -127 then true
        else (roundAt m e (top - 23)).1 < 0x1000000
      let fl := (if r.2 then flInexact else 0) + (if r.2 && tiny then flUnderflow else 0)
      ⟨BitVec.ofNat 32 (signBit neg + bits), fl⟩

/-- rne_fp32 of a value known to lie strictly between `m × 2^e` and `(m + 1) × 2^e`. -/
def roundSticky (neg : Bool) (m : Nat) (e : Int) : FRes := roundFp32 neg (2 * m + 1) (e - 1)

/-- rne_fp32 of the exact integer dyadic `x × 2^e`; a zero has the sign `zneg`. -/
def roundInt (x : Int) (e : Int) (zneg : Bool) : FRes :=
  if x = 0 then ⟨fZeroOf zneg, 0⟩ else roundFp32 (decide (x < 0)) x.natAbs e

/-- `± m` as an integer. -/
def sgnInt (neg : Bool) (m : Nat) : Int := if neg then -(m : Int) else (m : Int)

/-- The exact sum of two dyadics, with its exponent. -/
def dySum (x : Int) (ex : Int) (y : Int) (ey : Int) : Int × Int :=
  let e := min ex ey
  (x * 2 ^ (ex - e).toNat + y * 2 ^ (ey - e).toNat, e)

/-- rne_fp32(a + b) of values. -/
def addVal (a b : FVal) : FRes :=
  match a, b with
  | .nan, _ => ⟨fNaN, 0⟩
  | _, .nan => ⟨fNaN, 0⟩
  | .inf s, .inf t => if s = t then ⟨fInf s, 0⟩ else ⟨fNaN, flInvalid⟩
  | .inf s, .fin _ _ _ => ⟨fInf s, 0⟩
  | .fin _ _ _, .inf t => ⟨fInf t, 0⟩
  | .fin s m e, .fin t n f =>
    let r := dySum (sgnInt s m) e (sgnInt t n) f
    roundInt r.1 r.2 (s && t)

/-- The value negated. -/
def negVal : FVal → FVal
  | .nan => .nan
  | .inf s => .inf (!s)
  | .fin s m e => .fin (!s) m e

/-- The exact product of two values, none for an invalid one. -/
def mulVal (a b : FVal) : Option FVal :=
  match a, b with
  | .nan, _ => some .nan
  | _, .nan => some .nan
  | .inf s, .inf t => some (.inf (s != t))
  | .inf s, .fin t n _ => if n = 0 then none else some (.inf (s != t))
  | .fin s m _, .inf t => if m = 0 then none else some (.inf (s != t))
  | .fin s m e, .fin t n f => some (.fin (s != t) (m * n) (e + f))

/-- A value rounded. -/
def ofVal : FVal → FRes
  | .nan => ⟨fNaN, 0⟩
  | .inf s => ⟨fInf s, 0⟩
  | .fin s m e => roundFp32 s m e

/-- rne_fp32(a + b). -/
def fadd (a b : W32) : FRes := addVal (fval a) (fval b)
/-- rne_fp32(a − b). -/
def fsub (a b : W32) : FRes := addVal (fval a) (negVal (fval b))
/-- rne_fp32(a · b). -/
def fmul (a b : W32) : FRes :=
  match mulVal (fval a) (fval b) with
  | none => ⟨fNaN, flInvalid⟩
  | some v => ofVal v
/-- rne_fp32(a · b + c), one rounding. -/
def ffma (a b c : W32) : FRes :=
  match mulVal (fval a) (fval b) with
  | none => if isNaN c then ⟨fNaN, 0⟩ else ⟨fNaN, flInvalid⟩
  | some v => addVal v (fval c)

/-- The integer square root of `n`, `k` bits of it. -/
def isqrtBits : Nat → Nat → Nat → Nat
  | 0, _, r => r
  | k + 1, n, r =>
    let c := r + 2 ^ k
    isqrtBits k n (if c * c ≤ n then c else r)

/-- The integer square root of a number below `2^256`. -/
def isqrt (n : Nat) : Nat := isqrtBits (n.log2 / 2 + 1) n 0

/-- The exact quotient of two finite values rounded once. -/
def divFin (neg : Bool) (m : Nat) (e : Int) (n : Nat) (f : Int) : FRes :=
  let k := 80 + n.log2
  let num := m <<< k
  let q := num / n
  if num % n = 0 then roundFp32 neg q (e - f - k) else roundSticky neg q (e - f - k)

/-- rne_fp32(a / b). -/
def fdiv (a b : W32) : FRes :=
  match fval a, fval b with
  | .nan, _ => ⟨fNaN, 0⟩
  | _, .nan => ⟨fNaN, 0⟩
  | .inf _, .inf _ => ⟨fNaN, flInvalid⟩
  | .inf s, .fin t _ _ => ⟨fInf (s != t), 0⟩
  | .fin s _ _, .inf t => ⟨fZeroOf (s != t), 0⟩
  | .fin s m e, .fin t n f =>
    if n = 0 then (if m = 0 then ⟨fNaN, flInvalid⟩ else ⟨fInf (s != t), flDivZero⟩)
    else divFin (s != t) m e n f

/-- rne_fp32(√a). -/
def fsqrt (a : W32) : FRes :=
  match fval a with
  | .nan => ⟨fNaN, 0⟩
  | .inf s => if s then ⟨fNaN, flInvalid⟩ else ⟨fPosInf, 0⟩
  | .fin s m e =>
    if m = 0 then ⟨a, 0⟩
    else if s then ⟨fNaN, flInvalid⟩
    else
      let odd := e % 2 ≠ 0
      let m2 := if odd then 2 * m else m
      let e2 := if odd then e - 1 else e
      let n := m2 <<< 80
      let r := isqrt n
      if r * r = n then roundFp32 false r ((e2 - 80) / 2) else roundSticky false r ((e2 - 80) / 2)

/-- The order of two values that are no NaN: `−1`, `0`, `1`; `−0.0` equals `+0.0`. -/
def cmpVal (a b : FVal) : Int :=
  match a, b with
  | .inf s, .inf t => if s = t then 0 else if s then -1 else 1
  | .inf s, _ => if s then -1 else 1
  | _, .inf t => if t then 1 else -1
  | .fin s m e, .fin t n f =>
    let r := dySum (sgnInt s m) e (-(sgnInt t n)) f
    if r.1 < 0 then -1 else if r.1 = 0 then 0 else 1
  | _, _ => 0

/-- The order of FP32 bits that are no NaN. -/
def fcmp (a b : W32) : Int := cmpVal (fval a) (fval b)

/-- min as TMIN: NaN where an operand is one, `−0.0` below `+0.0`. -/
def fmin (a b : W32) : W32 :=
  if isNaN a || isNaN b then fNaN
  else
    let c := fcmp a b
    if c < 0 then a else if c > 0 then b else if a.msb then a else b

/-- max as TMAX. -/
def fmax (a b : W32) : W32 :=
  if isNaN a || isNaN b then fNaN
  else
    let c := fcmp a b
    if c > 0 then a else if c < 0 then b else if a.msb then b else a

/-- The condition codes of TCMP: 0 LT, 1 LE, 2 EQ, 3 NE, 4 GE, 5 GT; with a NaN 0 but for NE, and INVALID. -/
def fcond (code : Nat) (a b : W32) : Bool × Nat :=
  if isNaN a || isNaN b then (code = 3, flInvalid)
  else
    let c := fcmp a b
    (match code with
      | 0 => c < 0
      | 1 => c ≤ 0
      | 2 => c = 0
      | 3 => c ≠ 0
      | 4 => c ≥ 0
      | 5 => c > 0
      | _ => false, 0)

/-- BF16 bits widened (R42): exact, a NaN becomes the quiet NaN. -/
def bf16ToFp32 (b : W16) : W32 :=
  let x : W32 := BitVec.ofNat 32 (b.toNat * 0x10000)
  if isNaN x then fNaN else x

/-- rne_bf16 (R42), with the flags of IEEE 754 rounding to BF16 precision. -/
def fp32ToBf16 (x : W32) : W16 × Nat :=
  if isNaN x then (0x7FC0, 0)
  else if isInf x then (BitVec.ofNat 16 (x.toNat / 0x10000), 0)
  else
    let n := x.toNat % 0x80000000
    let q := shiftRne n 16
    let s := if x.msb then 0x8000 else 0
    let inexact := n % 0x10000 ≠ 0
    if q ≥ 0x7F80 then (BitVec.ofNat 16 (s + 0x7F80), flOverflow + flInexact)
    else
      -- tiny after rounding to 8 bits with unbounded exponent: below the first normal
      let tiny := n < 0x00800000 - 0x4000 || (n < 0x00800000 && q < 0x80)
      (BitVec.ofNat 16 (s + q), (if inexact then flInexact else 0) + (if inexact && tiny then flUnderflow else 0))

/-- An integer clamped to the int32 range (R118). -/
def clampI32 (x : Int) : Option W32 :=
  if x > 0x7FFFFFFF then none else if x < -0x80000000 then none else some (BitVec.ofInt 32 x)

/-- FP32 to int32 (R118): kind 1 rounds to nearest, kind 2 toward zero. -/
def fp32ToInt (rne : Bool) (x : W32) : FRes :=
  match fval x with
  | .nan => ⟨0, flInvalid⟩
  | .inf s => ⟨if s then 0x80000000 else 0x7FFFFFFF, flInvalid⟩
  | .fin s m e =>
    let r : Nat × Bool :=
      if e ≥ 0 then (m <<< e.toNat, false)
      else
        let d := (-e).toNat
        (if rne then shiftRne m d else m >>> d, m % 2 ^ d ≠ 0)
    match clampI32 (sgnInt s r.1) with
    | none => ⟨if s then 0x80000000 else 0x7FFFFFFF, flInvalid⟩
    | some v => ⟨v, if r.2 then flInexact else 0⟩

/-- int32 to FP32 by rne_fp32 (R118 kind 3). -/
def intToFp32 (x : W32) : FRes := roundInt x.toInt 0 false

/-- FP32 rounded to BF16 precision (R118 kind 0). -/
def roundBf16 (x : W32) : FRes :=
  let r := fp32ToBf16 x
  ⟨bf16ToFp32 r.1, r.2⟩

/-- The conversions of TCVT, FCVT and the CVT stage, kinds 0 to 3 (R118). -/
def fconvert (kind : Nat) (x : W32) : FRes :=
  match kind with
  | 0 => roundBf16 x
  | 1 => fp32ToInt true x
  | 2 => fp32ToInt false x
  | _ => intToFp32 x

/-- The FP32 value of an unsigned integer. -/
def natToFp32 (n : Nat) : W32 := (roundFp32 false n 0).v

end Sys2Proof.Machine
end

