-- ==== Sys2Proof/Machine/Special.lean ====
section
/-! DEFINITION. The special functions of 06 R130: the exact value rounded once. Each is evaluated in fixed point with at
least 100 bits to spare beyond FP32's 24, and the result is rounded as a value strictly between two neighbours of that
fine grid; the exact cases of Table 6.7 are taken first (log entry 8). -/

namespace Sys2Proof.Machine

/-- `ln 2` with 320 fraction bits, rounded down. -/
def ln2Fix : Nat :=
  0xb17217f7d1cf79abc9e3b39803f2f6af40f343267298b62d8a0d175b8baafa2be7b876206debac98

/-- `π` with 320 fraction bits, rounded down. -/
def piFix : Nat :=
  0x3243f6a8885a308d313198a2e03707344a4093822299f31d0082efa98ec4e6c89452821e638d01377

/-- The fraction bits of the evaluation. -/
def fxBits : Nat := 256

/-- The sum `term + term·z/k + term·z²/(k(k+1)) + …` in fixed point. -/
def expSeries (z : Nat) : Nat → Nat → Nat → Nat → Nat
  | 0, _, _, acc => acc
  | fuel + 1, k, term, acc => expSeries z fuel (k + 1) ((term * z) >>> fxBits / k) (acc + term)

/-- `2^f` for a fixed-point `f` in `[0, 1)`, in `[1, 2)`, fixed point. -/
def exp2Frac (f : Nat) : Nat :=
  let z := (f * (ln2Fix >>> (320 - fxBits))) >>> fxBits
  expSeries z 70 1 (2 ^ fxBits) 0

/-- The floor of a dyadic's value in units of `2^-fxBits`, of its magnitude. -/
def toFix (m : Nat) (e : Int) : Nat :=
  let s := e + fxBits
  if s ≥ 0 then m <<< s.toNat else m >>> (-s).toNat

/-- exp2 (Table 6.7 fn 0). -/
def sfuExp2 (x : W32) : FRes :=
  match fval x with
  | .nan => ⟨fNaN, 0⟩
  | .inf s => if s then ⟨fZero, 0⟩ else ⟨fPosInf, 0⟩
  | .fin s m e =>
    if m = 0 then ⟨fOne, 0⟩
    else if e + (m.log2 : Int) ≥ 8 then
      (if s then ⟨fZero, flUnderflow + flInexact⟩ else ⟨fPosInf, flOverflow + flInexact⟩)
    else
      let v := toFix m e
      let exactInt := decide (e ≥ 0) || m % 2 ^ (-e).toNat = 0
      let n := v >>> fxBits
      let f := v % 2 ^ fxBits
      if exactInt then roundFp32 false 1 (sgnInt s n)
      else if s then
        -- 2^-(n + f) = 2^-(n + 1) · 2^(1 - f)
        roundSticky false (exp2Frac (2 ^ fxBits - 1 - f)) (-(n : Int) - 1 - fxBits)
      else roundSticky false (exp2Frac f) ((n : Int) - fxBits)

/-- `atanh t = t + t³/3 + t⁵/5 + …` in fixed point, with `t2 = t²`. -/
def atanhSeries (t2 : Nat) : Nat → Nat → Nat → Nat → Nat
  | 0, _, _, acc => acc
  | fuel + 1, k, p, acc => atanhSeries t2 fuel (k + 2) ((p * t2) >>> fxBits) (acc + p / k)

/-- `ln m` for a fixed-point `m` in `[1, 2)`. -/
def lnFrac (m : Nat) : Nat :=
  let t := ((m - 2 ^ fxBits) <<< fxBits) / (m + 2 ^ fxBits)
  2 * atanhSeries ((t * t) >>> fxBits) 90 1 t 0

/-- log2 (Table 6.7 fn 1). -/
def sfuLog2 (x : W32) : FRes :=
  match fval x with
  | .nan => ⟨fNaN, 0⟩
  | .inf s => if s then ⟨fNaN, flInvalid⟩ else ⟨fPosInf, 0⟩
  | .fin s m e =>
    if m = 0 then ⟨fNegInf, flDivZero⟩
    else if s then ⟨fNaN, flInvalid⟩
    else
      let l := m.log2
      let p : Int := e + l
      if m = 2 ^ l then roundInt p 0 false
      else
        let frac := lnFrac (m <<< (fxBits - l))
        let lg := (frac <<< fxBits) / (ln2Fix >>> (320 - fxBits))
        -- p + lg, strictly between grid points
        let v : Int := p * 2 ^ fxBits + lg
        if v ≥ 0 then roundSticky false v.toNat (-fxBits) else roundSticky true (-v - 1).toNat (-fxBits)

/-- 1/x (Table 6.7 fn 2). -/
def sfuRecip (x : W32) : FRes :=
  match fval x with
  | .nan => ⟨fNaN, 0⟩
  | .inf s => ⟨fZeroOf s, 0⟩
  | .fin s m e => if m = 0 then ⟨fInf s, flDivZero⟩ else divFin s 1 0 m e

/-- 1/√x (Table 6.7 fn 3). -/
def sfuRsqrt (x : W32) : FRes :=
  match fval x with
  | .nan => ⟨fNaN, 0⟩
  | .inf s => if s then ⟨fNaN, flInvalid⟩ else ⟨fZero, 0⟩
  | .fin s m e =>
    if m = 0 then ⟨fInf s, flDivZero⟩
    else if s then ⟨fNaN, flInvalid⟩
    else
      let odd := e % 2 ≠ 0
      let m2 := if odd then 2 * m else m
      let e2 := if odd then e - 1 else e
      -- 1/√(m2·2^e2) = √(2^200 / m2) · 2^(-100 - e2/2)
      let q := 2 ^ 200 / m2
      let r := isqrt q
      if 2 ^ 200 % m2 = 0 && r * r = q then roundFp32 false r (-100 - e2 / 2)
      else roundSticky false r (-100 - e2 / 2)

/-- `p - p·r²/(k(k+1)) + …` with alternating signs, in fixed point (`add` says the sign of the next term). -/
def trigSeries (r2 : Nat) : Nat → Nat → Nat → Bool → Int → Int
  | 0, _, _, _, acc => acc
  | fuel + 1, k, p, add, acc =>
    trigSeries r2 fuel (k + 2) ((p * r2) >>> fxBits / (k * (k + 1))) (!add)
      (if add then acc + p else acc - p)

/-- sin of a fixed-point angle in `[0, π/4]`. -/
def sinFix (r : Nat) : Int := trigSeries ((r * r) >>> fxBits) 45 2 r true 0
/-- cos of a fixed-point angle in `[0, π/4]`. -/
def cosFix (r : Nat) : Int := trigSeries ((r * r) >>> fxBits) 45 1 (2 ^ fxBits) true 0

/-- The result of a trigonometric function as FP32: the fixed-point value is within a few grid steps of the exact one. -/
def trigRound (v : Int) : FRes :=
  if v ≥ 0 then roundSticky false v.toNat (-fxBits) else roundSticky true (-v).toNat (-fxBits)

/-- sin and cos of `± m × 2^e` reduced by quarter turns; `quarter` is 0 for sin and 1 for cos. -/
def trigReduce (s : Bool) (m : Nat) (e : Int) (quarter : Nat) : FRes :=
  let x := toFix m e
  let halfPi := piFix >>> (320 - fxBits + 1)
  -- nearest multiple of π/2, with the fine value of π for the product
  let k := (2 * x + halfPi) / (2 * halfPi)
  let kp := (k * piFix) >>> (320 - fxBits + 1)
  let r : Int := (x : Int) - kp
  let a := r.natAbs
  let rneg := decide (r < 0)
  -- the angle is k·π/2 + r
  let turn := (k + quarter) % 4
  let sv : Int := if rneg then -(sinFix a) else sinFix a
  let cv : Int := cosFix a
  let v : Int := match turn with
    | 0 => sv
    | 1 => cv
    | 2 => -sv
    | _ => -cv
  -- sin is odd in x, cos even
  trigRound (if s && quarter = 0 then -v else v)

/-- Whether a finite magnitude exceeds `2^20`. -/
def above2p20 (m : Nat) (e : Int) : Bool :=
  if m = 0 then false
  else
    let top := e + (m.log2 : Int)
    decide (top > 20) || (decide (top = 20) && m ≠ 2 ^ m.log2)

/-- sin (Table 6.7 fn 4). -/
def sfuSin (x : W32) : FRes :=
  match fval x with
  | .nan => ⟨fNaN, 0⟩
  | .inf _ => ⟨fNaN, flInvalid⟩
  | .fin s m e =>
    if m = 0 then ⟨x, 0⟩
    else if above2p20 m e then ⟨fNaN, flInvalid⟩
    else if e + (m.log2 : Int) < -40 then
      -- just below x in magnitude: x·(1 − tiny)
      roundSticky s (m * 2 ^ 60 - 1) (e - 60)
    else trigReduce s m e 0

/-- cos (Table 6.7 fn 5). -/
def sfuCos (x : W32) : FRes :=
  match fval x with
  | .nan => ⟨fNaN, 0⟩
  | .inf _ => ⟨fNaN, flInvalid⟩
  | .fin s m e =>
    if m = 0 then ⟨fOne, 0⟩
    else if above2p20 m e then ⟨fNaN, flInvalid⟩
    else if e + (m.log2 : Int) < -40 then roundSticky false (2 ^ 60 - 1) (-60)
    else trigReduce s m e 1

/-- The function `fn` of Table 6.7. -/
def sfu (fn : Nat) (x : W32) : FRes :=
  match fn with
  | 0 => sfuExp2 x
  | 1 => sfuLog2 x
  | 2 => sfuRecip x
  | 3 => sfuRsqrt x
  | 4 => sfuSin x
  | _ => sfuCos x

end Sys2Proof.Machine
end

