-- ==== Sys2Proof/Machine/Block.lean ====
section
/-! DEFINITION. Block formats B4, B8, B16 (03 R37-R46), sweep alignment (R47-R48) and scale-tracker arithmetic
(R57-R60). -/

namespace Sys2Proof.Machine

/-- The block formats of 03 Table 3.1. -/
inductive BFmt where
  | b4
  | b8
  | b16
  deriving DecidableEq, Repr

/-- Mantissa bits. -/
def BFmt.width : BFmt → Nat
  | .b4 => 4
  | .b8 => 8
  | .b16 => 16

/-- The bias β. -/
def BFmt.bias : BFmt → Nat
  | .b4 => 129
  | .b8 => 133
  | .b16 => 141

/-- The largest legal mantissa. -/
def BFmt.mmax : BFmt → Nat
  | .b4 => 7
  | .b8 => 127
  | .b16 => 32767

/-- Bytes of one block's mantissas (R39). -/
def BFmt.blockBytes : BFmt → Nat
  | .b4 => 16
  | .b8 => 32
  | .b16 => 64

/-- The format code used by trackers and bucket headers: 0 B4, 1 B8, 2 B16. -/
def BFmt.code : BFmt → Nat
  | .b4 => 0
  | .b8 => 1
  | .b16 => 2

/-- The format of a code. -/
def bfmtOf : Nat → Option BFmt
  | 0 => some .b4
  | 1 => some .b8
  | 2 => some .b16
  | _ => none

/-- A mantissa code as read by a unit that computes on it: the reserved code gives the most negative legal value and
is counted (R38). -/
def readMant (f : BFmt) (code : Nat) : Int × Bool :=
  let v := signed f.width code
  if v < -(f.mmax : Int) then (-(f.mmax : Int), true) else (v, false)

/-- The mantissa codes of a block from its bytes (R39, Table 3.2). -/
def blockCodes (f : BFmt) (bs : List Byte) : List Nat :=
  match f with
  | .b4 => bs.flatMap (fun b => [b.toNat % 16, b.toNat / 16])
  | .b8 => bs.map BitVec.toNat
  | .b16 => (chunksOf 2 32 bs).map bytesNat

/-- The bytes of a block's mantissas (R39). -/
def blockBytesOf (f : BFmt) (ms : List Int) : List Byte :=
  match f with
  | .b4 => (chunksOf 2 16 ms).map (fun p =>
      BitVec.ofNat 8 (unsigned 4 (nth p 0 0) + 16 * unsigned 4 (nth p 1 0)))
  | .b8 => ms.map (fun m => BitVec.ofNat 8 (unsigned 8 m))
  | .b16 => ms.flatMap (fun m => natBytes 2 (unsigned 16 m))

/-- A block as read: its exponent, its mantissas, how many codes were reserved (R38). -/
structure Blk where
  e : Nat
  ms : List Int
  rsvd : Nat
  deriving DecidableEq, Repr

/-- Whether a block is poison (R37). -/
def Blk.poison (b : Blk) : Bool := b.e == 255

/-- A block from its scale byte and mantissa bytes. -/
def readBlk (f : BFmt) (e : Nat) (bs : List Byte) : Blk :=
  let rs := (blockCodes f bs).map (readMant f)
  ⟨e, rs.map (·.1), (rs.filter (·.2)).length⟩

/-- A block element as FP32, exact (R42); NaN in a poison block. -/
def blkFp32 (f : BFmt) (e : Nat) (m : Int) : W32 :=
  if e = 255 then fNaN else (roundInt m ((e : Int) - f.bias) false).v

/-- The magnitude of a finite FP32 value times `2^k`, rounded to nearest even (R45: one rounding of the exact
product). -/
def rneScaled (x : W32) (k : Int) : Int :=
  match fval x with
  | .fin s m e =>
    let t := e + k
    sgnInt s (if t ≥ 0 then m <<< t.toNat else shiftRne m (-t).toNat)
  | _ => 0

/-- floor(log2 |x|) of a finite non-zero value. -/
def floorLog2 (x : W32) : Int :=
  match fval x with
  | .fin _ m e => e + (m.log2 : Int)
  | _ => 0

/-- The just-in-time exponent of R45. -/
def jitExp (xmax : W32) (f : BFmt) : Nat :=
  let e := (floorLog2 xmax + 127).toNat
  if rneScaled xmax ((f.bias : Int) - e) > f.mmax then e + 1 else e

/-- The largest magnitude of a block of finite values. -/
def absMax (xs : List W32) : W32 := xs.foldl (fun a x => let y := x &&& 0x7FFFFFFF; if a < y then y else a) 0

/-- What a conversion to a block gives (R45). `jit` is none for a block that is poison or exact zero. -/
structure BlkOut where
  e : Nat
  ms : List Int
  sat : Nat
  poison : Bool
  jit : Option Nat
  deriving DecidableEq, Repr

/-- R45: conversion of 32 FP32 values to a block; `trk` is the tracker's exponent where one applies. -/
def toBlock (xs : List W32) (f : BFmt) (trk : Option Nat) : BlkOut :=
  if xs.any (fun x => isNaN x || isInf x) then ⟨255, xs.map (fun _ => 0), 0, true, none⟩
  else
    let xmax := absMax xs
    if xmax = 0 then ⟨0, xs.map (fun _ => 0), 0, false, none⟩
    else
      let jit := jitExp xmax f
      let e := min ((trk.getD jit)) 254
      let qs := xs.map (fun x => rneScaled x ((f.bias : Int) - e))
      let lim : Int := f.mmax
      let ms := qs.map (fun q => if q > lim then lim else if q < -lim then -lim else q)
      ⟨e, ms, (qs.filter (fun q => decide (q > lim) || decide (q < -lim))).length, false, some jit⟩

/-- R48: a mantissa shifted to its sweep exponent. -/
def shrRne (f : BFmt) (m : Int) (d : Nat) : Int :=
  if d = 0 then m
  else if d ≥ f.width then 0
  else sgnInt (decide (m < 0)) (shiftRne m.natAbs d)

/-- Whether the shift of R48 discards non-zero bits (R52). -/
def shrLoses (m : Int) (d : Nat) : Bool := d ≠ 0 && m.natAbs % 2 ^ d ≠ 0

/-- A scale tracker (03 R57, Table 3.7). -/
structure Tracker where
  owner : Nat
  enabled : Bool
  fmt : Nat
  headroom : Nat
  initE : Nat
  e : Nat
  hist : List Nat
  count : Nat
  obs : Nat
  obsValid : Bool
  satCount : Nat
  deriving DecidableEq, Repr

/-- A tracker that is assigned to no context. -/
def Tracker.off : Tracker := ⟨255, false, 0, 0, 0, 0, List.replicate 16 0, 0, 0, false, 0⟩

/-- R58: the advance of a tracker. -/
def trackerAdvance (t : Tracker) : Tracker :=
  let eObs := if t.obsValid then t.obs else 0
  let hist := eObs :: t.hist.take 15
  let count := min (t.count + 1) 16
  { t with
    hist := hist, count := count,
    e := min ((hist.take count).foldl max 0 + t.headroom) 254,
    obsValid := false, obs := 0 }

/-- TRK_CTRL.CLEAR_HIST (Table 3.7). -/
def trackerClearHist (t : Tracker) : Tracker :=
  { t with hist := List.replicate 16 0, count := 0, e := t.initE }

/-- R57, R59: what one converted block does to its tracker; `used` is the exponent it was converted with. -/
def trackerObserve (t : Tracker) (b : BlkOut) (used : Nat) : Tracker :=
  match b.jit with
  | none => t
  | some j =>
    let t1 := { t with obs := max t.obs (min j 255), obsValid := true }
    if b.sat = 0 then t1
    else { t1 with
      satCount := min (t1.satCount + 1) 0xFFFF,
      e := if used = t1.e then min (t1.e + 2) 254 else t1.e }

/-- TRK_STATE (Table 3.7). -/
def trackerState (t : Tracker) : Nat :=
  t.satCount <<< 48 + (min t.count 15) <<< 40 + (b2n t.obsValid) <<< 39 + (b2n (t.count == 16)) <<< 38
    + t.obs <<< 24 + t.initE <<< 16 + t.fmt <<< 14 + t.headroom <<< 12 + (b2n t.enabled) <<< 8 + t.e

end Sys2Proof.Machine
end

