-- ==== Sys2Proof/Machine/TypesCore.lean ====
section
/-! DEFINITION. The state of a core: thread groups and their threads (07), pending accesses (08), the matrix, vector, DMA
and fabric queues (04, 06, 08, 12), the arrays with their banks and rings (04), park records (07). -/

namespace Sys2Proof.Machine

/-- Why a thread cannot be issued, beside its subset's turn (07 Divergence, R145, R153; 09 R208). -/
inductive TStat where
  /-- It may be issued. -/
  | run
  /-- Arrived at the pending group barrier (R153). -/
  | bar
  /-- Waits at the FENCE of this order number (R208). -/
  | fence (ord : Nat)
  deriving DecidableEq, Repr

/-- One thread (07 R138): PC as a code word index, 64 general registers, predicates with p0 in bit 0 (always 1), the token
index sTOK, the live flag. -/
structure Thread where
  pc : Nat
  live : Bool
  stat : TStat
  regs : List W32
  preds : BitVec 8
  tok : W32
  deriving DecidableEq, Repr

/-- A split that has not reconverged (07 R144, R145): the reconvergence point, the threads of the split that have not
passed it, those of them that stand on it and are held, and how many instructions the others have issued since. -/
structure Split where
  rpc : Nat
  members : BitVec 32
  arrived : BitVec 32
  issued : Nat
  deriving DecidableEq, Repr

/-- The pending group barrier (07 R153, R155): participant mask, arrived threads, the code word index of the GBAR and the
core's ck count at the first arrival. -/
structure Bar where
  mask : BitVec 32
  arrived : BitVec 32
  pc : Nat
  start : Nat
  deriving DecidableEq, Repr

/-- Why a whole group is not ready. -/
inductive GWait where
  | none
  /-- TFENCE (06 R116): until the group's earlier vector-queue entries completed. -/
  | tfence
  /-- TEXT (06 R116): until its entry wrote the register. -/
  | text
  /-- DMAFENCE (08 R189). -/
  | dmafence
  /-- FQFENCE (12 R294). -/
  | fqfence
  /-- WAIT, WATCH, SREAD or WCANCEL sent to the sync unit (10 R230): registers to write, threads. -/
  | sync (d : Nat) (mask : BitVec 32)
  /-- FFWAIT (10 R242). -/
  | firefly (line : Nat) (d : Nat) (mask : BitVec 32) (gen : Nat) (deadline : Option Nat)
  deriving DecidableEq, Repr

/-- A park that waits for its instruction boundary or for a FREE record (07 R158, R159). -/
structure ParkReq where
  cause : Nat
  precise : Bool
  contained : Bool
  pc : Nat
  info : Nat
  addr : Nat
  mask : BitVec 32
  subset : BitVec 32
  removed : Nat
  deriving DecidableEq, Repr

/-- A remote destination that a thread has written since its last scope-2 FENCE, with its last transaction number there
(09 R218). -/
structure Sent where
  thread : Nat
  peer : Nat
  seq : Nat
  deriving DecidableEq, Repr

/-- A release that waits for its implicit FENCE of scope 1 (09 R210), or another ordering point: an order number and the
threads it speaks for. -/
structure OrdPt where
  ord : Nat
  scope : Nat
  mask : BitVec 32
  deriving DecidableEq, Repr

/-- A FARINV that has not completed (09 R220): lines `[first, last]` of a fabric global range. -/
structure FarInv where
  ord : Nat
  mask : BitVec 32
  lanes : List (Nat × Nat × Nat)
  deriving DecidableEq, Repr

/-- A thread group in a slot (07 R138-R161). -/
structure Group where
  ctx : Nat
  canonical : Bool
  launch : Nat
  kernel : Nat
  sgid : Nat
  gcount : Nat
  age : Nat
  arg : Nat
  spadBase : Nat
  spadBytes : Nat
  ocBase : Nat
  ocBytes : Nat
  threads : List Thread
  cur : Nat
  curIssues : Nat
  splits : List Split
  barrier : Option Bar
  wait : GWait
  park : Option ParkReq
  ord : Nat
  fences : List OrdPt
  farinvs : List FarInv
  sent : List Sent
  numf : Nat
  fpl : Nat
  fpf : Nat
  mtiles : List W256
  tiles : List (List W32)
  bind : Option (Nat × Nat)
  lastIssue : Nat
  lastYield : Option Nat
  deriving DecidableEq, Repr

/-- Atomic operations (07 Table 7.6). -/
inductive AtOp where
  | add
  | mins
  | maxs
  | minu
  | maxu
  | and
  | or
  | xor
  | fadd
  | exch
  | cas
  deriving DecidableEq, Repr

/-- What an access does (07 Tables 7.4, 7.6). -/
inductive MemOp where
  | ld (bytes : Nat) (signed : Bool)
  | st (bytes : Nat)
  | at (op : AtOp) (noret : Bool)
  | pref (far : Bool)
  deriving DecidableEq, Repr

/-- One thread's part of an access. -/
structure Lane where
  tid : Nat
  addr : Nat
  v : W64
  cmp : W32
  old : W64
  deriving DecidableEq, Repr

/-- How far an access has come (08 R184, 09 R202). -/
inductive AccSt where
  /-- Waits for a request slot. -/
  | waiting
  /-- Holds a slot; not performed. -/
  | held
  /-- A home-line miss whose fill is outstanding. -/
  | filling
  /-- In the fabric connection state's waiting list or numbered there. -/
  | remote
  /-- The response of a remote read is here; its far line is to be filled. -/
  | response
  /-- Performed; its data, if any, is to be returned. -/
  | done
  deriving DecidableEq, Repr

/-- Where an access takes effect (09 Table 9.1). -/
inductive Place where
  | spad (core : Nat)
  | wbuf (array : Nat)
  | home
  | regs
  | door
  | module (id : Nat)
  deriving DecidableEq, Repr

/-- A line request of a thread instruction (08 R184). -/
structure Access where
  slot : Nat
  age : Nat
  ctx : Nat
  ord : Nat
  pc : Nat
  op : MemOp
  d : Nat
  noalloc : Bool
  dead : Bool
  flag : Bool
  redOk : Bool
  place : Place
  line : Nat
  region : Option Nat
  lanes : List Lane
  subset : BitVec 32
  st : AccSt
  stale : Bool
  /-- Parts of a remote access, named by their lowest thread: not yet entered, entered and not numbered, numbered and not
  answered. -/
  todo : List Nat
  entered : List Nat
  unanswered : List Nat
  /-- Of a remote read: passed by the module's own write to the line (09 R222). -/
  queued : Bool
  /-- Of a prefetch of a far line: a demand read has overtaken it (08 R198). -/
  late : Bool
  data : List Byte
  bad : BitVec 32
  badCause : Nat
  deriving DecidableEq, Repr

/-- The operations of the matrix queue with the register values they captured at issue (04 Table 4.2). -/
inductive MatOp where
  | sweep (mtd start koff : Nat) (retire pair : Bool) (mode bank k guard : Nat)
  | zero (bank : Nat)
  | wload (mtd koff rows array : Nat)
  | drain (mtd rowOff colOff : Nat) (sig : Bool) (vs : Nat) (dead fuse : Bool) (out bank : Nat)
      (bind : Option (Nat × Nat))
  | check (clear : Bool) (array d : Nat) (mask : BitVec 32)
  | wreset (array : Nat)
  deriving DecidableEq, Repr

/-- A matrix-queue entry. `checked` says that an MSWEEP has passed its checks and waits for its first native sweep. -/
structure MatEntry where
  slot : Nat
  age : Nat
  ctx : Nat
  launch : Nat
  pc : Nat
  op : MatOp
  checked : Bool
  deriving DecidableEq, Repr

/-- A matrix tile descriptor as read (04 Table 4.1). -/
structure Mtd where
  mbase : Nat
  sbase : Nat
  mpitch : Nat
  spitch : Nat
  rows : Nat
  cols : Nat
  fmt : Nat
  trk : Bool
  tracker : Nat
  deriving DecidableEq, Repr

/-- One native sweep to run or to replay (04 R68, R72, R85). -/
structure Native where
  banks : List Nat
  mode : Nat
  afmt : Nat
  wfmt : Nat
  act : Mtd
  koff : Nat
  start : Nat
  k : Nat
  retire : Bool
  ctx : Nat
  slot : Nat
  age : Nat
  serial : Nat
  deriving DecidableEq, Repr

/-- The operands of a native sweep as the staging unit has read them, each 128-byte line whole (01 R14): the blocks of the 128 activation
rows, and of the 128 weight columns of each array it uses. -/
structure Staged where
  acts : List (List Blk)
  wts : List (List (List Blk))
  deriving DecidableEq, Repr

/-- No operands. -/
def Staged.none : Staged := ⟨[], []⟩

/-- The staging unit: native sweeps of the MSWEEP in progress, the pass of a B16 sweep and its operands (04 R65, R81), and of the pass that was
started last the ck that are left, the length of its stream and the arrays it runs in (04 Table 4.4). -/
structure Stage where
  todo : List Native
  pass : Nat
  held : Staged
  left : Nat
  len : Nat
  on : List Nat
  deriving DecidableEq, Repr

/-- A staging unit at rest. -/
def Stage.reset : Stage := { todo := [], pass := 0, held := Staged.none, left := 0, len := 0, on := [] }

/-- The sums in a physical bank with what the drain unit needs to read them (04 R66, R84, R99). -/
structure Phys where
  bank : Nat
  native : Native
  pass : Nat
  replayed : Bool
  injected : Bool
  acc : List (List Int)
  chkRow : List Int
  chkCol : List Int
  rowE : List Nat
  colE : List Nat
  rowNan : List Bool
  colNan : List Bool
  dup : Nat
  operandBad : Bool
  deriving DecidableEq, Repr

/-- A native sweep that an array is to replay (04 R85): the sweep, its logical bank, the physical bank the failed read freed, the passes
already replayed, whether the failure was injected, the cell into which MAT_INJECT injects again, the exponents of rows and columns that the
native sweep was aligned to, and the operands that a replay of B16 has read. -/
structure Replay where
  native : Native
  bank : Nat
  start : Nat
  pass : Nat
  injected : Bool
  again : Option (Nat × Nat)
  es : Nat
  held : Staged
  deriving DecidableEq, Repr

/-- One matrix array (04 R66): the physical bank the next native sweep fills, the two physical banks, native sweeps
completed since reset, and a native sweep to be replayed, until its replay has been read. -/
structure Arr where
  next : Nat
  phys : List (Option Phys)
  sweeps : Nat
  replay : Option Replay
  deriving DecidableEq, Repr

/-- The states of a logical bank (04 R67). -/
inductive LState where
  | empty
  | opened
  | closing
  | failed
  deriving DecidableEq, Repr

/-- An MDRAIN that a logical bank carries out (04 R68, R78, R79). -/
structure Drain where
  slot : Nat
  age : Nat
  ctx : Nat
  launch : Nat
  pc : Nat
  dst : Mtd
  rowOff : Nat
  colOff : Nat
  sig : Bool
  vs : Nat
  dead : Bool
  fuse : Bool
  out : Nat
  bind : Option (Nat × Nat)
  serial : Nat
  deriving DecidableEq, Repr

/-- A logical bank with its drain buffer (04 R66-R69). -/
structure LBank where
  st : LState
  owner : Nat
  mode : Nat
  afmt : Nat
  wfmt : Nat
  paired : Bool
  buf : Option (List (List W32))
  fold : Option (List (List W32))
  acts : List Native
  drain : Option Drain
  deriving DecidableEq, Repr

/-- A 128-byte line as an engine read it, with the numbers of its codewords that were uncorrectable. -/
structure Latch where
  bytes : List Byte
  bad : List Nat
  deriving DecidableEq, Repr

/-- An MWLOAD in the fill engine, or carried out and kept for replays: first row number, rows, source, K offset, scale blocks and rows
that have landed (04 R70, R71, R85), and the source lines its fill engine has read and still needs (01 R14). -/
structure WLoad where
  first : Nat
  rows : Nat
  src : Mtd
  koff : Nat
  scaled : Nat
  landed : Nat
  ctx : Nat
  held : SMap Latch
  deriving DecidableEq, Repr

/-- A weight ring (04 R70). `fmt` is none without a format, else an FMT code; `stop` is the row number after the last requested row,
`ctxs` the contexts that have loaded the ring since it was reset (R89); the mantissa bytes are the weight-buffer window's. -/
structure Ring where
  fmt : Option Nat
  head : Nat
  stop : Nat
  scales : SMap (List Byte)
  loads : List WLoad
  done : List WLoad
  ctxs : List Nat
  deriving DecidableEq, Repr

/-- A vector-queue entry with the register values it captured (06 R115). -/
structure VecEntry where
  slot : Nat
  age : Nat
  ctx : Nat
  pc : Nat
  chain : Bool
  opc : Nat
  w : Lpk
  g : Nat
  mask : BitVec 32
  deriving DecidableEq, Repr

/-- Who issued a descriptor (08 R190, 16 R373). -/
inductive DescFrom where
  | group (core slot age pc : Nat)
  | queue (qid index : Nat)
  deriving DecidableEq, Repr

/-- A DMA-queue entry (08 R189, R190). -/
structure DmaEntry where
  slot : Nat
  age : Nat
  ctx : Nat
  pc : Nat
  engine : Nat
  off : Nat
  deriving DecidableEq, Repr

/-- A run of elements of a descriptor along dimension 0 (08 R191): source and destination of its first element, or of a block side the row and
the column `c`; a gather's row of zeros has no source, an out-of-bound index under FAULT no copy. Of a piece of a run, `ix` is its place in
element order, `fin` says that it ends its run, `last` that it ends the descriptor. -/
structure Move where
  src : Option Nat
  dst : Nat
  row : Nat
  c : Nat
  n : Nat
  oob : Bool
  ix : Nat
  fin : Bool
  last : Bool
  deriving DecidableEq, Repr

/-- A piece of a descriptor that its engine has begun (08 R186, R190): the lines of the module and the remote reads it waits for, the lines
and the remote bytes it has read, whether it has made its writes, and those not acknowledged (transaction, address, bytes). -/
structure EngPiece where
  mv : Move
  want : List Nat
  wantR : List Nat
  got : SMap Latch
  far : List (Nat × List Byte)
  written : Bool
  acks : List (Nat × Nat × Nat)
  deriving DecidableEq, Repr

/-- A descriptor an engine carries out (08 R190-R197): engine 0 is the cluster's DMA engine, 1 and 2 its gather engines. `idx` is a
gather's index list as read; `left` the pieces not begun, in element order, `going` those begun; `lines` the lines of the module whose fills
are outstanding, `reads` the remote reads not answered (transaction, address, bytes): each line of these and of the writes not acknowledged holds a
tag (R186). `parts` numbers its transactions; `failed` is the cause it has met, with the STATUS of a NAK. -/
structure EngJob where
  cluster : Nat
  engine : Nat
  ctx : Nat
  origin : DescFrom
  launch : Option Nat
  core : Nat
  addr : Nat
  bytes : List Byte
  src : Option Mtd
  dst : Option Mtd
  idx : List Int
  left : List Move
  going : List EngPiece
  lines : List Nat
  reads : List (Nat × Nat × Nat)
  parts : Nat
  flags : Nat
  failed : Nat
  failAddr : Nat
  failStatus : Nat
  deriving DecidableEq, Repr

/-- The instructions of the fabric queue (12 Table 12.8). -/
inductive FabOp where
  | signal
  | msg
  | fence
  | status
  deriving DecidableEq, Repr

/-- Whether it sends a transaction. -/
def FabOp.sends (o : FabOp) : Bool := o == .signal || o == .msg

/-- A fabric-queue entry (12 R294, R295): `sent` says that it has been dispatched; an FSTATUS writes registers `d` and `d` + 1. -/
structure FabEntry where
  slot : Nat
  age : Nat
  ctx : Nat
  pc : Nat
  op : FabOp
  d : Nat
  entry : Nat
  id : Nat
  value : Nat
  len : Nat
  ord : Nat
  mask : BitVec 32
  sent : Bool
  deriving DecidableEq, Repr

/-- The state of a park record (07 R157). -/
inductive RecSt where
  | free
  | parked
  | suspended
  | restoring
  deriving DecidableEq, Repr

/-- A result that a suspended group receives when it reloads its state (07 R160): registers D and D + 1 of the threads of a mask. -/
structure Wake where
  d : Nat
  mask : BitVec 32
  x : W32
  y : Option W32
  deriving DecidableEq, Repr

/-- A park record's core-held part (07 R156-R161): its state, the group it holds (with what stays in the core: tile
registers, launch, scratchpad and operand-cache windows), the fields whose edit REPLAY refuses, a result that waits for the
reload, and whether the group has been reloaded. -/
structure Rec where
  st : RecSt
  grp : Option Group
  cause : Nat
  age : Nat
  kernel : Nat
  whereWord : Nat
  live : Nat
  wake : Option Wake
  loaded : Bool
  deriving DecidableEq, Repr

/-- A launch's scratchpad area or operand-cache window on a core (06 R113, 07 R140). -/
structure Area where
  launch : Nat
  base : Nat
  size : Nat
  deriving DecidableEq, Repr

/-- The lanes of a vector engine and its special-function unit (06 R108, R128, R137): the ck that the entry or fused delivery which took the lanes
last still needs, whether it is a delivery, its group's age, the lane groups it uses, the lane group that the next segment goes to, and the ck of
results that the unit still owes, in all and to RMAX stages. -/
structure Lanes where
  left : Nat
  fuse : Bool
  age : Nat
  groups : Nat
  next : Nat
  sfu : Nat
  rmax : Nat
  deriving DecidableEq, Repr

/-- Lanes at rest. -/
def Lanes.reset : Lanes := { left := 0, fuse := false, age := 0, groups := 0, next := 0, sfu := 0, rmax := 0 }

/-- One core. `ended` holds what the queues still need of groups that have ended with entries of theirs left in a queue (07 R139), `parkHits` the
ck in which a THR_PARKCTL write last reached each record (R162). -/
structure Core where
  slots : List (Option Group)
  ended : List Group
  seq : Nat
  accs : SMap Access
  nextAcc : Nat
  matq : List MatEntry
  vecq : List VecEntry
  dmaq : List DmaEntry
  fabq : List FabEntry
  stage : Stage
  arrays : List Arr
  banks : List LBank
  rings : List Ring
  drainSerial : Nat
  recs : List Rec
  parkHits : SMap Nat
  parkSeq : Nat
  spadAreas : List Area
  ocAreas : List Area
  opcache : SMap Byte
  lanes : Lanes
  deriving DecidableEq, Repr

/-- A thread at its start (07 R138). -/
def Thread.start (pc : Nat) (tok : W32) : Thread :=
  { pc := pc, live := true, stat := .run, regs := List.replicate 64 0, preds := 1, tok := tok }

/-- The thread of an index that a group does not have: it is not live. -/
def Thread.gone : Thread := { Thread.start 0 0 with live := false }

/-- A logical bank that is EMPTY. -/
def LBank.reset : LBank :=
  { st := .empty, owner := 255, mode := 0, afmt := 0, wfmt := 0, paired := false, buf := none, fold := none,
    acts := [], drain := none }

/-- A ring without a format (04 MWRESET). -/
def Ring.reset : Ring :=
  { fmt := none, head := 0, stop := 0, scales := [], loads := [], done := [], ctxs := [] }

/-- An array after reset: it starts with P0 (04 R66). -/
def Arr.reset : Arr := { next := 0, phys := [none, none], sweeps := 0, replay := none }

/-- A FREE park record. -/
def Rec.reset : Rec :=
  { st := .free, grp := none, cause := 0, age := 0, kernel := 0, whereWord := 0, live := 0, wake := none,
    loaded := false }

/-- A core after reset. -/
def Core.reset : Core :=
  { slots := List.replicate 32 none, ended := [], seq := 0, accs := [], nextAcc := 0, matq := [], vecq := [], dmaq := [],
    fabq := [], stage := Stage.reset, arrays := [Arr.reset, Arr.reset], banks := List.replicate 4 LBank.reset,
    rings := [Ring.reset, Ring.reset], drainSerial := 0, recs := List.replicate 32 Rec.reset, parkHits := [], parkSeq := 0,
    spadAreas := [], ocAreas := [], opcache := [], lanes := Lanes.reset }

end Sys2Proof.Machine
end

