-- ==== Sys2Proof/Machine/TypesMem.lean ====
section
/-! DEFINITION. The state of memory and of the cache slices (08, 09), of the synchronisation unit and the Firefly lines
(10), of queues, launches and contexts (16). -/

namespace Sys2Proof.Machine

/-- The kinds of slice line (08 Cache slices, R179). -/
inductive SKind where
  | home
  | replica
  | far
  | red
  deriving DecidableEq, Repr

/-- A line in a slice. `line` is the address divided by 128 (a far line's is its fabric global address divided by 128).
A dirty home line keeps in `back` the bytes memory holds beneath it, which a DEAD hint brings back (R181). A prefetched
line that no demand read has used names its context in `pf` (R198). `way` is its way of the set (R178). -/
structure SLine where
  kind : SKind
  line : Nat
  way : Nat
  back : Option (List Byte)
  sharers : Nat
  pf : Option Nat
  redKind : Nat
  part : List W32
  evicting : Bool
  data : List Byte
  rgn : Nat
  epoch : Nat
  deriving DecidableEq, Repr

/-- What a channel operation is for (08 R169-R174, R180): an access of a thread; a prefetch; a RED eviction; a line that a descriptor of a DMA or
gather engine waits for; the line of another engine's read, of which only the channel's check is to come (log entry 94). -/
inductive FillFor where
  | access (core id : Nat)
  | prefetch (ctx : Nat)
  | redEvict
  | job (id ctx : Nat)
  | read (ctx : Nat)
  deriving DecidableEq, Repr

/-- An ACCUM that waits behind a RED eviction (08 R180): of a thread's access, or of a descriptor. -/
inductive RedWaiter where
  | access (core id : Nat)
  | job (id : Nat)
  deriving DecidableEq, Repr

/-- A request sent to an eDRAM channel or DDR5 controller. `back` says the channel has answered, `bad` that a codeword was
uncorrectable, `late` that a demand read overtook a prefetch (R198). -/
structure Fill where
  line : Nat
  who : FillFor
  waiting : Bool
  bad : Bool
  late : Bool
  deriving DecidableEq, Repr

/-- Module memory and the slices: the coherent bytes, the slice lines, requests at channels, Weevil filters, lines that no slice holds whose
write-back has left (R182), the ACCUMs that wait behind the RED eviction of a line, in arrival order (R180), codewords that
are uncorrectable as stored (R169), where each scrubber stands (15 R343), and of each eDRAM channel the time of its last request and whether it is in
self-refresh (18 R405). -/
structure MemSt where
  cells : List (Nat × Byte)
  slices : SMap (List SLine)
  fills : SMap Fill
  nextFill : Nat
  weevil : SMap (List Nat)
  backed : List Nat
  redQueue : SMap (List RedWaiter)
  badCw : List Nat
  scrub : SMap Nat
  chanLast : SMap Nat
  selfRefresh : List Nat
  deriving DecidableEq, Repr

/-- The state of a sync object (10 R224). -/
inductive ObjSt where
  | free
  | armed
  | abandoned
  deriving DecidableEq, Repr

/-- A registered WAIT (10 R230). `left` holds the ck that remain while its context is preempted (R234, R235). -/
structure SWait where
  core : Nat
  age : Nat
  ctx : Nat
  cond : Nat
  operand : W32
  deadline : Option Nat
  left : Option Nat
  d : Nat
  mask : BitVec 32
  deriving DecidableEq, Repr

/-- Where a watch reports: a queue (10 R232), or the queue block for the start condition of a LAUNCH queue's entry (16 R377),
a bucket (13 R306) or a start pair of an update run (14 R326). -/
inductive WatchTo where
  | queue (qid : Nat)
  | launch (qid : Nat)
  | bucket (b : Nat)
  | run (r pair : Nat)
  deriving DecidableEq, Repr

/-- A registered WATCH (10 R232). -/
structure SWatch where
  ctx : Nat
  cond : Nat
  operand : W32
  tag : W32
  vs : Nat
  dest : WatchTo
  deriving DecidableEq, Repr

/-- A sync object (10 R224). -/
structure SyncObj where
  cnt : W32
  st : ObjSt
  owner : Nat
  waits : List SWait
  watches : List SWatch
  deriving DecidableEq, Repr

/-- An operation on its way to an object (10 R227, R228, R233). -/
inductive SyncOp where
  | signal (v : W32) (fabric : Bool)
  | sarm (set : Bool) (v : W32)
  | wait (w : SWait) (timeout : Option Nat)
  | watch (w : SWatch) (d : Nat) (mask : BitVec 32)
  | sread (d : Nat) (mask : BitVec 32)
  | wcancel (tag : W32) (d : Nat) (mask : BitVec 32)
  deriving DecidableEq, Repr

/-- A message to an object: its sender group (core and age; none for engines, firmware and the fabric), the order number
and threads whose FENCE of scope 1 a SIGNAL waits for (R228). -/
structure SyncMsg where
  obj : Nat
  frm : Option (Nat × Nat)
  ctx : Nat
  pc : Nat
  ord : Nat
  mask : BitVec 32
  op : SyncOp
  deriving DecidableEq, Repr

/-- A watch message held for a full queue, and the object whose watch entry it keeps (10 R232). -/
structure HeldMsg where
  qid : Nat
  obj : Nat
  bytes : List Byte
  deriving DecidableEq, Repr

/-- An arrival at a Firefly line: its core, the arriving group, the order number and threads whose FENCE of scope 1 it waits for
(10 R241, R242). -/
structure FfArr where
  core : Nat
  age : Nat
  ord : Nat
  mask : BitVec 32
  deriving DecidableEq, Repr

/-- A Firefly line (10 R240-R245): arrivals that no release has used, oldest first, the 8-bit generation count per core, the cores
that have arrived since the grant, and until when the cores keep the line released. -/
structure FfLine where
  arrs : List FfArr
  gen : SMap Nat
  came : List Nat
  hold : Option Nat
  deriving DecidableEq, Repr

/-- The synchronisation unit and the Firefly lines: objects, cached translations per segment (context
times 65,536 plus virtual ID, with the entry; the tables themselves lie in eDRAM, R225), operations under way, held watch messages per segment, lines, levels of the board pins, whether bound
pins are held low after a revocation (R245), and objects with an uncorrectable error. -/
structure SyncSt where
  objs : SMap SyncObj
  cache : SMap (List (Nat × Nat))
  msgs : List SyncMsg
  held : SMap (List HeldMsg)
  lines : List FfLine
  pins : List Bool
  pinHold : Bool
  bad : List Nat
  deriving DecidableEq, Repr

/-- A queue descriptor (16 Table 16.13), with what the queue block knows of the queue: the last MSI-X message and whether one is due
(R375), the next entry to take, a launch that waits for its START condition and whether its watch is registered (R377), the
acceptance order of its doorbells (R378), entries finished beyond CONS, and whether QUEUE_DESTROY waits (R371). -/
structure QDesc where
  valid : Bool
  ring : Nat
  ty : Nat
  log2n : Nat
  esize : Nat
  owner : Nat
  hostProd : Bool
  hostCons : Bool
  remote : Bool
  irq : Bool
  vector : Nat
  prod : W32
  cons : W32
  notify : Nat
  notifyEn : Bool
  bind : Nat
  appended : W32
  refused : W32
  lastIrq : Option Nat
  irqDue : Bool
  take : W32
  startWait : Option (Nat × Bool)
  bells : List (W32 × Nat)
  done : List W32
  closing : Bool
  deriving DecidableEq, Repr

/-- A launch that has been taken and not completed (16 R377, R378). -/
structure Launch where
  qid : Nat
  index : W32
  ctx : Nat
  kernel : Nat
  entryPc : Nat
  groups : Nat
  tokbase : Nat
  cores : Nat
  arg : Nat
  doneSig : Bool
  doneEvent : Bool
  doneVs : Nat
  tag : Nat
  stamp : Nat
  placed : SMap Nat
  ended : SMap Nat
  started : Bool
  cut : Bool
  deriving DecidableEq, Repr

/-- An event or completion that waits for room in its queue (07 R159, 16 R376). -/
structure HeldEv where
  qid : Nat
  bytes : List Byte
  since : Nat
  core : Option Nat
  deriving DecidableEq, Repr

/-- Queues, launches, held events. -/
structure QueSt where
  descs : SMap QDesc
  cached : List Nat
  launches : SMap Launch
  nextLaunch : Nat
  held : List HeldEv
  stamp : Nat
  msix : List Nat
  deriving DecidableEq, Repr

end Sys2Proof.Machine
end

