-- ==== Sys2Proof/Machine/TypesFab.lean ====
section
/-! DEFINITION. The state of the fabric: transactions that wait, connections, stored atomic responses, and what the module
has sent (12); error records (15 R338). -/

namespace Sys2Proof.Machine

/-- Who issued a transaction (12 R278, Table 12.10). `part` numbers the transactions of one issuer. -/
inductive Issuer where
  | thread (core id part : Nat)
  | fabq (core age ord : Nat)
  | engine (job part : Nat)
  | reduction (bucket : Nat) (part : Nat)
  | update (run : Nat) (part : Nat)
  | ckpt (ctx : Nat) (part : Nat)
  | mcp
  deriving DecidableEq, Repr

/-- A transaction that waits to be numbered, or an MGMT transaction that waits to be sent (12 R277). -/
structure OutTxn where
  t : Txn
  who : Issuer
  deriving DecidableEq, Repr

/-- A numbered transaction that is not acknowledged (12 R278, R281): when it was first and last sent, and on which port (none while no
port was eligible). -/
structure Unack where
  t : Txn
  who : Issuer
  first : Nat
  last : Nat
  port : Option Nat
  deriving DecidableEq, Repr

/-- A transaction that a target holds until every lower number of its source has landed (09 R214): the owner of the entry that admitted it
and the die whose port group did. -/
structure HeldTxn where
  t : Txn
  owner : Nat
  die : Nat
  deriving DecidableEq, Repr

/-- The state of a connection (12 Table 12.8 FSTATUS). -/
inductive ConnSt where
  | none
  | active
  | unreachable
  | resetting
  deriving DecidableEq, Repr

/-- A stored atomic response (12 R280). -/
structure AtRsp where
  seq : W32
  value : W32
  sent : Nat
  die : Nat
  deriving DecidableEq, Repr

/-- A connection to one peer (12 R277-R283): the source side (next number, unacknowledged transactions, the peer's cumulative acknowledgement) and the target
side (cumulative acknowledgement A, landed numbers above it, NAKed numbers, held transactions, stored responses). `base` is the peer's new base that came
before this end was reset. -/
structure Conn where
  st : ConnSt
  next : W32
  unack : List Unack
  acked : W32
  a : W32
  landed : List W32
  nakked : List W32
  held : List HeldTxn
  ackDue : Bool
  stored : List AtRsp
  base : Option W32
  deriving DecidableEq, Repr

/-- A connection that has not been used. Numbers start at 1 (log entry 4). -/
def Conn.reset : Conn :=
  { st := .none, next := 1, unack := [], acked := 0, a := 0, landed := [], nakked := [], held := [], ackDue := false, stored := [], base := none }

/-- A Region Table entry (12 Tables 12.4, 12.5); `kind` is true for IMPORT. Pages are addresses divided by 4,096. -/
structure Region where
  valid : Bool
  kind : Bool
  owner : Nat
  base : Nat
  limit : Nat
  peer : BitVec 12
  ridx : BitVec 12
  key : W32
  epoch : Nat
  noncache : Bool
  exported : Bool
  accum : Bool
  write : Bool
  read : Bool
  naks : Nat
  deriving DecidableEq, Repr

/-- What the module sends, in order: a transaction or response on a port, a link flit handed to the framer, a frame as the active lanes of a port carry
it, an alignment frame with each lane's number, reversal and polarity (11 R250). -/
inductive OutItem where
  | txn (port : Nat) (t : Txn)
  | resp (port : Option Nat) (r : Resp)
  | flit (port : Nat) (bytes : List Byte)
  | frame (port : Nat) (lanes : List (List Nat))
  | align (port count : Nat) (lanes : List (Nat × Bool × Bool))
  deriving DecidableEq, Repr

/-- An item in a port's transmit queue (12 R274): the bytes no flit has carried, and whether a flit has carried its start. -/
structure TxItem where
  m : FabMsg
  rest : List Byte
  begun : Bool
  deriving DecidableEq, Repr

/-- A DATA flit in the replay buffer (11 R255). -/
structure RFlit where
  lseq : Nat
  vc : Nat
  sot : Bool
  eot : Bool
  data : List Byte
  deriving DecidableEq, Repr

/-- A port (11): state (Table 11.5), last FAILED cause, half width and which half, lane reversal, failed wiring check; per virtual channel the items to
send, the payloads of flits received and not taken, the credits held, the credits owed; the next LSEQ to give, the last ACK received, the replay
buffer; the next LSEQ expected, whether a replay is awaited, RETRY_REQs sent since the last advance and the last one's time; from which LSEQ and
until when a replay is in progress; whether an ACK is owed; when the last valid flit came, when the state was entered, when DETECT was left, when
the port failed; when the last HEARTBEAT was sent; transmit and receive time of the last HEARTBEAT received; the retrain under way (0 none, 1 waits for
the peer's mask, 2 half, 3 full); when PARAM was last sent and whether an exchange of the own side is open; lanes found healthy, the
peer's last mask; LNK_PEER and LNK_PEER_SERIAL; the frame count; polarity of the lanes; the channel of the weighted rotation and flits sent in
its turn; the flits that no frame has carried, the count of frames sent, the bits sent of the frame under way, and the scrambler. -/
structure Port where
  st : Nat
  cause : Nat
  half : Bool
  high : Bool
  reversed : Bool
  miswired : Bool
  tx : List (List TxItem)
  rx : List (List (List Byte))
  credits : List Nat
  owed : List Nat
  lseq : Nat
  peerAck : Nat
  replay : List RFlit
  expect : Nat
  want : Bool
  retries : Nat
  lastRetry : Nat
  replayFrom : Nat
  replayEnd : Nat
  ackDue : Bool
  lastRx : Nat
  since : Nat
  left : Option Nat
  failedAt : Option Nat
  lastHb : Option Nat
  hb : Option (Nat × Nat)
  retrain : Nat
  lastParam : Nat
  asked : Bool
  health : Nat
  peerMask : Nat
  peer : Nat
  serial : Nat
  frames : Nat
  polarity : Nat
  turn : Nat
  used : Nat
  txFlits : List (List Byte)
  txFrames : Nat
  txBits : Nat
  scr : Nat
  deriving DecidableEq, Repr

/-- A port that is DISABLED. The first LSEQ is 1, so that the last one accepted reads 0 (log entry 44). -/
def Port.reset : Port :=
  { st := 0, cause := 0, half := false, high := false, reversed := false, miswired := false, tx := List.replicate 4 [],
    rx := List.replicate 4 [], credits := List.replicate 4 0, owed := List.replicate 4 0, lseq := 1, peerAck := 0, replay := [], expect := 1,
    want := false, retries := 0, lastRetry := 0, replayFrom := 0, replayEnd := 0, ackDue := false, lastRx := 0, since := 0, left := none,
    failedAt := none, lastHb := none, hb := none, retrain := 0, lastParam := 0, asked := false, health := 0, peerMask := 0, peer := 0,
    serial := 0, frames := 0, polarity := 0, turn := 0, used := 0, txFlits := [], txFrames := 0, txBits := 0, scr := 0 }

/-- Fabric time (11 R265-R270): the offsets and delays of the last exchanges, newest first, and the source they are from; the last filtered offset and
delay; consecutive filtered offsets within 8 ns; SYNCED, and whether it has been set since reset; since when HOLDOVER, the rate correction it goes on at
in ns per ms, and what that has gathered in 10^-6 ns; what is left to slew, and the local time since the last slew step; the time latched at a TSYNC edge. -/
structure FtmSt where
  src : Nat
  was : Bool
  rate : Int
  rateAcc : Int
  win : List (Int × Int)
  offset : Int
  delay : Int
  good : Nat
  synced : Bool
  holdover : Option Nat
  slew : Int
  slewAcc : Nat
  latch : Option Nat
  deriving DecidableEq, Repr

/-- Fabric time that has met no upstream. -/
def FtmSt.reset : FtmSt :=
  { src := 0, was := false, rate := 0, rateAcc := 0, win := [], offset := 0, delay := 0, good := 0, synced := false, holdover := none, slew := 0, slewAcc := 0, latch := none }

/-- The fabric state of the module: transactions that wait to be numbered, connections by peer, connections each die's port group caches, what the
module has sent, the ports, fabric time, MGMT transactions that firmware has not taken, BOARD_ID as firmware
read it (0 unknown), and relay mode (11 R264). -/
structure FabSt where
  waiting : List OutTxn
  conns : SMap Conn
  cached : SMap (List Nat)
  out : List OutItem
  ports : List Port
  ftm : FtmSt
  inbox : List Txn
  boardId : Nat
  relay : Bool
  deriving DecidableEq, Repr

/-- A record of the error log (15 Table 15.2) with its log sequence number whether the host has read it, whether it has been
forwarded to a manager (`told`), whether its window of 100 µs is open, and occurrences since. -/
structure LogRec where
  lsn : W32
  r : ErrRec
  forwarded : Bool
  reporter : BitVec 12
  ftime : Nat
  read : Bool
  told : Bool
  windowOpen : Bool
  sinceFwd : W32
  deriving DecidableEq, Repr

/-- The error collector (15 R338-R342). -/
structure ErrSt where
  log : List LogRec
  next : W32
  overflow : Bool
  deriving DecidableEq, Repr

end Sys2Proof.Machine
end

