-- ==== Sys2Proof/Machine/TypesSeq.lean ====
section
/-! DEFINITION. The state of the reduction sequencers (13), the update sequencers (14) and the checkpoint engines (15). -/

namespace Sys2Proof.Machine

/-- A transaction that a sequencer waits for: a piece of a child's chunk, at an offset of its chunk slot, or a write. -/
inductive SeqPart where
  | pull (right : Bool) (chunk off len : Nat)
  | write
  deriving DecidableEq, Repr

/-- What a sequencer or engine does once the checkpoint engine has taken the blocks before it (15 R348): a write, or a signal that
follows its writes. -/
inductive HeldSeq where
  | write (ctx addr : Nat) (bytes : List Byte)
  | signal (k ctx vs : Nat)
  deriving DecidableEq, Repr

/-- A child of a bucket's member (13 R308-R310): its module, whether it is in the tree, whether a ready record of this STEP and
pass has been used, whether the decision included it, what its newest record says, the next chunk to pull, and the chunks whose pull has landed. -/
structure BKid where
  present : Bool
  peer : Nat
  imp : Nat
  seen : Bool
  inc : Bool
  count : Nat
  chunks : Nat
  obs : Nat
  ovf : Bool
  canon : Bool
  mixed : Bool
  asked : Nat
  landed : Nat
  deriving DecidableEq, Repr

/-- A child that is not in the tree. -/
def BKid.none : BKid := ⟨false, 0, 0, false, false, 0, 0, 0, false, false, false, 0, 0⟩

/-- An armed bucket (13): the arming context, the header's address and bytes as read, tree index, whether the wire is B16 now, whether the
context is canonical, WIRE_E, the state of Table 13.3 and its cause; the start condition's outcome as the synchronisation unit reported it
and as BUCKET_START_MET took it; the decision; CARRY_COUNT at arm and now; the parent and the children; the subtree count; chunks final
in SUM and in RESULT or XMIT; OVF and OBS of its own conversions; what the down records said; whether pass 2 runs, whether it was
joined, whether the own contribution is settled, whether an excluded subtree waits to be handled, whether a comet arose; the
transactions it waits for and the pulled bytes (side, chunk, offset) that have not landed. -/
structure Bucket where
  ctx : Nat
  hdr : Nat
  bytes : List Byte
  idx : Nat
  wire : Bool
  canon : Bool
  wireE : Nat
  st : Nat
  cause : Nat
  mark : Bool
  met : Bool
  own : Bool
  carryIn : Nat
  carry : Nat
  parent : Nat
  kids : BKid × BKid
  count : Nat
  summed : Nat
  result : Nat
  ovf : Bool
  obs : Nat
  downSeen : Bool
  inc : Bool
  fin : Bool
  nonc : Bool
  missing : Bool
  dcount : Nat
  dobs : Nat
  pass2 : Bool
  settled : Bool
  excl : Bool
  comet : Bool
  parts : SMap SeqPart
  got : List (Bool × Nat × Nat × List Byte)
  deriving DecidableEq, Repr

/-- A segment of a run (14 R323): its entry's address and bytes as read; whether its start pair was met and pass 1 was started; tiles finished by each
virtual sequencer in each pass; the partial sums of the virtual sequencers as XSUM; whether it was skipped; blocks held; whether
it is non-finite; whether its pass 1 and pass 2 are complete. -/
structure USeg where
  addr : Nat
  bytes : List Byte
  started : Bool
  p1 : List Nat
  p2 : List Nat
  sums : List W64
  xsum : W64
  skipped : Bool
  held : Nat
  nonfin : Bool
  done1 : Bool
  done2 : Bool
  deriving DecidableEq, Repr

/-- An update run (14 R325): the context, the descriptor's address and bytes, tree index, state (Table 14.6), cause, the group table copy in
use and which it is, the schedules (group, η, λ), the segments, each start pair (virtual ID, value) with whether it was met, the own norm partial,
the children's records (present, module, sum), the parent's module, S, the clip factor and NONFINITE once known, and the
transactions it waits for. -/
structure URun where
  ctx : Nat
  addr : Nat
  bytes : List Byte
  idx : Nat
  st : Nat
  cause : Nat
  table : List Byte
  second : Bool
  sched : List (Nat × W32 × W32)
  segs : List USeg
  pairs : List (Nat × Nat × Bool)
  parent : Nat
  kids : List (Nat × Option W64)
  partialS : Option W64
  sent : Bool
  s : W64
  clip : W32
  nonfin : Bool
  known : Bool
  parts : SMap SeqPart
  deriving DecidableEq, Repr

/-- A context's update group tables (14 R321): the two copies and which is current; none before the first UPDATE_TABLE_SET. -/
structure UTable where
  copies : List Byte × List Byte
  second : Bool
  deriving DecidableEq, Repr

/-- A checkpoint generation (15 Table 15.8 CKP_GENn). -/
structure CkGen where
  step : W32
  valid : Bool
  complete : Bool × Bool
  deriving DecidableEq, Repr

/-- A generation area that has not been written. -/
def CkGen.none : CkGen := ⟨0, false, (false, false)⟩

/-- A context's checkpoint state (15 R344-R350): the checkpointable ranges, the buddies' modules and ranks, the period, the resume entry, the event queue, the
last accepted mark, dirty and PENDING 64 KiB blocks, the tracker snapshot, the two generation areas and the one being written,
the copied blocks' CRC-64 values, the boundary step, the state of Table 15.8, transactions not acknowledged per buddy and whether a
buddy failed, and the segments of the last completed update run. -/
structure Ckpt where
  ranges : List (Nat × Nat)
  buddies : Nat × Nat
  ranks : Nat × Nat
  period : Nat
  resume : List Byte
  evq : Nat
  mark : Option W32
  dirty : List Nat
  pend : List Nat
  imgs : SMap Byte × SMap Byte
  snaps : SMap Tracker × SMap Tracker
  gens : CkGen × CkGen
  cur : Nat
  crcs : List (Nat × W64)
  step : W32
  st : Nat
  parts : SMap (Bool × Bool)
  failed : Bool × Bool
  recSent : Bool
  resumeQ : Nat
  lastDone : Option W32
  segs : List (Nat × List Byte)
  rebuild : List Nat
  deriving DecidableEq, Repr

/-- A mesh peer's module heartbeats as firmware sees them (15 R354): when the last one came and whether the peer was declared dead. -/
structure MeshPeer where
  last : Option Nat
  dying : Bool
  dead : Bool
  deriving DecidableEq, Repr

/-- An open recovery (15 R356-R358): its number, the job, the fault identities it has taken, the lost ranks with the modules that now hold
them, when it opened, and the step last finished (0 none, 1 tear down, 2 promote, 3 restore, 4 resume). -/
structure Recovery where
  number : Nat
  job : Nat
  faults : List W32
  lost : List (Nat × Nat)
  opened : Nat
  phase : Nat
  deriving DecidableEq, Repr

end Sys2Proof.Machine
end

