-- ==== Sys2Proof/Machine/TypesSys.lean ====
section
/-! DEFINITION. What firmware keeps: contexts, kernels, job maps (02, 13, 16); the power and clock state (18). -/

namespace Sys2Proof.Machine

/-- A finalized kernel in the kernel cache (02 R25-R31): its key, the header's resources, code words, entry points, the
words validation reached, and each branch's reconvergence point. -/
structure Kernel where
  digest : List Byte
  canonical : Bool
  dptGen : Nat
  rev : Nat
  flags : Nat
  gregs : Nat
  tregs : Nat
  mtiles : Nat
  spad : Nat
  oc : Nat
  vsync : Nat
  code : List Nat
  entries : List (Nat × Nat)
  reach : List Nat
  callRet : List Nat
  rpc : SMap Nat
  held : List Nat
  ctxs : List Nat
  lastLaunch : Nat
  bytes : Nat
  deriving DecidableEq, Repr

/-- A protection context (16 R367-R369). -/
structure Ctx where
  canonical : Bool
  deadchk : Bool
  job : Nat
  parkBase : Nat
  evq : Nat
  keyId : Nat
  preempted : Bool
  preemptAt : Option Nat
  rearm : Bool
  quiesced : Bool
  deriving DecidableEq, Repr

/-- The states of a cluster (18 R401, Table 18.7). -/
inductive ClSt where
  | run
  | entering
  | dormant
  | waking
  | test
  | disabled
  deriving DecidableEq, Repr

/-- One cluster's clock and power state (18 R398-R404): CCLK in kHz, ck count times 10^6, the same count without the gaps in which the
clock stood (for timeouts, 10 R231), since when it idles, when it entered its state, whether its gating or power-on slot has ended, the wake event it
serves, when its CCLK last changed. -/
structure Cluster where
  st : ClSt
  khz : Nat
  ckPhase : Nat
  toPhase : Nat
  idleSince : Option Nat
  since : Nat
  gated : Bool
  wake : Option Nat
  stepAt : Nat
  deriving DecidableEq, Repr

/-- A cluster after reset. -/
def Cluster.reset : Cluster := { st := .run, khz := 1000000, ckPhase := 0, toPhase := 0, idleSince := none, since := 0, gated := false, wake := none, stepAt := 0 }

end Sys2Proof.Machine
end

