-- ==== Sys2Proof/Machine/TypesFw.lean ====
section
/-! DEFINITION. What firmware and the always-on domain keep: mailboxes and sessions (16, 17), the key store and the life cycle (17), power, timers
and the Cicada self-test (18), boot and the package (19), the fabric manager's part (15). -/

namespace Sys2Proof.Machine

/-- A session of a mailbox (17 R385, R386): PENDING or AUTHENTICATED, the expected SEQUENCE, the nonces, the message keys, when SESSION_OPEN was answered. -/
structure Session where
  id : W32
  keyId : Nat
  level : Nat
  pending : Bool
  expect : Nat
  hostNonce : List Byte
  devNonce : List Byte
  reqKey : List Byte
  rspKey : List Byte
  opened : Nat
  deriving DecidableEq, Repr

/-- A mailbox (16 R360-R365): state (0 IDLE, 1 BUSY, 2 DONE), OVERRUN, responses written, the request area, the response, its session, the rank of
its GO write, how far the command has come (0 not begun), the key the response is to be sealed with, and the next response byte to read over SMBus. -/
structure Mbx where
  st : Nat
  overrun : Bool
  responses : Nat
  req : List Byte
  rsp : List Byte
  session : Option Session
  rank : Nat
  stage : Nat
  key : List Byte
  readAt : Nat
  deriving DecidableEq, Repr

/-- A mailbox after reset. -/
def Mbx.reset : Mbx :=
  { st := 0, overrun := false, responses := 0, req := [], rsp := [], session := none, rank := 0, stage := 0, key := [], readAt := 0 }

/-- A key record (17 R383) that is ACTIVE. -/
structure KeyRec where
  id : Nat
  key : List Byte
  mask : Nat
  deriving DecidableEq, Repr

/-- Failed authentications of a key (17 R388): consecutive failures, until when it is locked, and the length of the next lock in seconds. -/
structure AuthCnt where
  fails : Nat
  lock : Option Nat
  span : Nat
  deriving DecidableEq, Repr

/-- A firmware slot of the flash (17 Table 17.3): whether its image would be accepted, its version and ROLLBACK. -/
structure FwSlot where
  ok : Bool
  version : Nat
  rollback : Nat
  deriving DecidableEq, Repr

/-- The security module, the fuses and the flash (17): key records, counts, the error state, life-cycle state, TRANSITION target (7 none), passes
through RMA, the rollback fuse, the firmware slots, the ACTIVE record, the slot that runs and whether it is the fallback, the half and
generation count of the key-store area, the fabric ID in flash, and whether scan and JTAG beyond IDCODE are enabled (Tables 17.4 and 17.5, 19 R432). -/
structure SecSt where
  keys : SMap KeyRec
  auth : SMap AuthCnt
  error : Bool
  lcs : Nat
  target : Nat
  rma : Nat
  rollback : Nat
  slots : List FwSlot
  active : Nat
  running : Nat
  fallback : Bool
  keyHalf : Bool
  keyGen : Nat
  flashId : Option (BitVec 12)
  scan : Bool
  deriving DecidableEq, Repr

/-- The security module of a module in MANUFACTURE with an empty key store and one image (log entry 5). -/
def SecSt.reset : SecSt :=
  { keys := [], auth := [], error := false, lcs := 1, target := 7, rma := 0, rollback := 0,
    slots := [{ ok := true, version := 0, rollback := 0 }, { ok := false, version := 0, rollback := 0 }],
    active := 0, running := 0, fallback := false, keyHalf := false, keyGen := 1, flashId := none, scan := true }

/-- Whose wake-up a compare slot or the polling tick holds (18 R406): the deadline of a bucket, a group's timeout (core and age), or firmware's own. -/
inductive TimerOf where
  | bucket (b : Nat)
  | group (core age : Nat)
  | firmware
  deriving DecidableEq, Repr

/-- A wake-up: its user, the cluster and the fabric time. -/
structure Timer where
  who : TimerOf
  cluster : Nat
  due : Nat
  deriving DecidableEq, Repr

/-- A state change that waits for a stagger slot or takes it (18 R403): 0 gating, 1 power-on, 2 self-test start, 3 self-test end; since when it waits. -/
structure Stagger where
  cluster : Nat
  kind : Nat
  since : Nat
  deriving DecidableEq, Repr

/-- The power controller and the AON controller (18): samples of the draw (newest first, up to 100), THROTTLE, THERMAL of each die, LIMIT_RAISED, AON_LOST,
steps of the fast lowering still to take, the compare slots, the polled timers,
waiting state changes and until when the stagger slot is taken, the STALE bits, shadows changed by held writes, held writes, temperatures in 1/16 °C,
whether REFCLK is there, and whether VDD_AON is gone. -/
structure PwrSt where
  samples : List Nat
  throttle : Bool
  thermal : List Bool
  raised : Bool
  aonLost : Bool
  fast : Nat
  slots : List (Option Timer)
  polled : List Timer
  stagger : List Stagger
  staggerEnd : Nat
  rdstat : Nat
  shadow : SMap Nat
  heldW : SMap (List RegWr)
  temps : List Int
  refclk : Bool
  aonGone : Bool
  deriving DecidableEq, Repr

/-- Power after reset. -/
def PwrSt.reset : PwrSt :=
  { samples := [], throttle := false, thermal := [false, false, false, false], raised := false, aonLost := false, fast := 0,
    slots := List.replicate 16 none, polled := [], stagger := [], staggerEnd := 0, rdstat := 0, shadow := [], heldW := [],
    temps := List.replicate 8 0, refclk := true, aonGone := false }

/-- A Cicada record (18 Table 18.6). -/
structure CicRec where
  pass : Bool
  fail : Bool
  trigger : Nat
  duration : Nat
  secs : Nat
  cov : Nat
  alg : Nat
  fails : Nat
  patterns : Nat
  version : Nat
  signature : List Byte
  loc : Nat
  deriving DecidableEq, Repr

/-- The Cicada controller (18 R413-R417): records, domains still to be tested, the trigger, the domain under test and since when, the mailbox whose SELFTEST_RUN
it serves with the domains that passed and failed, the seconds counter in ns, QUICK_START, and of each die the segment under test with the step it has reached (0 saved, 1 tested). -/
structure CicSt where
  recs : SMap CicRec
  todo : List Nat
  trigger : Nat
  busy : Option (Nat × Nat)
  mailbox : Option Nat
  passed : Nat
  failed : Nat
  aonNs : Nat
  quick : Bool
  seg : SMap (Nat × Nat)
  deriving DecidableEq, Repr

/-- The Cicada controller with no record. -/
def CicSt.reset : CicSt :=
  { recs := [], todo := [], trigger := 0, busy := none, mailbox := none, passed := 0, failed := 0, aonNs := 0, quick := false, seg := [] }

/-- The package (19): PWRGOOD, the sampled straps, READY, the boot stage, when PWRGOOD rose, ms to READY, FULL_TEST, the DDR5 lines each channel has
initialised, whether PERST# is high, held in reset, THERMTRIP, RAIL_FAULT, NO_FIRMWARE, since when each rail is out of its window, and the
size of BAR2 as a power of two. -/
structure PkgSt where
  pwrgood : Bool
  position : Nat
  ready : Bool
  stage : Nat
  riseAt : Nat
  readyMs : Nat
  fullTest : Bool
  ddrMark : SMap Nat
  ddrInit : Bool
  perst : Bool
  held : Bool
  thermtrip : Bool
  railFault : Bool
  noFirmware : Bool
  railOut : SMap Nat
  barLog : Nat
  deriving DecidableEq, Repr

/-- The package before PWRGOOD rises. -/
def PkgSt.reset : PkgSt :=
  { pwrgood := false, position := 0, ready := false, stage := 0, riseAt := 0, readyMs := 0, fullTest := false, ddrMark := [],
    ddrInit := false, perst := true, held := false, thermtrip := false, railFault := false, noFirmware := false, railOut := [], barLog := 28 }

/-- A journal entry of the fabric manager (15 R355): the job, the member, the request's bytes and the image it read. -/
structure JEntry where
  job : Nat
  member : Nat
  req : List Byte
  image : List Byte
  deriving DecidableEq, Repr

/-- What firmware keeps besides contexts (15, 16): SPARE_POLICY (relay mode, the board's spare, limits), mesh peers by module, open recoveries by job,
the next recovery number, the journal, when the last heartbeat was sent, the GO writes accepted, preemptions requested by context (since when,
by which mailbox), the last values read by the host, by firmware and over SMBus, and the generation areas held as a buddy (source module, its context, base,
bytes of both). -/
structure FwSt where
  spare : Nat
  limCorrected : Nat
  limContained : Nat
  mesh : SMap MeshPeer
  recovs : SMap Recovery
  nextRec : Nat
  journal : List JEntry
  lastHb : Nat
  gos : Nat
  preempts : SMap (Nat × Nat)
  rdHost : Nat
  rdFw : Nat
  rdSmb : List Byte
  gens : List (Nat × Nat × Nat × Nat)
  deriving DecidableEq, Repr

/-- Firmware after reset. -/
def FwSt.reset : FwSt :=
  { spare := 0, limCorrected := 0, limContained := 0, mesh := [], recovs := [], nextRec := 1, journal := [], lastHb := 0, gos := 0,
    preempts := [], rdHost := 0, rdFw := 0, rdSmb := [], gens := [] }

end Sys2Proof.Machine
end

