-- ==== Sys2Proof/Machine/State.lean ====
section
/-! DEFINITION. The state of the module, the reasons a step can stop, and the state after reset. -/

namespace Sys2Proof.Machine

/-- Why the machine stops with a fault. -/
inductive Fault where
  /-- Raised by an issue of an LPK word that the finalizer rejects (02 R28, R453): no microcode exists for it and the spec
  gives it no effect. Safe: the machine stops where no kernel of the hardware can be. -/
  | noMicrocode
  deriving DecidableEq, Repr

/-- Why the machine refuses a command. -/
inductive Refusal where
  /-- Raised by a dispatch arm whose command has no meaning yet. Safe: the machine stops. -/
  | notModelled (mnemonic : String)
  deriving DecidableEq, Repr

/-- The module (INVENTORY.md lists each part with the rule that names it). -/
structure State where
  pending : List Instr
  now : Nat
  free : Nat
  regs : SMap Nat
  cores : List Core
  mem : MemSt
  jobs : SMap EngJob
  nextJob : Nat
  sync : SyncSt
  que : QueSt
  fab : FabSt
  err : ErrSt
  trackers : SMap Tracker
  regions : SMap Region
  ctxs : SMap Ctx
  kernels : SMap Kernel
  ckpts : SMap Ckpt
  buckets : SMap Bucket
  runs : SMap URun
  utables : SMap UTable
  heldSeq : List HeldSeq
  lpm : SMap (SMap Nat)
  clusters : List Cluster
  fabricId : Option (BitVec 12)
  ftime : Nat
  mbx : List Mbx
  sec : SecSt
  pwr : PwrSt
  cic : CicSt
  pkg : PkgSt
  fw : FwSt
  deriving DecidableEq, Repr

/-- The module right after reset. -/
def State.reset : State :=
  { pending := [], now := 0, free := 0, regs := [], cores := List.replicate 48 Core.reset,
    mem := { cells := [], slices := [], fills := [], nextFill := 0, weevil := [], backed := [], redQueue := [], badCw := [], scrub := [], chanLast := [],
             selfRefresh := [] },
    jobs := [], nextJob := 0,
    sync := { objs := [], cache := [], msgs := [], held := [],
              lines := List.replicate 8
                { arrs := [], gen := [], came := [], hold := none },
              pins := [true, true], pinHold := false, bad := [] },
    que := { descs := [], cached := [], launches := [], nextLaunch := 0, held := [], stamp := 0, msix := [] },
    fab := { waiting := [], conns := [], cached := [], out := [],
             ports := List.replicate 16 Port.reset, ftm := FtmSt.reset, inbox := [], boardId := 0, relay := false },
    err := { log := [], next := 0, overflow := false },
    trackers := [], regions := [], ctxs := [], kernels := [], ckpts := [],
    buckets := [], runs := [], utables := [], heldSeq := [], lpm := [],
    clusters := List.replicate 16 Cluster.reset, fabricId := none, ftime := 0,
    mbx := List.replicate 11 Mbx.reset, sec := SecSt.reset, pwr := PwrSt.reset, cic := CicSt.reset, pkg := PkgSt.reset, fw := FwSt.reset }

end Sys2Proof.Machine
end

