-- ==== Sys2Proof/Machine/Ops.lean ====
section
/-! DEFINITION. The named operations over registers, counters, cores, memory and the error log that the meanings share. -/

namespace Sys2Proof.Machine

/-! ### Free values -/

/-- A free 32-bit value and the state whose counter has advanced. -/
def drawW32 (s : State) : W32 × State := (Config.freeW32 s.free, { s with free := s.free + 1 })
/-- A free 64-bit value. -/
def drawW64 (s : State) : W64 × State := (Config.freeW64 s.free, { s with free := s.free + 1 })
/-- A free natural number. -/
def drawNat (s : State) : Nat × State := (Config.freeNat s.free, { s with free := s.free + 1 })
/-- `n` free bytes. -/
def drawBytes (n : Nat) (s : State) : List Byte × State :=
  ((List.range n).map (fun i => Config.freeByte (s.free + i)), { s with free := s.free + n })

/-! ### Register blocks (20 Table 20.1) and stored registers -/

/-- The register blocks. -/
inductive RBlk where
  | pwr
  | sec
  | dpt
  | err
  | que
  | ftm
  | rdx
  | upd
  | ctxlog
  | rgn
  | trk
  | syn
  | fab
  | lnk
  | pmc
  | slc
  | xfr
  | mat
  | vec
  | thr
  | lsu
  | num
  | mbx
  | hst
  deriving DecidableEq, Repr

/-- The base of the register space (R443). -/
def regBase : Nat := 0xFF0000000000
/-- Where the model numbers the BAR0-only blocks: above the 48-bit address space. -/
def bar0Base : Nat := 0x1000000000000

/-- The address of a block's instance on a die (R443, Table 20.1). -/
def blkAddr (b : RBlk) (die inst : Nat) : Nat :=
  let d := regBase + die * 0x10000000
  match b with
  | .pwr => d
  | .sec => d + 0x1000
  | .dpt => d + 0x2000
  | .err => d + 0x3000
  | .que => d + 0x4000
  | .ftm => d + 0x5000
  | .rdx => d + 0x6000
  | .upd => d + 0x8000
  | .ctxlog => d + 0xA000 + 32 * inst
  | .rgn => d + 0x20000
  | .trk => d + 0x100000
  | .syn => d + 0x200000
  | .fab => d + 0x400000
  | .lnk => d + 0x600000 + 0x1000 * inst
  | .pmc => d + 0x700000
  | .slc => d + 0x800000 + 0x1000 * inst
  | .xfr => d + 0x900000 + 0x1000 * inst
  | .mat => d + 0x1000000 + 0x100000 * inst
  | .vec => d + 0x1010000 + 0x100000 * inst
  | .thr => d + 0x1020000 + 0x100000 * inst
  | .lsu => d + 0x1030000 + 0x100000 * inst
  | .num => d + 0x1040000 + 0x100000 * inst
  | .mbx => bar0Base + 0x18000
  | .hst => bar0Base + 0x19000

/-- The die and instance of a block for a module-wide unit number: core `n`, slice `g`, cluster `k`, port `p`, else die. -/
def blkAt (b : RBlk) (u : Nat) : Nat × Nat :=
  match b with
  | .mat | .vec | .thr | .lsu | .num => (u / 12, u % 12)
  | .slc => (u / 16, u % 16)
  | .xfr => (u / 4, u % 4)
  | .lnk => (u % 4, u / 4)
  | .ctxlog => (0, u)
  | _ => (u, 0)

/-- The address of register `off` of the block of unit `u`. -/
def regAddr (b : RBlk) (u off : Nat) : Nat := blkAddr b (blkAt b u).1 (blkAt b u).2 + off

/-- A stored register that holds 0 at reset. -/
def regGet (s : State) (a : Nat) : Nat := SMap.getD s.regs a 0
/-- A stored register that holds `dflt` at reset. -/
def regGetD (s : State) (a dflt : Nat) : Nat := SMap.getD s.regs a dflt
/-- A stored register written; `dflt` is what it holds at reset. -/
def regPutD (s : State) (a dflt v : Nat) : State := { s with regs := SMap.setD s.regs a dflt v }
/-- A stored register with reset value 0 written. -/
def regPut (s : State) (a v : Nat) : State := regPutD s a 0 v

/-! ### Counters and the performance counters that follow them (20 R446, R447) -/

/-- The block and offset an event counts (20 Table 20.4), and whether its occurrences are attributable to a context.
`none` for an event the table does not list; UCLK (0x001) is counted by the clock itself. -/
def pmcEvent (e : Nat) : Option (RBlk × Nat × Bool) :=
  match e with
  | 0x002 => some (.syn, 0x020, false)
  | 0x003 => some (.syn, 0x038, false)
  | 0x004 => some (.fab, 0x038, false)
  | 0x005 => some (.fab, 0x060, false)
  | 0x006 => some (.fab, 0x068, false)
  | 0x010 => some (.rdx, 0x040, false)
  | 0x011 => some (.rdx, 0x048, false)
  | 0x012 => some (.rdx, 0x050, false)
  | 0x013 => some (.rdx, 0x038, false)
  | 0x014 => some (.upd, 0x068, false)
  | 0x015 => some (.err, 0x148, false)
  | 0x016 => some (.pwr, 0x220, false)
  | 0x101 => some (.thr, 0x028, true)
  | 0x102 => some (.thr, 0x030, false)
  | 0x103 => some (.thr, 0x070, true)
  | 0x104 => some (.mat, 0x058, true)
  | 0x105 => some (.mat, 0x060, true)
  | 0x106 => some (.mat, 0x068, true)
  | 0x107 => some (.mat, 0x070, true)
  | 0x108 => some (.mat, 0x078, true)
  | 0x109 => some (.mat, 0x080, true)
  | 0x10A => some (.mat, 0x088, true)
  | 0x10B => some (.num, 0x10, true)
  | 0x10C => some (.num, 0x18, true)
  | 0x10D => some (.num, 0x20, true)
  | 0x10E => some (.num, 0x30, true)
  | 0x10F => some (.vec, 0x048, true)
  | 0x110 => some (.vec, 0x038, true)
  | 0x111 => some (.vec, 0x050, true)
  | 0x112 => some (.vec, 0x060, true)
  | 0x113 => some (.vec, 0x030, true)
  | 0x114 => some (.lsu, 0x020, true)
  | 0x115 => some (.lsu, 0x028, false)
  | 0x116 => some (.lsu, 0x010, true)
  | 0x117 => some (.lsu, 0x030, true)
  | 0x118 => some (.thr, 0x058, true)
  | 0x119 => some (.thr, 0x050, true)
  | 0x11A => some (.thr, 0x068, true)
  | 0x201 => some (.slc, 0x080, true)
  | 0x202 => some (.slc, 0x088, true)
  | 0x203 => some (.slc, 0x090, true)
  | 0x204 => some (.slc, 0x0A0, true)
  | 0x205 => some (.slc, 0x0A8, false)
  | 0x206 => some (.slc, 0x0B0, true)
  | 0x207 => some (.slc, 0x0B8, false)
  | 0x208 => some (.slc, 0x0C0, true)
  | 0x209 => some (.slc, 0x0C8, true)
  | 0x20A => some (.slc, 0x0D8, true)
  | 0x20B => some (.slc, 0x0E0, true)
  | 0x20C => some (.slc, 0x0E8, true)
  | 0x20D => some (.slc, 0x0F0, true)
  | 0x20E => some (.slc, 0x0F8, true)
  | 0x20F => some (.slc, 0x100, true)
  | 0x301 => some (.xfr, 0x030, true)
  | 0x302 => some (.xfr, 0x018, true)
  | 0x303 => some (.xfr, 0x028, true)
  | 0x401 => some (.lnk, 0x050, false)
  | 0x402 => some (.lnk, 0x060, false)
  | 0x403 => some (.lnk, 0x078, false)
  | 0x404 => some (.lnk, 0x030, false)
  | _ => none

/-- Whether EVENT is listed in 20 Table 20.4. -/
def pmcListed (e : Nat) : Bool := e = 0x001 || (pmcEvent e).isSome

/-- Whether a selection (20 Table 20.3) counts an occurrence at instance `inst` of register `off` of block `b` that
belongs to context `ctx`. -/
def pmcSelects (sel : Nat) (b : RBlk) (off inst : Nat) (ctx : Option Nat) : Bool :=
  sel.testBit 63 &&
  match pmcEvent (field sel 0 12) with
  | none => false
  | some (b', off', attr) =>
    b' == b && off' == off && (field sel 32 8 == 0xFF || field sel 32 8 == inst)
      && (!sel.testBit 62 || (attr && ctx == some (field sel 48 8)))

/-- The performance counters of a die advanced by an occurrence. -/
def pmcFeed (s : State) (die : Nat) (b : RBlk) (off inst amount : Nat) (ctx : Option Nat) : State :=
  (List.range 16).foldl (fun s i =>
    let base := blkAddr .pmc die 0
    if pmcSelects (regGet s (base + 0x100 + 8 * i)) b off inst ctx then
      regPut s (base + 0x200 + 8 * i) ((regGet s (base + 0x200 + 8 * i) + amount) % 2 ^ 64)
    else s) s

/-- Whether any performance counter is selected on a die. -/
def pmcAny (s : State) (die : Nat) : Bool :=
  (List.range 16).any (fun i => (regGet s (blkAddr .pmc die 0 + 0x100 + 8 * i)).testBit 63)

/-- A 64-bit event counter of unit `u` advanced by `amount`, with the performance counters that select it. -/
def bumpC (s : State) (b : RBlk) (u off amount : Nat) (ctx : Option Nat) : State :=
  if amount = 0 then s
  else
    let a := regAddr b u off
    let s1 := regPut s a ((regGet s a + amount) % 2 ^ 64)
    let at_ := blkAt b u
    if pmcAny s1 at_.1 then pmcFeed s1 at_.1 b off at_.2 amount ctx else s1

/-- A counter advanced by one, attributed to a context. -/
def bump (s : State) (b : RBlk) (u off : Nat) (ctx : Nat) : State := bumpC s b u off 1 (some ctx)
/-- A counter advanced by one, attributed to none. -/
def bump0 (s : State) (b : RBlk) (u off : Nat) : State := bumpC s b u off 1 none

/-- The registers at `offs` of a unit's block set to 0. -/
def clearRegs (s : State) (b : RBlk) (u : Nat) (offs : List Nat) : State :=
  offs.foldl (fun s o => regPut s (regAddr b u o) 0) s

/-! ### Cores and groups -/

/-- Core `n`. -/
def coreOf (s : State) (n : Nat) : Core := nth s.cores n Core.reset
/-- Core `n` changed. -/
def modCore (s : State) (n : Nat) (f : Core → Core) : State := { s with cores := modAt (padUp 48 Core.reset s.cores) n f }
/-- The group in a slot. -/
def groupOf (s : State) (n i : Nat) : Option Group := nth (coreOf s n).slots i none
/-- The group in a slot replaced. -/
def setGroup (s : State) (n i : Nat) (g : Option Group) : State :=
  modCore s n (fun c => { c with slots := setAt (padUp 32 none c.slots) i g })
/-- The group in a slot changed. -/
def modGroup (s : State) (n i : Nat) (f : Group → Group) : State :=
  modCore s n (fun c => { c with slots := modAt c.slots i (Option.map f) })
/-- The slot of the group with an age, if it is in one. -/
def slotOfAge (c : Core) (age : Nat) : Option Nat :=
  (findIdxFrom (fun g => match g with | some (x : Group) => x.age == age | none => false) 0 c.slots).map (·.1)
/-- The park record that holds the group with an age. -/
def recOfAge (c : Core) (age : Nat) : Option Nat :=
  (findIdxFrom (fun (r : Rec) => match r.grp with | some x => x.age == age | none => false) 0 c.recs).map (·.1)

/-- The module cluster of a core (00 Table 0.2). -/
def clusterOf (n : Nat) : Nat := n / 3
/-- The die of a core. -/
def dieOf (n : Nat) : Nat := n / 12
/-- A cluster. -/
def clusterAt (s : State) (k : Nat) : Cluster := nth s.clusters k Cluster.reset
/-- A cluster changed. -/
def modCluster (s : State) (k : Nat) (f : Cluster → Cluster) : State :=
  { s with clusters := modAt (padUp 16 Cluster.reset s.clusters) k f }
/-- The ck count of a core since reset (07 sCLK). -/
def ckOf (s : State) (n : Nat) : Nat := (clusterAt s (clusterOf n)).ckPhase / 1000000

/-- The ck count of a core for timeouts: it goes on at the last frequency while the cluster's clock stands (10 R231). -/
def toCkOf (s : State) (n : Nat) : Nat := (clusterAt s (clusterOf n)).toPhase / 1000000

/-- The field of bits `lo ..` of a thread mask as a list of thread numbers. -/
def tids (m : BitVec 32) : List Nat := (List.range 32).filter (fun i => m.getLsbD i)
/-- The lowest thread of a mask. -/
def lowTid (m : BitVec 32) : Option Nat := (tids m).head?
/-- The mask of a list of threads. -/
def maskOf (l : List Nat) : BitVec 32 := l.foldl (fun m i => m ||| (1#32 <<< i)) 0
/-- The mask of the threads that satisfy a test. -/
def maskWhere (p : Nat → Bool) : BitVec 32 := maskOf ((List.range 32).filter p)

/-! ### The error log (15 R338-R342) -/

/-- The module's fabric ID as it appears in records, 0 while none is held. -/
def selfId (s : State) : BitVec 12 := s.fabricId.getD 0

/-- The SOURCE field (15 Table 15.2). -/
def errSource (die unit inst : Nat) : W16 := BitVec.ofNat 16 (die * 0x4000 + unit * 0x100 + inst)

/-- The fault identity of kind UNIT (15 Table 15.3). -/
def unitFault (s : State) (src : W16) : W32 := BitVec.ofNat 32 ((selfId s).toNat * 0x10000 + src.toNat)

/-- R340: whether a new record is added to a logged one. -/
def errCoalesces (now : Nat) (r : ErrRec) (l : LogRec) : Bool :=
  l.r.faultId == r.faultId && l.r.injected == r.injected && now < l.ftime + 100000

/-- Saturating 32-bit sum. -/
def satAdd32 (a b : W32) : W32 := BitVec.ofNat 32 (min (a.toNat + b.toNat) 0xFFFFFFFF)

/-- The list with its last element that satisfies a test changed. -/
def modLast {α : Type} (p : α → Bool) (f : α → α) (l : List α) : List α :=
  match findIdxFrom p 0 l.reverse with
  | none => l
  | some (i, _) => (modAt l.reverse i f).reverse

/-- R342: room made in a full log for a record of severity `sev`: the log, whether the record may enter, and whether the
overflow flag is set. -/
def errRoom (log : List LogRec) (sev : Nat) : List LogRec × Bool × Bool :=
  if log.length < 4096 then (log, true, false)
  else
    match findIdxFrom (fun (l : LogRec) => l.r.sev.val == 0 && l.read) 0 log with
    | some (i, _) => (dropAt log i, true, false)
    | none =>
      match findIdxFrom (fun (l : LogRec) => l.r.sev.val == 0) 0 log with
      | some (i, _) => (dropAt log i, true, false)
      | none =>
        if sev = 0 then (log, false, false)
        else
          match findIdxFrom (fun (l : LogRec) => l.r.sev.val == 1) 0 log with
          | some (i, _) => (dropAt log i, true, true)
          | none => (log.drop 1, true, true)

/-- The counter register of a severity (15 Table 15.8). -/
def errCounter (sev : Nat) : Nat := 0x010 + 8 * sev

/-- R338-R342: the collector takes a record. -/
def logErr (s : State) (r : ErrRec) : State :=
  let s := bumpC s .err 0 (errCounter r.sev.val) r.count.toNat none
  if s.err.log.any (errCoalesces s.ftime r) then
    let f : LogRec → LogRec := fun l =>
      { l with
        r := { l.r with count := satAdd32 l.r.count r.count, sev := if l.r.sev < r.sev then r.sev else l.r.sev }
        sinceFwd := satAdd32 l.sinceFwd r.count }
    bumpC { s with err := { s.err with log := modLast (errCoalesces s.ftime r) f s.err.log } } .err 0 0x030 r.count.toNat none
  else
    let room := errRoom s.err.log r.sev.val
    if room.2.1 then
      let l : LogRec :=
        { lsn := s.err.next, r := r, forwarded := false, reporter := selfId s, ftime := s.ftime, read := false, told := false,
          windowOpen := true, sinceFwd := 0 }
      { s with err := { log := room.1 ++ [l], next := s.err.next + 1, overflow := s.err.overflow || room.2.2 } }
    else bump0 s .err 0 0x038

/-- A record of a unit of this module (15 Table 15.3 kind UNIT). -/
def unitErr (s : State) (sev : Fin 4) (die unit inst cls ctx info addr : Nat) (injected : Bool) : State :=
  let src := errSource die unit inst
  logErr s
    { faultId := unitFault s src, source := src, cls := BitVec.ofNat 8 cls, sev := sev, injected := injected,
      address := BitVec.ofNat 64 addr, count := 1, ctx := BitVec.ofNat 8 ctx, info := BitVec.ofNat 8 info }

/-! ### Memory cells (08 R165); an unlisted address reads 0 (log entry 2) -/

/-- One byte of module memory. -/
def memByte (s : State) (a : Nat) : Byte := SMap.getD s.mem.cells a 0
/-- One byte of module memory written; the list keeps its canonical form. -/
def cellPut (m : List (Nat × Byte)) (a : Nat) (v : Byte) : List (Nat × Byte) := SMap.setD m a 0 v
/-- `n` bytes from an address. -/
def memBytes (s : State) (a n : Nat) : List Byte := (List.range n).map (fun i => memByte s (a + i))
/-- Bytes stored from an address on. -/
def cellsPut (m : List (Nat × Byte)) : Nat → List Byte → List (Nat × Byte)
  | _, [] => m
  | a, b :: bs => cellsPut (cellPut m a b) (a + 1) bs
/-- The memory's cells replaced. -/
def setCells (s : State) (m : List (Nat × Byte)) : State := { s with mem := { s.mem with cells := m } }
/-- Bytes stored to module memory. -/
def memPut (s : State) (a : Nat) (bs : List Byte) : State := setCells s (cellsPut s.mem.cells a bs)
/-- A little-endian number of `n` bytes from an address. -/
def memNat (s : State) (a n : Nat) : Nat := bytesNat (memBytes s a n)
/-- `n` zero bytes stored. -/
def memZero (s : State) (a n : Nat) : State :=
  setCells s (s.mem.cells.filter (fun c => !(decide (a ≤ c.1) && decide (c.1 < a + n))))

/-- The memory's canonical form: strictly rising addresses, and no cell that reads as an unlisted one. -/
abbrev Memory.wf (m : List (Nat × Byte)) : Bool := SMap.sorted m && m.all (fun c => c.2 != 0)

/-! ### The address map (08 Table 8.1) -/

/-- The ranges of 08 Table 8.1. -/
inductive Space where
  | edram
  | spad (core : Nat)
  | wbuf (array : Nat)
  | ddr
  | door
  | regs
  | none
  deriving DecidableEq, Repr

/-- The address of DPT entry `i`. -/
def dptAddr (i : Nat) : Nat := blkAddr .dpt 0 0 + 8 * i

/-- `DDR_BYTES / 4`, the mapped bulk size of each die (08 R187). -/
def ddrPerDie (s : State) : Nat := regGet s (dptAddr 0x4C) / 4

/-- The range an address lies in (R165, R187). -/
def spaceOf (s : State) (a : Nat) : Space :=
  if a < 0x100000000 then .edram
  else if a < 0x10C000000 then .spad ((a - 0x100000000) / 0x400000)
  else if a < 0x200000000 then .none
  else if a < 0x201800000 then .wbuf ((a - 0x200000000) / 0x40000)
  else if a < 0x10000000000 then .none
  else if a < 0x20000000000 then (if a % 0x4000000000 < ddrPerDie s then .ddr else .none)
  else if a < 0xFE0000000000 then .none
  else if a < 0xFE0000800000 then .door
  else if a < 0xFF0000000000 then .none
  else if a < 0x1000000000000 then .regs
  else .none

/-- Whether `[a, a + n)` lies in one range of Table 8.1; the weight-buffer windows are one range. -/
def oneSpace (s : State) (a n : Nat) : Bool :=
  n = 0 || (match spaceOf s a, spaceOf s (a + n - 1) with
    | .none, _ => false
    | .wbuf _, .wbuf _ => true
    | x, y => x == y)

/-- Whether the clock of a cluster is stopped (18 R401, R409). -/
def clStopped (c : ClSt) : Bool :=
  match c with
  | .dormant | .waking | .test => true
  | _ => false

/-- Whether an access waits for a cluster's wake (18 R402): its scratchpad and weight-buffer windows while the clock is stopped. -/
def sleeps (s : State) (a : Nat) : Bool :=
  match spaceOf s a with
  | .spad n => clStopped (clusterAt s (clusterOf n)).st
  | .wbuf q => clStopped (clusterAt s (clusterOf (q / 2))).st
  | _ => false

/-- The base of a core's scratchpad window. -/
def spadBase (n : Nat) : Nat := 0x100000000 + n * 0x400000
/-- The base of an array's weight-buffer window; `q = 2n + a` (04 R73). -/
def wbufBase (q : Nat) : Nat := 0x200000000 + q * 0x40000

/-- The home die of a cacheable line (08 R168). -/
def homeDie (a : Nat) : Nat := if a < 0x100000000 then field a 30 2 else field a 38 2
/-- slice_hash (08 R168). -/
def sliceHash (a : Nat) : Nat :=
  let la := (a >>> 7) % 0x10000000
  (List.range 7).foldl (fun h g => h ^^^ ((la >>> (4 * g)) % 16)) 0
/-- The module-wide home slice of an address. -/
def homeSlice (a : Nat) : Nat := 16 * homeDie a + sliceHash a
/-- The eDRAM bank of an address (08 R168). -/
def edramBank (a : Nat) : Nat := field a 11 5 ^^^ field a 16 5
/-- The DDR5 channel of an address within its die (08 R187). -/
def ddrChan (a : Nat) : Nat := field a 7 1 ^^^ field a 12 1 ^^^ field a 17 1

/-! ### Regions (08 R167, 12 R284, R285) -/

/-- The permissions an access can need. -/
inductive Perm where
  | read
  | write
  | accum
  deriving DecidableEq, Repr

/-- An empty Region Table entry. -/
def Region.none : Region :=
  { valid := false, kind := false, owner := 0, base := 0, limit := 0, peer := 0, ridx := 0, key := 0, epoch := 0,
    noncache := false, exported := false, accum := false, write := false, read := false, naks := 0 }

/-- Region Table entry `i`. -/
def regionAt (s : State) (i : Nat) : Region := SMap.getD s.regions i Region.none

/-- Whether an entry grants a permission. -/
def Region.grants (r : Region) (p : Perm) : Bool :=
  match p with
  | .read => r.read
  | .write => r.write
  | .accum => r.accum

/-- Whether `[a, a + n)` lies wholly inside an entry's range. -/
def Region.covers (r : Region) (a n : Nat) : Bool :=
  decide (r.base * 4096 ≤ a) && decide (a + n ≤ (r.limit + 1) * 4096)

/-- The LOCAL entry through which a context may make an access (R167). -/
def localRegion (s : State) (ctx a n : Nat) (p : Perm) : Option Nat :=
  (s.regions.find? (fun e => e.2.valid && !e.2.kind && e.2.owner == ctx && e.2.grants p && e.2.covers a n)).map (·.1)

/-- The IMPORT entry through which a context may make a fabric access (R285). -/
def importRegion (s : State) (ctx : Nat) (peer : BitVec 12) (a n : Nat) (p : Perm) : Option Nat :=
  (s.regions.find? (fun e =>
    e.2.valid && e.2.kind && e.2.owner == ctx && e.2.peer == peer && e.2.grants p && e.2.covers a n)).map (·.1)

/-- The module that a fabric global address names (08 R166). -/
def globModule (s : State) (a : Nat) : BitVec 12 :=
  let v : BitVec 12 := BitVec.ofNat 12 (field a 48 12)
  if some v = s.fabricId then 0 else v

end Sys2Proof.Machine
end

