-- ==== Sys2Proof/Machine/Slices.lean ====
section
/-! DEFINITION. The cache slices and the coherent performance of reads, writes, atomics and ACCUMs at the home slice
(08 R173-R183, R198; 09 R202-R206). `mem.cells` holds the coherent value of every line but a RED one; a dirty home line
keeps the bytes beneath it. -/

namespace Sys2Proof.Machine

/-! ### Atomic combination (07 R152) -/

/-- One thread's step of an atomic: the new value of `x`. -/
def atStep (op : AtOp) (x v cmp : W32) : W32 :=
  match op with
  | .add => x + v
  | .mins => if x.slt v then x else v
  | .maxs => if x.slt v then v else x
  | .minu => if x.ult v then x else v
  | .maxu => if x.ult v then v else x
  | .and => x &&& v
  | .or => x ||| v
  | .xor => x ^^^ v
  | .fadd => (fadd x v).v
  | .exch => v
  | .cas => if x = cmp then v else x

/-- The RED kind of an ACCUM (08 R179): 0 int32 add, 1 min, 2 max, 3 FP32 add. -/
def redKindOf (op : AtOp) : Option Nat :=
  match op with
  | .add => some 0
  | .mins => some 1
  | .maxs => some 2
  | .fadd => some 3
  | _ => none

/-- The combination of a RED kind, as the channel adder does it. -/
def redStep (kind : Nat) (x v : W32) : W32 :=
  match kind with
  | 0 => x + v
  | 1 => atStep .mins x v 0
  | 2 => atStep .maxs x v 0
  | _ => (fadd x v).v

/-- The identity of a RED kind (R179). -/
def redIdentity (kind : Nat) : W32 :=
  match kind with
  | 0 => 0
  | 1 => 0x7FFFFFFF
  | 2 => 0x80000000
  | _ => 0

/-! ### Lines in slices -/

/-- The lines of a slice, most recently used first. -/
def sliceAt (s : State) (h : Nat) : List SLine := SMap.getD s.mem.slices h []
/-- The lines of a slice replaced. -/
def setSlice (s : State) (h : Nat) (l : List SLine) : State :=
  { s with mem := { s.mem with slices := SMap.setD s.mem.slices h [] l } }
/-- Whether an entry is the home (or RED) entry of a line. -/
def isHome (line : Nat) (x : SLine) : Bool := x.line == line && (x.kind == .home || x.kind == .red)
/-- Whether an entry is a replica of a line. -/
def isReplica (line : Nat) (x : SLine) : Bool := x.line == line && x.kind == .replica
/-- Whether an entry is a far line. -/
def isFar (line : Nat) (x : SLine) : Bool := x.line == line && x.kind == .far
/-- The first entry of a slice that satisfies a test. -/
def findLine (s : State) (h : Nat) (p : SLine → Bool) : Option SLine := (sliceAt s h).find? p
/-- A slice's entries that satisfy a test removed. -/
def dropLines (s : State) (h : Nat) (p : SLine → Bool) : State := setSlice s h ((sliceAt s h).filter (fun x => !p x))
/-- The entries that satisfy a test changed. -/
def mapLines (s : State) (h : Nat) (p : SLine → Bool) (f : SLine → SLine) : State :=
  setSlice s h ((sliceAt s h).map (fun x => if p x then f x else x))
/-- The entry that satisfies a test made the most recently used. -/
def touchLine (s : State) (h : Nat) (p : SLine → Bool) : State :=
  match findIdxFrom p 0 (sliceAt s h) with
  | some (i, x) => setSlice s h (x :: dropAt (sliceAt s h) i)
  | none => s

/-- A slice configuration register (08 Table 8.9). -/
def slcCfg (s : State) (h : Nat) : Nat := regGetD s (regAddr .slc h 0) 0xF
/-- SLC_WAYRES.PINNED. -/
def slcPinned (s : State) (h : Nat) : Nat := regGet s (regAddr .slc h 0x008) % 16

/-- R178: whether a line's address lies in a valid pin range of its slice. -/
def linePinned (s : State) (h : Nat) (a : Nat) : Bool :=
  slcPinned s h != 0 &&
  (List.range 4).any (fun n =>
    let b := regGet s (regAddr .slc h (0x040 + 16 * n))
    let l := regGet s (regAddr .slc h (0x048 + 16 * n))
    b.testBit 0 && decide (field b 12 36 ≤ a / 4096) && decide (a / 4096 ≤ field l 12 36))

/-- A fresh entry. -/
def SLine.fresh (kind : SKind) (line : Nat) : SLine :=
  { kind := kind, line := line, way := 0, back := none, sharers := 0, pf := none, redKind := 0, part := [], evicting := false,
    data := [], rgn := 0, epoch := 0 }

/-- Whether a stored codeword of a range is uncorrectable (R169). -/
def rangeBad (s : State) (a n : Nat) : Bool :=
  s.mem.badCw.any (fun c => decide (32 * c < a + n) && decide (a < 32 * c + 32))

/-! ### Dirty blocks of the checkpoint (15 R346, R348) -/

/-- Whether an address lies in one of a list of ranges `[base, base + length)`. -/
def inRanges (rs : List (Nat × Nat)) (a : Nat) : Bool :=
  rs.any (fun r => decide (r.1 ≤ a) && decide (a < r.1 + r.2))
/-- A number put into a rising list without repeats. -/
def insertNat : List Nat → Nat → List Nat
  | [], x => [x]
  | y :: ys, x => if x < y then x :: y :: ys else if x = y then y :: ys else y :: insertNat ys x
/-- Whether a write to an address is held because its block is PENDING (R348). -/
def ckptHeld (s : State) (a : Nat) : Bool := s.ckpts.any (fun c => c.2.pend.contains (a / 65536))
/-- The block of an address marked dirty in every context whose checkpointable ranges hold it (R346). -/
def ckptMark (s : State) (a : Nat) : State :=
  if s.ckpts.any (fun c => inRanges c.2.ranges a && !c.2.dirty.contains (a / 65536)) then
    { s with ckpts := s.ckpts.map (fun c =>
        if inRanges c.2.ranges a then (c.1, { c.2 with dirty := insertNat c.2.dirty (a / 65536) }) else c) }
  else s

/-! ### The Weevil filter (R183) -/

/-- The recorded lines of a slice's filter, newest first. -/
def weevilOf (s : State) (h : Nat) : List Nat := SMap.getD s.mem.weevil h []
/-- A slice's filter replaced. -/
def setWeevil (s : State) (h : Nat) (l : List Nat) : State :=
  { s with mem := { s.mem with weevil := SMap.setD s.mem.weevil h [] l } }
/-- A discarded line recorded; the oldest of 4,096 is replaced. -/
def weevilAdd (s : State) (h line : Nat) : State :=
  setWeevil s h (line :: ((weevilOf s h).filter (· != line)).take 4095)
/-- A write, atomic or ACCUM to a line removes its entry. -/
def weevilDrop (s : State) (h line : Nat) : State := setWeevil s h ((weevilOf s h).filter (· != line))
/-- A read by a context: whether the filter reports the line; counted in the slice and in the context's fault log. -/
def weevilRead (s : State) (h line ctx : Nat) : Bool × State :=
  if (weevilOf s h).contains line then
    let s := bump s .slc h 0x0D8 ctx
    let a := regAddr .ctxlog ctx 0x10
    (true, if ctx < 255 then regPut s a ((regGet s a + 1) % 2 ^ 64) else s)
  else (false, s)

/-! ### RED lines, replicas, eviction -/

/-- A request sent to the channel of an eDRAM address: it brings the channel out of self-refresh (18 R405). -/
def chanReq (s : State) (a : Nat) : State :=
  if a < 0x100000000 then
    let h := homeSlice a
    { s with mem := { s.mem with chanLast := SMap.setD s.mem.chanLast h 0 s.now
                                 selfRefresh := s.mem.selfRefresh.filter (fun c => c != h) } }
  else s

/-- A 32-bit element of a line as held in memory. -/
def memW32 (s : State) (a : Nat) : W32 := BitVec.ofNat 32 (memNat s a 4)
/-- A 32-bit element stored. -/
def putW32 (s : State) (a : Nat) (v : W32) : State := memPut s a (natBytes 4 v.toNat)

/-- The channel adder applies a partial to a line in memory (R180). -/
def applyPartial (s : State) (line kind : Nat) (part : List W32) : State :=
  (List.range 32).foldl (fun s i =>
    let a := 128 * line + 4 * i
    putW32 s a (redStep kind (memW32 s a) (nth part i (redIdentity kind)))) s

/-- The codewords of a line that were uncorrectable are replaced (R169, R170). -/
def clearBad (s : State) (line : Nat) : State :=
  { s with mem := { s.mem with badCw := s.mem.badCw.filter (fun c => c / 4 != line) } }

/-- The codewords that a write of `[a, a + n)` covers whole are replaced (R170). -/
def clearSpan (s : State) (a n : Nat) : State :=
  { s with mem := { s.mem with badCw := s.mem.badCw.filter (fun c => !(decide (a ≤ 32 * c) && decide (32 * c + 32 ≤ a + n))) } }

/-- Whether an address is cached in slices (08 Table 8.1). -/
def cacheable (s : State) (a : Nat) : Bool := spaceOf s a == .edram || spaceOf s a == .ddr

/-- A RED line evicted at once: the adder of the line's channel applies the partial and the line leaves the slice (R180). -/
def evictRed (s : State) (line : Nat) : State :=
  let h := homeSlice (128 * line)
  match findLine s h (fun x => x.line == line && x.kind == .red) with
  | none => s
  | some x =>
    let s := if cacheable s (128 * line) then chanReq (applyPartial s line x.redKind x.part) (128 * line) else s
    let s := dropLines s h (fun x => x.line == line && x.kind == .red)
    let s := { s with mem := { s.mem with fills := s.mem.fills.filter (fun f => !(f.2.line == line && f.2.who == .redEvict)) } }
    bump0 s .slc h 0x0B8

/-- The outcome of a prefetched line (R198). -/
def pfCount (s : State) (h : Nat) (x : SLine) (off : Nat) : State :=
  match x.pf with
  | some c => bump s .slc h off c
  | none => s

/-- Every replica of a home line invalidated (R173). -/
def killReplicas (s : State) (line : Nat) : State :=
  let h := homeSlice (128 * line)
  match findLine s h (isHome line) with
  | none => s
  | some x =>
    if x.sharers = 0 then s
    else
      let s := (List.range 4).foldl (fun s d =>
        if x.sharers.testBit d then dropLines s (16 * d + sliceHash (128 * line)) (isReplica line) else s) s
      mapLines s h (isHome line) (fun y => { y with sharers := 0 })

/-- An entry leaves its slice by eviction (R173, R177, R180, R198): a home line's replicas go first, a dirty line is
written back whole, a RED line's partial goes to the adder. -/
def evictLine (s : State) (h : Nat) (x : SLine) : State :=
  let s := pfCount s h x 0x100
  match x.kind with
  | .home =>
    let s := killReplicas s x.line
    let s := if x.back.isSome then
        let t := chanReq (clearBad s x.line) (128 * x.line)
        { t with mem := { t.mem with backed := insertNat t.mem.backed x.line } }
      else s
    dropLines s h (isHome x.line)
  | .red => evictRed s x.line
  | .replica =>
    let s := mapLines s (homeSlice (128 * x.line)) (isHome x.line)
      (fun y => { y with sharers := setField y.sharers (h / 16) 1 0 })
    dropLines s h (isReplica x.line)
  | .far => dropLines s h (isFar x.line)

/-- The ways of a slice's set in which a line may be allocated: the reserved ones for a pinned line, the others else (R178). -/
def waysFor (s : State) (h : Nat) (pinned : Bool) : List Nat :=
  (List.range 16).filter (fun w => decide (w < slcPinned s h) == pinned)

/-- A way for a line: one that no line of its slice or of its set holds; else the way of a line that leaves: among the pinned lines the least recently
used one; among others the one that a free value names, the spec giving no replacement rule for those (R178). -/
def makeRoom (s : State) (h line : Nat) : Nat × State :=
  let pin := linePinned s h (128 * line)
  let ways := waysFor s h pin
  let unused : List SLine → Option Nat := fun l => ways.find? (fun w => l.all (fun x => x.way != w))
  match unused (sliceAt s h) with
  | some w => (w, s)
  | none =>
    let set := (sliceAt s h).filter (fun x => Config.sliceSet x.line == Config.sliceSet line)
    match unused set with
    | some w => (w, s)
    | none =>
      let here := set.filter (fun x => ways.contains x.way)
      let pinned := here.filter (fun x => linePinned s h (128 * x.line))
      match (if pin then pinned.getLast? else none) with
      | some x => (x.way, evictLine s h x)
      | none =>
        let r := drawNat s
        match here[r.1 % here.length]? with
        | some x => (x.way, evictLine r.2 h x)
        | none => (0, r.2)

/-- A line allocated in a slice as its most recently used. -/
def allocLine (s : State) (h : Nat) (x : SLine) : State :=
  let r := makeRoom s h x.line
  let s := setSlice r.2 h ({ x with way := r.1 } :: sliceAt r.2 h)
  if s.mem.backed.contains x.line then { s with mem := { s.mem with backed := s.mem.backed.filter (· != x.line) } } else s

/-! ### Requests at channels (R174) -/

/-- A request sent to the channel or DDR5 controller of a line (R174). -/
def startFill (s : State) (line : Nat) (who : FillFor) : State :=
  chanReq { s with mem := { s.mem with
    fills := SMap.put s.mem.fills s.mem.nextFill { line := line, who := who, waiting := true, bad := false, late := false }
    nextFill := s.mem.nextFill + 1 } } (128 * line)

/-- Whether a fill whose data is still to come is outstanding for a line (R174). -/
def fillPending (s : State) (line : Nat) : Bool :=
  s.mem.fills.any (fun f => f.2.line == line && (match f.2.who with | .redEvict | .read _ => false | _ => true))

/-- The line's entry in its home slice. -/
def homeLine (s : State) (line : Nat) : Option SLine := findLine s (homeSlice (128 * line)) (isHome line)

/-- Whether the line is a RED line whose eviction is in progress (R180). -/
def redLeaving (s : State) (line : Nat) : Bool :=
  match homeLine s line with
  | some x => x.evicting
  | none => false

/-! ### ACCUMs behind a RED eviction (R180) -/

/-- Whether a waiting ACCUM is still there. -/
def redAlive (s : State) (w : RedWaiter) : Bool :=
  match w with
  | .access n id => (SMap.get? (coreOf s n).accs id).isSome
  | .job id => (SMap.get? s.jobs id).isSome

/-- The ACCUMs that wait behind the eviction of a line, in arrival order. -/
def redWaiters (s : State) (line : Nat) : List RedWaiter := (SMap.getD s.mem.redQueue line []).filter (redAlive s)

/-- An ACCUM waits behind the eviction of a line; each is counted once (R180). -/
def redJoin (s : State) (line ctx : Nat) (w : RedWaiter) : State :=
  if (redWaiters s line).contains w then s
  else
    bump { s with mem := { s.mem with redQueue := SMap.put s.mem.redQueue line (redWaiters s line ++ [w]) } }
      .slc (homeSlice (128 * line)) 0x0C0 ctx

/-- Whether it is an ACCUM's turn at a line: none that arrived before it still waits. -/
def redTurn (s : State) (line : Nat) (w : RedWaiter) : Bool :=
  match redWaiters s line with
  | [] => true
  | x :: _ => x == w

/-- An ACCUM has been performed and waits no more. -/
def redLeave (s : State) (line : Nat) (w : RedWaiter) : State :=
  if s.mem.redQueue.isEmpty then s
  else { s with mem := { s.mem with redQueue := SMap.setD s.mem.redQueue line [] ((redWaiters s line).filter (fun x => x != w)) } }

/-! ### Home reads and writes -/

/-- What a demand read does to a prefetched line (R198): TIMELY, and the mark goes. -/
def demandRead (s : State) (h : Nat) (p : SLine → Bool) : State :=
  match findLine s h p with
  | some x => match x.pf with
    | some c => mapLines (bump s .slc h 0x0E8 c) h p (fun y => { y with pf := none })
    | none => s
  | none => s

/-- What a write, atomic, ACCUM or DEAD hint does to a prefetched line (R198): KILLED. -/
def demandKill (s : State) (h : Nat) (p : SLine → Bool) : State :=
  match findLine s h p with
  | some x => match x.pf with
    | some c => mapLines (bump s .slc h 0x0F8 c) h p (fun y => { y with pf := none })
    | none => s
  | none => s

/-- A home line made dirty: the bytes beneath it are kept the first time. -/
def makeDirty (s : State) (line : Nat) : State :=
  let h := homeSlice (128 * line)
  mapLines s h (isHome line) (fun x => if x.back.isSome then x else { x with back := some (memBytes s (128 * line) 128) })

/-- What every write at the home slice does before its bytes change: a RED line is evicted, replicas are invalidated, the
Weevil entry goes, a prefetch is killed, the block is marked dirty (R173, R180, R183, R198, 15 R346). -/
def beforeWrite (s : State) (line : Nat) : State :=
  let h := homeSlice (128 * line)
  let s := evictRed s line
  let s := killReplicas s line
  let s := weevilDrop s h line
  let s := demandKill s h (isHome line)
  ckptMark s (128 * line)

/-- A prefetch whose fill is outstanding has an outcome: the counter at `off` (R198). -/
def prefetchEnds (s : State) (h line off : Nat) : State :=
  let isPf : Fill → Bool := fun f => f.line == line && !f.late && (match f.who with | .prefetch _ => true | _ => false)
  match s.mem.fills.find? (fun f => isPf f.2) with
  | some (i, f) =>
    match f.who with
    | .prefetch c =>
      bump { s with mem := { s.mem with fills := SMap.mod s.mem.fills i (fun f => { f with late := true }) } } .slc h off c
    | _ => s
  | none => s

/-- A demand read that meets an outstanding prefetch fill of its line makes it LATE (R198). -/
def lateCheck (s : State) (h line : Nat) : State := prefetchEnds s h line 0x0F0

/-- A DEAD hint at the home slice (R181, R182): the line and its replicas go, dirty data and partials are dropped. One that finds the line gone,
written back, is counted. -/
def deadHint (s : State) (line ctx : Nat) : State :=
  let h := homeSlice (128 * line)
  match findLine s h (isHome line) with
  | none =>
    let s := prefetchEnds s h line 0x0F8
    if s.mem.backed.contains line then
      bump { s with mem := { s.mem with backed := s.mem.backed.filter (· != line) } } .slc h 0x0D0 ctx
    else s
  | some x =>
    let s := killReplicas s line
    let s := demandKill s h (isHome line)
    let s := match x.back with
      | some bs => memPut s (128 * line) bs
      | none => s
    let s := dropLines s h (isHome line)
    bump (weevilAdd s h line) .slc h 0x0C8 ctx

/-! ### Accesses of engines, line by line (09 R206) -/

/-- The lines that `[a, a + n)` touches. -/
def linesOf (a n : Nat) : List Nat :=
  if n = 0 then [] else (List.range ((a + n - 1) / 128 - a / 128 + 1)).map (fun i => a / 128 + i)

/-! ### Accesses held at a channel (18 R415) -/

/-- Whether a line lies in a segment of a die's eDRAM: 64 segments of 1 MiB in each of 16 channels (18 R415). -/
def inSegment (die seg line : Nat) : Bool :=
  decide (128 * line < 0x100000000) && homeSlice (128 * line) == 16 * die + seg / 64 && (128 * line % 0x40000000) / 2048 / 8192 == seg % 64
/-- Whether a line's accesses are held while its segment is under test (R415). -/
def cicHeld (s : State) (line : Nat) : Bool := s.cic.seg.any (fun (e : Nat × Nat × Nat) => inSegment e.1 e.2.1 line)
/-- Whether an engine's read of a range would wait at a channel: a line that its slice does not hold lies in a segment under test. -/
def readWaits (s : State) (a n : Nat) : Bool :=
  (linesOf a n).any (fun line => cicHeld s line && (findLine s (homeSlice (128 * line)) (isHome line)).isNone)

/-! ### Weight-buffer windows at work (04 R73) -/

/-- Whether an array is at work or waits: a pass runs in it, a native sweep that uses it is to start, or a replay. -/
def arrBusy (c : Core) (a : Nat) : Bool :=
  (c.stage.left != 0 && c.stage.on.contains a)
  || c.stage.todo.any (fun v => v.banks.any (fun b => b / 2 == a)) || (nth c.arrays a Arr.reset).replay.isSome
/-- Whether the fill engine of a ring holds an MWLOAD. -/
def fillBusy (c : Core) (a : Nat) : Bool := !(nth c.rings a Ring.reset).loads.isEmpty
/-- The core whose array or fill engine refuses an access of its weight-buffer window at an address. -/
def winHit (s : State) (a : Nat) : Option Nat :=
  match spaceOf s a with
  | .wbuf q => let c := coreOf s (q / 2); if arrBusy c (q % 2) || fillBusy c (q % 2) then some (q / 2) else none
  | _ => none
/-- A window access refused: MAT_STATUS.WIN_CONFLICT. -/
def winRefuse (s : State) (n : Nat) : State :=
  let a := regAddr .mat n 0x008
  regPut s a (setField (regGet s a) 40 1 1)
/-- Memory as a read of some ranges finds it: a window at work reads 0. -/
def winView (s : State) (rs : List (Nat × Nat)) : State :=
  if rs.any (fun r => (linesOf r.1 r.2).any (fun line => (winHit s (128 * line)).isSome)) then
    { s with mem := { s.mem with cells := s.mem.cells.filter (fun c => (winHit s c.1).isNone) } }
  else s

/-- Bytes as an engine's read of them finds memory. -/
def seenBytes (s : State) (a n : Nat) : List Byte := memBytes (winView s [(a, n)]) a n

/-- An engine reads one line (R175: as NOALLOC): RED lines are evicted first, hits and misses counted, the filter asked; of a miss the channel
checks the codewords (R169, R188). The first component says that the filter reported the line. -/
def engReadLine (s : State) (ctx line : Nat) : Bool × State :=
  if cacheable s (128 * line) then
    let h := homeSlice (128 * line)
    let s := evictRed s line
    let s := lateCheck s h line
    let s := match findLine s h (isHome line) with
      | some _ => demandRead (bump (touchLine s h (isHome line)) .slc h 0x080 ctx) h (isHome line)
      | none => startFill (bump s .slc h 0x088 ctx) line (.read ctx)
    weevilRead s h line ctx
  else
    match winHit s (128 * line) with
    | some n => (false, winRefuse s n)
    | none => (false, s)

/-- An engine reads every line of a range. -/
def engRead (s : State) (ctx a n : Nat) : Bool × State :=
  (linesOf a n).foldl (fun r line => let q := engReadLine r.2 ctx line; (r.1 || q.1, q.2)) (false, s)

/-- The part of a write that lies in one line: its address and its bytes. -/
def linePart (a : Nat) (bs : List Byte) (line : Nat) : Nat × List Byte :=
  let lo := max a (128 * line)
  let hi := min (a + bs.length) (128 * line + 128)
  (lo, (bs.drop (lo - a)).take (hi - lo))

/-- An engine or a channel writes bytes of one line: performed at the home slice, allocating the line unless told not to
(R174, R175), or at the scratchpad or weight buffer itself (R172, R73). -/
def engWriteLine (s : State) (ctx a : Nat) (bs : List Byte) (noalloc : Bool) : State :=
  if cacheable s a then
    let line := a / 128
    let h := homeSlice a
    let s := clearSpan (beforeWrite s line) a bs.length
    match findLine s h (isHome line) with
    | some _ => memPut (makeDirty (bump (touchLine s h (isHome line)) .slc h 0x080 ctx) line) a bs
    | none =>
      if noalloc then chanReq (memPut (bump s .slc h 0x088 ctx) a bs) a
      else
        let s := if bs.length = 128 then s else chanReq (bump s .slc h 0x088 ctx) a
        let s := allocLine s h (SLine.fresh .home line)
        memPut (makeDirty s line) a bs
  else
    match winHit s a with
    | some n => winRefuse s n
    | none => memPut s a bs

/-- An engine writes bytes, line by line. -/
def engWrite (s : State) (ctx a : Nat) (bs : List Byte) (noalloc : Bool) : State :=
  (linesOf a bs.length).foldl (fun s line =>
    let p := linePart a bs line
    engWriteLine s ctx p.1 p.2 noalloc) s

/-- Whether a write to a range waits: for a PENDING block (15 R348), or at a home line for its outstanding fill (R174). -/
def rangeHeld (s : State) (a n : Nat) : Bool :=
  (linesOf a n).any (fun line => ckptHeld s (128 * line) || ((homeLine s line).isNone && fillPending s line))

/-- Firmware and other uncounted writers: coherent, not attributed to a context. -/
def fwWrite (s : State) (a : Nat) (bs : List Byte) : State := engWrite s 255 a bs false
/-- A coherent read by firmware and other engines that needs the value: RED lines evicted first. -/
def settleReds (s : State) (a n : Nat) : State := (linesOf a n).foldl evictRed s
/-- The RED lines of several ranges evicted, as a read of them would find memory (08 R180). -/
def settleSpans (s : State) (rs : List (Nat × Nat)) : State := rs.foldl (fun s r => settleReds s r.1 r.2) s

/-- An ACCUM of one element at the home channel adder (R179, R193): a RED line is evicted first. -/
def accumAt (s : State) (kind a : Nat) (v : W32) : State :=
  if cacheable s a then
    let line := a / 128
    let h := homeSlice a
    let s := beforeWrite s line
    let s := match findLine s h (isHome line) with
      | some _ => makeDirty s line
      | none => chanReq s a
    putW32 s a (redStep kind (memW32 s a) v)
  else
    match winHit s a with
    | some n => winRefuse s n
    | none => putW32 s a (redStep kind (memW32 s a) v)

/-- Whether an ACCUM is eligible for a RED line (R179). -/
def redEligible (s : State) (h kind : Nat) (canonical redOk : Bool) : Bool :=
  let cfg := slcCfg s h
  cfg.testBit 1 && (kind != 3 || (cfg.testBit 2 && !canonical && redOk))

/-- An ACCUM of elements of one line by a core or DMA engine: into a RED line where it is eligible, which the first one allocates in place of the
line that the slice may hold, else at the channel (R179, R180, R36). -/
def accumLine (s : State) (ctx kind : Nat) (canonical redOk : Bool) (line : Nat) (es : List (Nat × W32)) : State :=
  let h := homeSlice (128 * line)
  let isRed : SLine → Bool := fun x => x.line == line && x.kind == .red
  if cacheable s (128 * line) && redEligible s h kind canonical redOk then
    let start : State → State := fun s =>
      let s := ckptMark (weevilDrop s h line) (128 * line)
      let part := es.foldl (fun p e => modAt p (e.1 % 128 / 4) (fun x => redStep kind x e.2))
        (List.replicate 32 (redIdentity kind))
      bump (allocLine s h { SLine.fresh .red line with redKind := kind, part := part }) .slc h 0x0B0 ctx
    match findLine s h (isHome line) with
    | some x =>
      if x.kind == .red then
        if x.redKind = kind then
          let s := ckptMark (weevilDrop s h line) (128 * line)
          mapLines (touchLine s h isRed) h isRed (fun y =>
            { y with part := es.foldl (fun p e => modAt p (e.1 % 128 / 4) (fun x => redStep kind x e.2)) y.part })
        else es.foldl (fun s e => accumAt s kind e.1 e.2) s
      else start (evictLine (demandKill s h (isHome line)) h { x with pf := none })
    | none => start s
  else es.foldl (fun s e => accumAt s kind e.1 e.2) s

end Sys2Proof.Machine
end

