-- ==== Sys2Proof/Machine/Encoding.lean ====
section
/-! DEFINITION. The LPK opcodes: class, operation number and extension word of each (02 Tables 2.3, 2.4 and the opcode
tables of the owning chapters), and the words the finalizer rejects (R28, R453). -/

namespace Sys2Proof.Machine

/-- The LPK opcodes. -/
inductive LOp where
  | add
  | sub
  | mul
  | mulhs
  | mulhu
  | divs
  | divu
  | rems
  | remu
  | and_
  | or_
  | xor_
  | shl
  | shr
  | sar
  | mins
  | maxs
  | minu
  | maxu
  | clz
  | popc
  | setp
  | sel
  | movi
  | movhi
  | srd
  | swr
  | fadd
  | fsub
  | fmul
  | ffma
  | fmin
  | fmax
  | fsetp
  | fcvt
  | fabs
  | fneg
  | bra
  | call
  | ret
  | exit
  | gbar
  | yield
  | trap
  | nop
  | presume
  | ldb
  | ldbu
  | ldh
  | ldhu
  | ldw
  | ldd
  | stb
  | sth
  | stw
  | std
  | pref
  | fence
  | farinv
  | aadd
  | amins
  | amaxs
  | aminu
  | amaxu
  | aand
  | aor
  | axor
  | afadd
  | aexch
  | acas
  | signal
  | wait
  | watch
  | sread
  | sarm
  | wcancel
  | ffarrive
  | ffwait
  | tld
  | tst
  | tgather
  | tmov
  | tadd
  | tmul
  | tfma
  | tmin
  | tmax
  | tcmp
  | tsel
  | tcvt
  | tsfu
  | tred
  | tbcast
  | text
  | mld
  | mst
  | ocload
  | ocstore
  | tfence
  | chrun
  | chbind
  | chunbind
  | msweep
  | mzero
  | mwload
  | mdrain
  | mcheck
  | mwreset
  | dma
  | gather
  | dmafence
  | fsignal
  | fmsg
  | fqfence
  | fstatus
  | qput
  | qget
  | qstat
  deriving DecidableEq, Repr

/-- The opcodes of a class in the order of their OP values, which start at 1 (Table 2.4). -/
def classOps (cls : Nat) : List LOp :=
  match cls with
  | 1 => [.add, .sub, .mul, .mulhs, .mulhu, .divs, .divu, .rems, .remu, .and_, .or_, .xor_, .shl, .shr, .sar,
           .mins, .maxs, .minu, .maxu, .clz, .popc, .setp, .sel, .movi, .movhi, .srd, .swr]
  | 2 => [.fadd, .fsub, .fmul, .ffma, .fmin, .fmax, .fsetp, .fcvt, .fabs, .fneg]
  | 3 => [.bra, .call, .ret, .exit, .gbar, .yield, .trap, .nop, .presume]
  | 4 => [.ldb, .ldbu, .ldh, .ldhu, .ldw, .ldd, .stb, .sth, .stw, .std, .pref, .fence, .farinv]
  | 5 => [.aadd, .amins, .amaxs, .aminu, .amaxu, .aand, .aor, .axor, .afadd, .aexch, .acas]
  | 6 => [.signal, .wait, .watch, .sread, .sarm, .wcancel, .ffarrive, .ffwait]
  | 8 => [.tld, .tst, .tgather, .tmov, .tadd, .tmul, .tfma, .tmin, .tmax, .tcmp, .tsel, .tcvt, .tsfu, .tred,
           .tbcast, .text, .mld, .mst, .ocload, .ocstore, .tfence]
  | 9 => [.chrun, .chbind, .chunbind]
  | 10 => [.msweep, .mzero, .mwload, .mdrain, .mcheck, .mwreset]
  | 11 => [.dma, .gather, .dmafence]
  | 12 => [.fsignal, .fmsg, .fqfence, .fstatus]
  | 13 => [.qput, .qget, .qstat]
  | _ => []

/-- The opcode of a CLASS and OP value (R28). -/
def lopOf (cls op : Nat) : Option LOp := if op = 0 then none else (classOps cls)[op - 1]?

/-- Whether an opcode takes an extension word (R26). -/
def lopExt (o : LOp) : Bool :=
  match o with
  | .wait | .watch | .ffwait | .msweep | .ocload | .ocstore => true
  | _ => false

/-- The CLASS an opcode belongs to. -/
def lopClass (o : LOp) : Nat := ((List.range 14).find? (fun c => (classOps c).contains o)).getD 0

/-- The MOD bits an opcode defines; the others are reserved (R453). -/
def modBits (o : LOp) : Nat :=
  match o with
  | .setp => 0x2F0FFFFF
  | .sel => 0x207FFFFF ||| 0xFFFFF
  | .movi => 0xFFFFF
  | .movhi => 0xFFFF
  | .srd | .swr => 0x3F
  | .fsetp => 0x0E000000
  | .fcvt => 0xF
  | .bra | .call => 0xFFFFFF
  | .trap => 0xFFFF
  | .presume => 0x3
  | .ldb | .ldbu | .ldh | .ldhu | .ldw | .ldd => 0x3FFFF
  | .stb | .sth | .stw | .std => 0x7FFFF
  | .pref => 0x1FFFF
  | .fence => 0x3
  | .farinv => 0xFFFF
  | .signal => 0x2000FFFF
  | .wait | .watch => 0x3
  | .sarm => 0x1
  | .ffarrive | .ffwait => 0x7
  | .tld | .tst | .tgather => 0x3FE00000 ||| 0x12FFFF
  | .tcmp | .tsel | .tsfu | .tred => 0x3FE00007
  | .tcvt => 0x3FE0000F
  | .text => 0x3FE000FF
  | .mld | .mst => 0x3FF00000
  | .ocload | .ocstore => 0x3FE007FF
  | .msweep => 0x7F
  | .mzero | .mcheck => 0x3
  | .mwload | .mwreset => 0x1
  | .mdrain => 0x31F
  | .gather => 0x1
  | .fsignal => 0xFFF
  | .fmsg => 0x7FFFF
  | _ =>
    match lopClass o with
    | 1 => 0x200FFFFF
    | 5 => 0x1FFFF
    | 8 | 9 => 0x3FE00000
    | _ => 0

/-- A field of MOD. -/
def modF (w : Lpk) (lo len : Nat) : Nat := field w.mod.toNat lo len

/-- The 64-bit special registers (07 Table 7.1). -/
def special64 (r : Nat) : Bool := [0x07, 0x08, 0x0C, 0x0D, 0x10, 0x11].contains r

/-- Whether the defined fields of MOD hold defined values (R453). -/
def modValues (o : LOp) (w : Lpk) : Bool :=
  match o with
  | .setp | .fsetp => decide (modF w 25 3 < 6)
  | .fcvt => decide (modF w 0 4 < 6)
  | .presume => modF w 0 2 == 1 || modF w 0 2 == 2
  | .fence | .wait | .watch => decide (modF w 0 2 < 3)
  | .srd | .swr => decide (modF w 0 6 < 0x12)
  | .tcmp => decide (modF w 0 3 < 6)
  | .tcvt => decide (modF w 0 4 < 4)
  | .tsfu => decide (modF w 0 3 < 6)
  | .tred => decide (modF w 1 2 < 3)
  | .msweep => decide (modF w 3 3 < 7)
  | .mdrain => decide (modF w 2 3 < 5)
  | _ => true

/-- Whether a 6-bit register number is even. -/
def evenReg (r : BitVec 6) : Bool := !r.getLsbD 0

/-- Whether the fields that name the lower register of a pair are even (R453). -/
def pairsEven (o : LOp) (w : Lpk) : Bool :=
  match o with
  | .ldd => evenReg w.d && evenReg w.a
  | .std => evenReg w.a && evenReg w.b
  | .fence => true
  | .wait | .sread | .fstatus | .qstat | .mcheck => evenReg w.d
  | .srd => !special64 (modF w 0 6) || evenReg w.d
  | .tld | .tst | .tgather | .mld | .mst => modF w 20 1 == 1 || modF w 21 1 == 0
  | _ => match lopClass o with
    | 4 | 5 => evenReg w.a
    | _ => true

/-- Whether the extension word holds no reserved bit or value (R453). -/
def extValid (o : LOp) (e : Nat) : Bool :=
  match o with
  | .msweep =>
    decide (e < 2 ^ 29) && decide (field e 21 8 ≤ 128) && decide (32 ≤ field e 0 21) && decide (field e 0 21 ≤ 1048576)
      && field e 0 21 % 32 == 0
  | .wait | .ffwait => decide (e ≤ 2 ^ 32)
  | .watch => field e 20 12 == 0
  | .ocload | .ocstore => decide (e < 2 ^ 48)
  | _ => true

/-- Whether the finalizer accepts a word of an opcode with its extension word (R453). -/
def lpkValid (o : LOp) (w : Lpk) : Bool :=
  w.mod &&& ~~~(BitVec.ofNat 30 (modBits o)) == 0 && modValues o w && pairsEven o w
    && (!lopExt o || extValid o w.ext.toNat)

/-- The fields of an instruction word (Table 2.3). -/
def wordFields (v : Nat) (ext : W64) : Lpk :=
  { pn := v.testBit 51, preg := BitVec.ofNat 3 (field v 48 3), d := BitVec.ofNat 6 (field v 42 6),
    a := BitVec.ofNat 6 (field v 36 6), b := BitVec.ofNat 6 (field v 30 6), mod := BitVec.ofNat 30 (field v 0 30),
    ext := ext }

/-- The opcode of an instruction word. -/
def wordOp (v : Nat) : Option LOp := lopOf (field v 58 6) (field v 52 6)

/-- The tile registers a tile instruction always names (06 R110). -/
def tileFields (o : LOp) (w : Lpk) : List Nat :=
  let d := w.d.toNat
  let a := w.a.toNat
  let b := w.b.toNat
  match o with
  | .tld | .tbcast => [d]
  | .tst | .text => [a]
  | .tgather | .tmov | .tcvt | .tsfu | .tred => [d, a]
  | .tadd | .tmul | .tfma | .tmin | .tmax | .tsel => [d, a, b]
  | .tcmp => [a, b]
  | _ => []

/-- The general registers an instruction reads or writes. -/
def lpkRegs (o : LOp) (w : Lpk) : List Nat :=
  let d := w.d.toNat
  let a := w.a.toNat
  let b := w.b.toNat
  let imm := modF w 29 1 == 1
  let g := modF w 21 6
  match o with
  | .movi => [d]
  | .movhi => [d]
  | .srd => if special64 (modF w 0 6) then [d, d + 1] else [d]
  | .swr => [a]
  | .setp => if imm then [a] else [a, b]
  | .ffma => [d, a, b]
  | .fsetp => [a, b]
  | .fcvt | .fabs | .fneg | .clz | .popc => [d, a]
  | .call => [d]
  | .ret | .gbar => [a]
  | .presume => [d, a]
  | .ldd => [a, a + 1, d, d + 1]
  | .ldb | .ldbu | .ldh | .ldhu | .ldw => [a, a + 1, d]
  | .stb | .sth | .stw => [a, a + 1, b]
  | .std => [a, a + 1, b, b + 1]
  | .pref => [a, a + 1]
  | .farinv => [a, a + 1, b]
  | .acas => [a, a + 1, b, d]
  | .signal => if imm then [a] else [a, b]
  | .wait => [a, b, d, d + 1]
  | .watch => [a, b, d]
  | .sread => [a, d, d + 1]
  | .sarm => [a, b]
  | .wcancel => [a, b, d]
  | .ffwait => [d]
  | .tld | .tst | .tgather | .mld | .mst => if modF w 20 1 = 0 then [g, g + 1] else [g]
  | .tbcast | .text | .ocload | .ocstore | .chrun | .chbind => [g]
  | .msweep | .mwload | .mdrain => [d, a, b]
  | .mcheck => [d, d + 1]
  | .dma | .gather => [a]
  | .fsignal | .fmsg => [a, b]
  | .fstatus => [a, d, d + 1]
  | .qput | .qget => [a, b, d]
  | .qstat => [a, d, d + 1]
  | _ =>
    match lopClass o with
    | 1 => if imm then [d, a] else [d, a, b]
    | 2 => [d, a, b]
    | 5 => if modF w 16 1 = 1 then [a, a + 1, b] else [a, a + 1, b, d]
    | _ => []

/-- Whether an instruction reads its general registers from the lowest active thread only (04 R75). -/
def lpkOnce (o : LOp) : Bool := decide (6 ≤ lopClass o)

/-- The registers of the scalar instructions of one issue. `one` says that only the lowest active thread's registers are
read (04 R75). -/
structure Need where
  one : Bool
  regs : List Nat

/-- What an issue of an opcode needs of the registers. -/
def lpkNeed (o : LOp) (w : Lpk) : Need := { one := lpkOnce o, regs := lpkRegs o w }

/-- The length of an opcode's instruction in code words. -/
def lpkLen (o : LOp) : Nat := if lopExt o then 2 else 1

/-- The opcode and fields of a code word with its extension word. -/
def codeAt (code : List Nat) (pc : Nat) : Option (LOp × Lpk) :=
  match code[pc]? with
  | none => none
  | some v => (wordOp v).map (fun o => (o, wordFields v (BitVec.ofNat 64 (nth code (pc + 1) 0))))

end Sys2Proof.Machine
end

