-- ==== Sys2Proof/Machine/Groups.lean ====
section
/-! DEFINITION. The issue of an instruction by a thread group: readiness, the subset that issues, splits, reconvergence,
subset switches, faults at issue, deferred faults and the end of a group (07 R138-R146, R150, R158). -/

namespace Sys2Proof.Machine

/-! ### Threads of a group -/

/-- Thread `t` of a group. -/
def thr (g : Group) (t : Nat) : Thread := nth g.threads t Thread.gone
/-- Thread `t` of a group changed. -/
def modThr (g : Group) (t : Nat) (f : Thread → Thread) : Group := { g with threads := modAt g.threads t f }
/-- Every thread of a mask changed. -/
def modThrs (g : Group) (m : BitVec 32) (f : Nat → Thread → Thread) : Group :=
  (tids m).foldl (fun g t => modThr g t (f t)) g
/-- General register `r` of thread `t`. -/
def gReg (g : Group) (t r : Nat) : W32 := nth (thr g t).regs r 0
/-- The register pair `r`, `r + 1` of thread `t`. -/
def gPair (g : Group) (t r : Nat) : Nat := (gReg g t r).toNat + (gReg g t (r + 1)).toNat * 2 ^ 32
/-- A thread with a general register written. -/
def Thread.setReg (x : Thread) (r : Nat) (v : W32) : Thread := { x with regs := setAt x.regs r v }
/-- A thread with predicate `p` written; a write of p0 is discarded (02 R27). -/
def Thread.setPred (x : Thread) (p : Nat) (v : Bool) : Thread :=
  if p = 0 then x
  else { x with preds := (x.preds &&& ~~~(1#8 <<< p)) ||| (if v then 1#8 <<< p else 0) }
/-- A general register of a thread written. -/
def setGReg (g : Group) (t r : Nat) (v : W32) : Group := modThr g t (fun x => x.setReg r v)
/-- A register pair of a thread written with a 64-bit number. -/
def setGPair (g : Group) (t r v : Nat) : Group :=
  modThr g t (fun x => (x.setReg r (BitVec.ofNat 32 v)).setReg (r + 1) (BitVec.ofNat 32 (v >>> 32)))
/-- Whether predicate `p` of thread `t` is 1. -/
def gPred (g : Group) (t p : Nat) : Bool := p = 0 || (thr g t).preds.getLsbD p

/-- The live threads (sLIVE). -/
def liveMask (g : Group) : BitVec 32 := maskWhere (fun t => (thr g t).live)
/-- The threads held at a reconvergence point (R145). -/
def heldMask (g : Group) : BitVec 32 := g.splits.foldl (fun m x => m ||| x.arrived) 0
/-- The threads of selectable subsets (R144, R145, R153, 09 R208). -/
def selMask (g : Group) : BitVec 32 :=
  let h := heldMask g
  maskWhere (fun t => (thr g t).live && (thr g t).stat == .run && !h.getLsbD t)
/-- The threads of `m` that share thread `t`'s PC. -/
def samePc (g : Group) (m : BitVec 32) (t : Nat) : BitVec 32 :=
  maskWhere (fun k => m.getLsbD k && (thr g k).pc == (thr g t).pc)
/-- The lowest threads of the subsets of `m`, rising. -/
def subLows (g : Group) (m : BitVec 32) : List Nat := (tids m).filter (fun t => lowTid (samePc g m t) == some t)
/-- A list rotated so that it starts with its first element that satisfies a test, if there is one. -/
def rotateTo {α : Type} (p : α → Bool) (l : List α) : List α := l.dropWhile (fun x => !p x) ++ l.takeWhile (fun x => !p x)

/-- The selectable subsets in the order in which they may become current: the current one first, then the next after it in
ascending order of the lowest sTID, with wrap-around (R144). -/
def subsetOrder (g : Group) : List (BitVec 32) :=
  let m := selMask g
  let subs := (subLows g m).map (samePc g m)
  if m.getLsbD g.cur then rotateTo (fun x => x.getLsbD g.cur) subs
  else rotateTo (fun x => match lowTid x with | some l => decide (g.cur < l) | none => false) subs

/-- The threads of `m` for which the instruction's predicate is true (02 R27). -/
def predMask (g : Group) (w : Lpk) (m : BitVec 32) : BitVec 32 :=
  maskWhere (fun t => m.getLsbD t && (gPred g t w.preg.toNat != w.pn))
/-- The lowest thread of a mask, as a mask. -/
def lowOnly (m : BitVec 32) : BitVec 32 := match lowTid m with | some t => maskOf [t] | none => 0

/-! ### Readiness -/

/-- The registers an access writes. -/
def accWrites (a : Access) : List Nat :=
  match a.op with
  | .ld b _ => if b = 8 then [a.d, a.d + 1] else [a.d]
  | .at _ noret => if noret then [] else [a.d]
  | _ => []

/-- Whether register `r` of a thread of `m` of the group waits for data (07 Issue, 04 R75, 12 R294). -/
def regBusy (c : Core) (age : Nat) (m : BitVec 32) (r : Nat) : Bool :=
  c.accs.any (fun e => e.2.age == age && (accWrites e.2).contains r && e.2.lanes.any (fun l => m.getLsbD l.tid))
  || c.matq.any (fun e => e.age == age && (match e.op with
      | .check _ _ d k => (r == d || r == d + 1) && (k &&& m) != 0
      | _ => false))
  || c.fabq.any (fun e => e.op == .status && e.age == age && (r == e.d || r == e.d + 1) && (e.mask &&& m) != 0)

/-- Whether a hold of the group is due to end at its limit of 1,024 issues (R145): RECONV_RELEASE comes first. -/
def releaseDue (g : Group) : Bool :=
  g.splits.any (fun x => decide (1024 ≤ x.issued) && (x.arrived &&& liveMask g) != 0)

/-- Whether core `n` executes instructions (18 R401). -/
def coreRuns (s : State) (n : Nat) : Bool := (clusterAt s (clusterOf n)).st == .run && (clusterAt s (clusterOf n)).wake.isNone

/-- Whether the group in a slot may issue at all: it is neither parked nor waiting as a whole. -/
def groupIdle (g : Group) : Bool := g.park.isNone && g.wait == .none && !releaseDue g

/-- An instruction being issued: core, slot, the subset, its active threads, the PC, the length in code words, the order
number, and the group as it issues. -/
structure Iss where
  n : Nat
  i : Nat
  sub : BitVec 32
  act : BitVec 32
  pc : Nat
  len : Nat
  ord : Nat
  g : Group

/-- Whether a subset may issue the instruction: its registers are available, and the queue it goes to has room. -/
def subReady (c : Core) (g : Group) (w : Lpk) (nd : Need) (room : Core → Bool) (m : BitVec 32) : Bool :=
  let a := predMask g w m
  let a' := if nd.one then lowOnly a else a
  nd.regs.all (fun r => !regBusy c g.age a' r) && (a == 0 || room c)

/-- Every queue has room. -/
def anyRoom : Core → Bool := fun _ => true

/-- The number of ck without an issue after which R142 prefers a group. -/
def starveLimit (s : State) (n : Nat) : Nat := 16 * max 1 (regGetD s (regAddr .thr n 0) 0x110 % 256)

/-- Two words of an opcode that are one instruction: an opcode without an extension word has none (02 Table 2.3). -/
def sameWord (o : LOp) (v w : Lpk) : Bool := if lopExt o then v == w else { v with ext := 0 } == { w with ext := 0 }

/-- The instruction at the PC of a subset in its kernel's code (02 R28); none where the kernel is not in the cache. -/
def codeOf (s : State) (g : Group) (m : BitVec 32) : Option (LOp × Lpk) :=
  match SMap.get? s.kernels g.kernel, lowTid m with
  | some k, some t => codeAt k.code (thr g t).pc
  | _, _ => none

/-- Whether the queue that an opcode goes to has room: matrix (04 R76), vector (06 R115), DMA (08 R190) and fabric (12 R294). The system
class waits for its answer as its own rules say. -/
def opRoom (o : LOp) (c : Core) : Bool :=
  match lopClass o with
  | 8 | 9 => o == .tfence || o == .chbind || o == .chunbind || decide (c.vecq.length < 32)
  | 10 => decide (c.matq.length < 32)
  | 11 => o == .dmafence || decide (c.dmaq.length < 32)
  | 12 => decide (c.fabq.length < 32)
  | 13 => false
  | _ => true

/-- Whether a pending barrier of a group is due to complete: every thread of the mask has arrived or is no longer live (R153). -/
def barrierDone (g : Group) : Bool :=
  match g.barrier with
  | some b => (b.mask &&& liveMask g &&& ~~~b.arrived) == 0
  | none => false

/-- Whether a subset of a group can issue the instruction that its kernel's code gives it. -/
def subGoes (s : State) (n : Nat) (g : Group) (m : BitVec 32) : Bool :=
  match codeOf s g m with
  | some e => subReady (coreOf s n) g e.2 (lpkNeed e.1 e.2) (opRoom e.1) m
  | none => false

/-- Whether a group is ready (07 Issue), where its kernel's code says so. -/
def groupReady (s : State) (n : Nat) (g : Group) : Bool :=
  groupIdle g && !barrierDone g && (subsetOrder g).any (subGoes s n g)

/-- The class in which R142 looks for a group: it has waited for its limit; it has not yielded within the last 16 ck; else. -/
def issueClass (s : State) (n : Nat) (g : Group) : Nat :=
  if g.lastIssue + starveLimit s n ≤ ckOf s n then 0
  else match g.lastYield with
    | some t => if ckOf s n < t + 16 then 2 else 1
    | none => 1

/-- Whether group `h` comes before group `g` in R142. -/
def issuesBefore (s : State) (n : Nat) (h g : Group) : Bool :=
  let a := issueClass s n h
  let b := issueClass s n g
  decide (a < b) || (a == b && decide (h.age < g.age))

/-- Whether the scalar pipe of core `n` chooses group `g` of slot `i`: no ready group comes before it (R142). -/
def chosen (s : State) (n i : Nat) (g : Group) : Bool :=
  (coreOf s n).slots.zipIdx.all (fun e => e.2 == i || (match e.1 with
    | some h => !(issuesBefore s n h g && groupReady s n h)
    | none => true))

/-- Whether a subset is ready for what it issues: the instruction of its kernel's code, or the commanded one where the kernel is not in the
cache (log entry 7). -/
def subIssues (s : State) (n : Nat) (g : Group) (o : LOp) (w : Lpk) (room : Core → Bool) (m : BitVec 32) : Bool :=
  match codeOf s g m with
  | some e => if e.1 == o && sameWord o e.2 w then subReady (coreOf s n) g w (lpkNeed o w) room m else subGoes s n g m
  | none => subReady (coreOf s n) g w (lpkNeed o w) room m

/-- Whether the commanded instruction is the one at a subset's PC. -/
def isCode (s : State) (g : Group) (o : LOp) (w : Lpk) (m : BitVec 32) : Bool :=
  match codeOf s g m with
  | some e => e.1 == o && sameWord o e.2 w
  | none => true

/-- The start of an issue (R142-R145): the group that the pipe chooses, its ready subset that comes first, made current. -/
def issueBegin (s : State) (u : Issue) (o : LOp) (w : Lpk) (room : Core → Bool) : Option (Iss × State) :=
  let n := u.core.val
  let i := u.slot.val
  let c := coreOf s n
  match nth c.slots i none with
  | none => none
  | some g =>
    if coreRuns s n && groupIdle g && chosen s n i g then
      match ((subsetOrder g).find? (subIssues s n g o w room)).filter (isCode s g o w) with
      | none => none
      | some m =>
        match lowTid m with
        | none => none
        | some low =>
          let switched := !m.getLsbD g.cur
          let ck := ckOf s n
          let starved := decide (g.lastIssue + starveLimit s n ≤ ck)
          let g := { g with
            cur := low, curIssues := (if switched then 0 else g.curIssues), ord := g.ord + 1, lastIssue := ck }
          let s := if switched then bump0 s .thr n 0x038 else s
          let s := if starved then bump0 s .thr n 0x040 else s
          let x : Iss := { n := n, i := i, sub := m, act := predMask g w m, pc := (thr g low).pc, len := lpkLen o,
                           ord := g.ord, g := g }
          some (x, setGroup s n i (some g))
    else none

/-! ### Parks -/

/-- A park asked of a group; the first fault wins, and further faulting threads of the same precise fault are added
(R158, R162). -/
def askPark (p : ParkReq) (g : Group) : Group :=
  match g.park with
  | none => { g with park := some p }
  | some q =>
    if q.precise && p.precise && q.pc == p.pc && q.cause == p.cause then
      { g with park := some { q with mask := q.mask ||| p.mask } }
    else g

/-- A precise fault found at issue before any effect (R158): the PCs stay. -/
def issueFault (x : Iss) (cause info addr : Nat) (mask : BitVec 32) (contained : Bool) (s : State) : State :=
  modGroup s x.n x.i (askPark
    { cause := cause, precise := true, contained := contained, pc := x.pc, info := info, addr := addr, mask := mask,
      subset := x.sub, removed := 0 })

/-- A fault of the group with an age, in its slot or in the record that holds it (R158, R162). -/
def faultByAge (s : State) (n age : Nat) (p : ParkReq) : State :=
  let c := coreOf s n
  match slotOfAge c age with
  | some i => modGroup s n i (askPark p)
  | none =>
    match recOfAge c age with
    | some r => modCore s n (fun c => { c with recs := modAt c.recs r (fun x => { x with grp := x.grp.map (askPark p) }) })
    | none => s

/-- A deferred fault of the group with an age (R158). -/
def deferFault (s : State) (n age cause pc info addr : Nat) (mask : BitVec 32) (removed : Nat) (contained : Bool) : State :=
  faultByAge s n age
    { cause := cause, precise := false, contained := contained, pc := pc, info := info, addr := addr, mask := mask,
      subset := 0, removed := removed }

/-- The group with an age, wherever it is. -/
def groupByAge (s : State) (n age : Nat) : Option Group :=
  let c := coreOf s n
  match slotOfAge c age with
  | some i => nth c.slots i none
  | none => match recOfAge c age with
    | some r => (nth c.recs r Rec.reset).grp
    | none => c.ended.find? (fun g => g.age == age)

/-- The group with an age changed, wherever it is. -/
def modByAge (s : State) (n age : Nat) (f : Group → Group) : State :=
  let c := coreOf s n
  match slotOfAge c age with
  | some i => modGroup s n i f
  | none => match recOfAge c age with
    | some r => modCore s n (fun c => { c with recs := modAt c.recs r (fun x => { x with grp := x.grp.map f }) })
    | none => modCore s n (fun c => { c with ended := c.ended.map (fun g => if g.age == age then f g else g) })

/-! ### Subset switches and reconvergence -/

/-- The subset chosen at a switch event whose triggering subset holds thread `trig` (R144), and whether it is another than
the current one. -/
def switchFrom (g : Group) (trig : Nat) : Group × Bool :=
  let m := selMask g
  let lows := subLows g m
  let others := lows.filter (fun l => !(samePc g m l).getLsbD trig)
  let pool := if others.isEmpty then lows else others
  match (pool.find? (fun l => decide (trig < l))).orElse (fun _ => pool.head?) with
  | some l => ({ g with cur := l, curIssues := 0 }, !(samePc g m l).getLsbD g.cur)
  | none => ({ g with curIssues := 0 }, false)

/-- A subset switch in a slot, counted in THR_SWITCHES when the current subset changes. -/
def doSwitch (s : State) (n i trig : Nat) : State :=
  match groupOf s n i with
  | none => s
  | some g =>
    let r := switchFrom g trig
    let s := setGroup s n i (some r.1)
    if r.2 then bump0 s .thr n 0x038 else s

/-- Held threads `m` leave a split and continue alone (R145). -/
def Split.release (m : BitVec 32) (x : Split) : Split :=
  { x with members := x.members &&& ~~~m, arrived := x.arrived &&& ~~~m, issued := if (x.arrived &&& ~~~m) == 0 then 0 else x.issued }

/-- The holds of some splits ended early (R145), and how many there were: the threads that stand on one reconvergence point are one subset, and
one hold, whichever splits it belongs to. -/
def endHolds (g : Group) (ends : Split → Bool) : Group × Nat :=
  let gone := g.splits.filter ends
  let held : Nat → BitVec 32 := fun pc => gone.foldl (fun m x => if x.rpc == pc then m ||| x.arrived else m) 0
  ({ g with splits := g.splits.map (fun x => x.release (held x.rpc)) }, (gone.map (·.rpc)).eraseDups.length)

/-- A split after an issue by the threads `sub` (R145): the issue counted while threads are held, new arrivals, and
whether there are such arrivals; none when no live thread of the split is elsewhere. -/
def splitAfter (g : Group) (sub : BitVec 32) (x : Split) : Option Split × Bool :=
  let live := liveMask g
  let held := x.arrived &&& live
  let others := sub &&& x.members &&& ~~~x.arrived
  let y := if held != 0 && others != 0 then { x with issued := x.issued + 1 } else x
  let here := maskWhere (fun t => y.members.getLsbD t && live.getLsbD t && (thr g t).pc == y.rpc)
  let z := { y with arrived := y.arrived ||| here }
  if (z.members &&& live &&& ~~~z.arrived) == 0 then (none, false)
  else (some z, (here &&& sub &&& ~~~x.arrived) != 0)

/-- Every split of a group after an issue. -/
def splitsAfter (g : Group) (sub : BitVec 32) : Group × Bool :=
  let rs := g.splits.map (splitAfter g sub)
  ({ g with splits := rs.filterMap (·.1) }, rs.any (·.2))

/-- A failed lock attempt of threads of a group (R144, R145): it ends the holds of the splits in which those threads are
elsewhere, and it is a switch event. -/
def lockFailed (s : State) (n age : Nat) (m : BitVec 32) : State :=
  if m = 0 then s
  else
    match slotOfAge (coreOf s n) age with
    | none => s
    | some i =>
      match groupOf s n i with
      | none => s
      | some g =>
        let ends : Split → Bool := fun x =>
          (x.arrived &&& liveMask g) != 0 && (m &&& x.members &&& ~~~x.arrived) != 0
        let r := endHolds g ends
        let g := r.1
        let s := bumpC (setGroup s n i (some g)) .thr n 0x048 r.2 none
        match lowTid (samePc g (liveMask g) ((lowTid m).getD 0)) with
        | some t => doSwitch s n i t
        | none => s

/-- How an instruction leaves its threads: those that exit, those that jump with their targets, whether it yields or
arrives at GBAR. -/
structure Flow where
  exited : BitVec 32
  jumps : List (Nat × Nat)
  switches : Bool

/-- An instruction that falls through. -/
def Flow.next : Flow := { exited := 0, jumps := [], switches := false }

/-- The code word index a thread of the subset continues at. -/
def Flow.pcOf (f : Flow) (x : Iss) (t : Nat) : Nat := ((f.jumps.find? (fun j => j.1 == t)).map (·.2)).getD (x.pc + x.len)

/-- The reconvergence point the finalizer recorded for a branch (R144). -/
def reconvPoint (s : State) (kernel pc : Nat) : Option Nat :=
  match SMap.get? s.kernels kernel with
  | some k => SMap.get? k.rpc pc
  | none => none

/-- A thread after an issue: one of the subset ends or goes on at its next instruction. -/
def endThread (x : Iss) (f : Flow) (k : Nat) (h : Thread) : Thread :=
  if f.exited.getLsbD k then { h with live := false } else { h with pc := f.pcOf x k }

/-- A split where the live threads of the subset go on at different instructions (R144). -/
def endSplit (s : State) (x : Iss) (g : Group) : Group :=
  let rest := x.sub &&& liveMask g
  let parted := (tids rest).any (fun t => (thr g t).pc != (thr g ((lowTid rest).getD 0)).pc)
  match (if parted then reconvPoint s g.kernel x.pc else none) with
  | some r => { g with splits := g.splits ++ [{ rpc := r, members := rest, arrived := 0, issued := 0 }] }
  | none => g

/-- The group after an issue, and whether threads of the subset have arrived at a reconvergence point. Where threads of the subset exit, those
that stay are the current subset (R144). -/
def endGroup (s : State) (x : Iss) (f : Flow) (g0 : Group) : Group × Bool :=
  let r := splitsAfter (endSplit s x (modThrs g0 x.sub (endThread x f))) x.sub
  let cur := if x.sub.getLsbD r.1.cur && f.exited.getLsbD r.1.cur then (lowTid (x.sub &&& liveMask r.1)).getD r.1.cur else r.1.cur
  ({ r.1 with cur := cur, curIssues := if x.sub.getLsbD r.1.cur then r.1.curIssues + 1 else r.1.curIssues }, r.2)

/-- The thread whose subset triggers a switch event at the end of an issue (R144). -/
def endTrigger (x : Iss) (f : Flow) (g : Group) (arrived : Bool) : Option Nat :=
  (lowTid (maskOf ((f.jumps.filter (fun j => decide (j.2 < x.pc))).map (·.1)))).orElse (fun _ =>
    if f.switches || arrived || (x.sub.getLsbD g.cur && decide (64 ≤ g.curIssues)) then lowTid x.sub else none)

/-- The end of an issue: PCs, exits, a split, reconvergence, the switch events of R144, THR_ISSUED. -/
def issueEnd (x : Iss) (f : Flow) (s : State) : State :=
  match groupOf s x.n x.i with
  | none => s
  | some g0 =>
    let r := endGroup s x f g0
    let s := setGroup (bump s .thr x.n 0x028 g0.ctx) x.n x.i (some r.1)
    match endTrigger x f r.1 r.2 with
    | some t => doSwitch s x.n x.i t
    | none => s

/-! ### The end of a group (R139, R140, 06 R113) -/

/-- Whether an acknowledgement is outstanding that the end of the group with an age needs: of a store, or of an atomic with NORET (08 R185). -/
def acksDue (s : State) (n age : Nat) : Bool :=
  (coreOf s n).accs.any (fun e => e.2.age == age && (match e.2.op with | .st _ => true | .at _ noret => noret | _ => false))

/-- Whether work of the group with an age is outstanding on its core: accesses, queued instructions, drains, messages to
the synchronisation unit. -/
def groupBusy (s : State) (n age : Nat) : Bool :=
  let c := coreOf s n
  c.accs.any (fun e => e.2.age == age) || c.matq.any (fun e => e.age == age) || c.vecq.any (fun e => e.age == age)
  || c.dmaq.any (fun e => e.age == age) || c.fabq.any (fun e => e.age == age)
  || c.banks.any (fun b => match b.drain with | some d => d.age == age | none => false)
  || c.stage.todo.any (fun v => v.age == age)
  || s.sync.msgs.any (fun m => m.frm == some (n, age))
  || s.jobs.any (fun j => match j.2.origin with | .group k _ a _ => k == n && a == age | .queue _ _ => false)

/-- The groups of a launch on a core, in slots and records. -/
def launchGroups (c : Core) (launch : Nat) : Nat :=
  (c.slots.filter (fun g => match g with | some (x : Group) => x.launch == launch | none => false)).length
  + (c.recs.filter (fun r => match r.grp with | some x => x.launch == launch | none => false)).length

/-- A launch's scratchpad area and operand-cache window on a core released (R113, R140). -/
def freeAreas (s : State) (n launch : Nat) : State :=
  modCore s n (fun c => { c with
    spadAreas := c.spadAreas.filter (fun a => a.launch != launch), ocAreas := c.ocAreas.filter (fun a => a.launch != launch) })

/-- A group of a launch has ended on a core: the launch counts it, and with the last group the areas are released. -/
def groupEnded (s : State) (n : Nat) (g : Group) : State :=
  let s := { s with que := { s.que with launches := SMap.mod s.que.launches g.launch (fun l =>
    { l with ended := SMap.put l.ended n (SMap.getD l.ended n 0 + 1) }) } }
  let more := match SMap.get? s.que.launches g.launch with
    | some l => !l.cut && decide (SMap.getD l.placed n 0 < l.groups)
    | none => false
  if launchGroups (coreOf s n) g.launch = 0 && !more then freeAreas s n g.launch else s

/-- A group that no slot and no record holds any more ends; its queue entries go on with what they need of it (R139). -/
def endNow (s : State) (n : Nat) (g : Group) : State :=
  let s := if groupBusy s n g.age then modCore s n (fun c => { c with ended := g :: c.ended }) else s
  groupEnded s n g

/-- The group in a slot ends once no thread is live and its stores are acknowledged (R139, 08 R185). -/
def settle (n i : Nat) (s : State) : State :=
  match groupOf s n i with
  | none => s
  | some g => if liveMask g = 0 && g.park.isNone && !acksDue s n g.age then endNow (setGroup s n i none) n g else s

/-- The group with an age settled, where it is in a slot; of an ended group nothing stays once its last entry is over. -/
def settleAge (n age : Nat) (s : State) : State :=
  match slotOfAge (coreOf s n) age with
  | some i => settle n i s
  | none =>
    if (coreOf s n).ended.isEmpty || groupBusy s n age then s
    else modCore s n (fun c => { c with ended := c.ended.filter (fun g => g.age != age) })

/-! ### The issue of an instruction -/

/-- The outcome of a command that changes the state. -/
abbrev Out := Host.Outcome State Fault Refusal

/-- An issue: an encoding that the finalizer rejects has no microcode (02 R28, R453); where the pipe does not choose the group, no subset of
it is ready or its code holds another instruction, nothing happens (log entries 6 and 7). -/
def issue (o : LOp) (u : Issue) (w : Lpk) (room : Core → Bool) (body : Iss → State → State) (s : State) : Out :=
  if lpkValid o w then
    match issueBegin s u o w room with
    | none => .next s
    | some (x, s1) => .next (settle x.n x.i (body x s1))
  else .fault .noMicrocode

/-- R150: the residue check of the scalar pipe. A recomputation that passes is logged CORRECTED; a second failure parks
the group with THR_RESIDUE, logs CONTAINED, and writes nothing. -/
def pipeCheck (chk : PipeCheck) (body : Iss → State → State) (x : Iss) (s : State) : State :=
  match chk with
  | .clean => body x s
  | .recomputed m =>
    if m &&& x.act = 0 then body x s else body x (unitErr s 0 (dieOf x.n) 3 (x.n % 12) 1 x.g.ctx 0 0 false)
  | .failed m =>
    if m &&& x.act = 0 then body x s
    else issueFault x 0x0D 0 0 (m &&& x.act) true (unitErr s 1 (dieOf x.n) 3 (x.n % 12) 1 x.g.ctx 0x0D 0 false)

/-- The issue of a scalar instruction: the finalizer's checks, readiness, the residue check, then its effect. -/
def scalarOp (o : LOp) (u : Issue) (w : Lpk) (body : Iss → State → State) (s : State) : Out :=
  issue o u w anyRoom (pipeCheck u.chk body) s

/-- The issue of an instruction without a residue check of its own. -/
def plainOp (o : LOp) (u : Issue) (w : Lpk) (room : Core → Bool) (body : Iss → State → State) (s : State) : Out :=
  issue o u w room body s

/-- An instruction that changes the active threads of its group and falls through. -/
def perThread (f : Group → Nat → Thread → Thread) (x : Iss) (s : State) : State :=
  issueEnd x Flow.next (modGroup s x.n x.i (fun g => modThrs g x.act (f x.g)))

end Sys2Proof.Machine
end

