-- ==== Sys2Proof/Machine/Access.lean ====
section
/-! DEFINITION. How thread loads, stores and atomics reach memory: targets and their faults (07 R148, R151, R157; 08 R165-R167,
R73), line requests and request slots (R184), performance at the scratchpad and at the home slice (09 R202-R206), fences
(R208) and the entry of remote transactions (R176, R177, R213). -/

namespace Sys2Proof.Machine

/-! ### Refused accesses (08 R199) -/

/-- A register-space access refused to a context: the count of loads or stores, each holding at all ones, and the last
refusal. `core` is 0xFF for an engine. -/
def ctxRefuse (s : State) (ctx addr core : Nat) (store : Bool) : State :=
  if ctx = 255 then s
  else
    let a := regAddr .ctxlog ctx 0x00
    let v := regGet s a
    let lo := v % 2 ^ 32
    let hi := v / 2 ^ 32
    let v' := if store then min (hi + 1) 0xFFFFFFFF * 2 ^ 32 + lo else hi * 2 ^ 32 + min (lo + 1) 0xFFFFFFFF
    regPut (regPut s a v') (regAddr .ctxlog ctx 0x08)
      (addr % 2 ^ 48 + (core % 256) * 2 ^ 48 + b2n store * 2 ^ 56)

/-! ### Targets -/

/-- The 64-bit address of a load/store or atomic instruction (R148). -/
def ldstAddr (g : Group) (t : Nat) (w : Lpk) : Nat :=
  unsigned 64 ((gPair g t w.a.toNat : Nat) + signed 16 (modF w 0 16))

/-- What one thread's access meets. -/
inductive Target where
  | fault (cause : Nat)
  | loc (p : Place)
  /-- A park record of another context (R157). -/
  | deny
  | remote (peer : BitVec 12) (region : Nat)
  deriving DecidableEq, Repr

/-- The offset of the park records in a scratchpad window (R156). -/
def recOff : Nat := 0x3FC000

/-- The launch whose scratchpad area on a core holds `[a, a + n)` (R140). -/
def areaLaunch (s : State) (core a n : Nat) : Option Nat :=
  ((coreOf s core).spadAreas.find? (fun x =>
    decide (spadBase core + x.base ≤ a) && decide (a + n ≤ spadBase core + x.base + x.size))).map (·.launch)

/-- Whether a context owns the park record at a scratchpad address (R157). -/
def ownsRecord (s : State) (ctx a : Nat) : Bool :=
  let n := (a - 0x100000000) / 0x400000
  let r := nth (coreOf s n).recs (((a - 0x100000000) % 0x400000 - recOff) / 512) Rec.reset
  r.st != .free && (match r.grp with | some g => g.ctx == ctx | none => false)

/-- The size of a context's park area (R156). -/
def parkAreaBytes : Nat := 48 * 32 * 0x2100

/-- Whether an access lies in the register images of the context's park area (R157). -/
def inParkArea (s : State) (ctx a n : Nat) : Bool :=
  match SMap.get? s.ctxs ctx with
  | some c => decide (c.parkBase ≤ a) && decide (a + n ≤ c.parkBase + parkAreaBytes)
  | none => false

/-- Whether a weight-buffer window is open to contexts (04 R73, MAT_CFG.WIN_OPEN). -/
def winOpen (s : State) (q : Nat) : Bool := (regGetD s (regAddr .mat (q / 2) 0) 0x3).testBit 8

/-- The target of a module-local access (R148, R151, R157, R165, R167). -/
def localTarget (s : State) (g : Group) (a n : Nat) (p : Perm) (atomic : Bool) : Target :=
  let allowed : Bool := (localRegion s g.ctx a n p).isSome
  match spaceOf s a with
  | .none => .fault 0x01
  | .regs => if atomic then .fault 0x01 else .loc .regs
  | .door => if atomic then .fault 0x01 else .loc .door
  | .spad c =>
    if recOff ≤ (a - 0x100000000) % 0x400000 then (if ownsRecord s g.ctx a then .loc (.spad c) else .deny)
    else if areaLaunch s c a n == some g.launch || allowed then .loc (.spad c) else .fault 0x01
  | .wbuf q => if winOpen s q && allowed then .loc (.wbuf q) else .fault 0x01
  | .edram => if allowed || inParkArea s g.ctx a n then .loc .home else .fault 0x01
  | .ddr => if allowed || inParkArea s g.ctx a n then .loc .home else .fault 0x01

/-- The state of the connection to a peer. -/
def connOf (s : State) (peer : Nat) : Conn := SMap.getD s.fab.conns peer Conn.reset

/-- Whether an address lies in the DPT window (02 R19). -/
def inDptWindow (a : Nat) : Bool := decide (blkAddr .dpt 0 0 ≤ a) && decide (a < blkAddr .dpt 0 0 + 0x800)

/-- The target of one thread's access, with the faults in the order malformed, misaligned, unmapped or not permitted (log
entry 17). A misaligned load or store in the DPT window raises no fault: R19 names the case (02 R19 over 07 R148). -/
def target (s : State) (g : Group) (a n : Nat) (p : Perm) (atomic : Bool) : Target :=
  if 2 ^ 60 ≤ a then .fault 0x01
  else if a % n ≠ 0 && !(inDptWindow a && !atomic) then .fault 0x02
  else if a < 2 ^ 48 then localTarget s g a n p atomic
  else
    let peer := globModule s a
    match importRegion s g.ctx peer (a % 2 ^ 48) n p with
    | none => .fault 0x01
    | some i => if (connOf s peer.toNat).st == .unreachable then .fault 0x64 else .remote peer i

/-! ### Request slots and caps (R184) -/

/-- What a line request is capped by: an eDRAM bank, a DDR5 channel or a peer. -/
inductive CapKey where
  | bank (chan bank : Nat)
  | ddr (chan : Nat)
  | peer (id : Nat)
  deriving DecidableEq, Repr

/-- The cap of a module line. -/
def lineCap (line : Nat) : CapKey :=
  let x := 128 * line
  if x < 0x100000000 then .bank (homeSlice x) (edramBank x) else .ddr (2 * homeDie x + ddrChan x)

/-- The tags that a descriptor holds, one per line, each by what it is capped by (R186). -/
def EngJob.tags (j : EngJob) : List CapKey :=
  let far : Nat × Nat × Nat → List CapKey := fun r => (linesOf r.2.1 r.2.2).map (fun _ => .peer (r.2.1 / 2 ^ 48))
  j.lines.map lineCap ++ j.reads.flatMap far ++ j.going.flatMap (fun p => p.acks.flatMap far)

/-- The tags that an engine of a cluster holds. -/
def engTags (s : State) (cluster engine : Nat) : List CapKey :=
  s.jobs.flatMap (fun (e : Nat × EngJob) => if e.2.cluster = cluster && e.2.engine = engine then e.2.tags else [])

/-- The cap of an access. -/
def capOf (a : Access) : Option CapKey :=
  match a.place with
  | .home => some (lineCap a.line)
  | .module i => some (.peer i)
  | _ => none

/-- The accesses that hold a slot. -/
def heldAccs (c : Core) : List (Nat × Access) := c.accs.filter (fun e => e.2.st != .waiting)
/-- The slots held on a cap. -/
def heldOn (c : Core) (k : Option CapKey) : Nat :=
  if k.isNone then 0 else ((heldAccs c).filter (fun e => capOf e.2 == k)).length

/-- Whether a slot is free for an access: the pool, its cap, and no earlier request of an older group on the same cap. -/
def slotFree (c : Core) (id : Nat) (a : Access) : Bool :=
  decide ((heldAccs c).length < 128) && decide (heldOn c (capOf a) < 32)
  && ((capOf a).isNone || !c.accs.any (fun e => e.1 != id && e.2.st == .waiting && capOf e.2 == capOf a
        && (decide (e.2.age < a.age) || (e.2.age == a.age && decide (e.1 < id)))))

/-! ### Order (09 R203, R204, R208, R210, R213, R220) -/

/-- The threads of an access. -/
def accMask (a : Access) : BitVec 32 := maskOf (a.lanes.map (·.tid))

/-- Whether an access writes. -/
def MemOp.writes : MemOp → Bool
  | .st _ => true
  | .at _ _ => true
  | _ => false

/-- Whether an earlier access of one of its threads to the same line is not performed (R203, R204). -/
def earlierSame (c : Core) (id : Nat) (a : Access) : Bool :=
  c.accs.any (fun e => decide (e.1 < id) && e.2.age == a.age && e.2.place == a.place && e.2.line == a.line
    && e.2.st != .done && (accMask e.2 &&& accMask a) != 0)

/-- The number of a line for FARINV: its global line number for a remote line (R177). -/
def globLine (a : Access) : Nat :=
  match a.place with
  | .module i => i * 2 ^ 41 + a.line
  | _ => a.line

/-- Whether a FARINV of one of the access's threads covers its line and has not completed (R220). -/
def farinvBlocks (g : Group) (a : Access) : Bool :=
  g.farinvs.any (fun f => decide (f.ord < a.ord) && (f.mask &&& accMask a) != 0
    && f.lanes.any (fun r => decide (r.2.1 ≤ globLine a) && decide (globLine a ≤ r.2.2)))

/-- Whether an access is performed for a fence of a scope (Table 9.2): 0 own scratchpad, 1 module-local performed, remote
loads returned and remote writes numbered. -/
def accFenced (n scope : Nat) (a : Access) : Bool :=
  match a.place with
  | .spad c => a.st == .done || (scope == 0 && c != n)
  | .module _ =>
    scope == 0 || (match a.op with
      | .ld _ _ => a.st == .done
      | _ => a.todo.isEmpty && a.entered.isEmpty && a.st != .waiting)
  | _ => scope == 0 || a.st == .done

/-- A cumulative acknowledgement `acked` covers number `seq`: int32(seq - acked) is not positive (12 R279). -/
def seqCovers (acked seq : W32) : Bool := seq == acked || (seq - acked).msb

/-- Table 9.2: whether the fence condition of a scope holds for the earlier accesses of the threads `mask` of the group with
an age (R208, R218). -/
def fenceDone (s : State) (n age ord scope : Nat) (mask : BitVec 32) : Bool :=
  let c := coreOf s n
  let accs := c.accs.all (fun e =>
    !(e.2.age == age && decide (e.2.ord < ord) && (accMask e.2 &&& mask) != 0) || accFenced n scope e.2
      || (match e.2.op with | .pref _ => true | _ => false))
  let fabq := scope == 0 || c.fabq.all (fun e =>
    !(e.op.sends && e.age == age && decide (e.ord < ord) && (e.mask &&& mask) != 0) || e.sent)
  let msgs := scope == 0 || s.fab.waiting.all (fun o =>
    match o.who with
    | .fabq k a _ => !(k == n && a == age)
    | _ => true)
  let acks := scope != 2 ||
    (match groupByAge s n age with
      | some g => g.sent.all (fun x => !mask.getLsbD x.thread
          || seqCovers (connOf s x.peer).acked (BitVec.ofNat 32 x.seq))
      | none => true)
  accs && fabq && msgs && acks

/-! ### Lanes of a line -/

/-- The byte size of an operation. -/
def MemOp.size : MemOp → Nat
  | .ld b _ => b
  | .st b => b
  | .at _ _ => 4
  | .pref _ => 1

/-- A list taken in an order that a number names: any order is named by some number. -/
def pickOrder {α : Type} : Nat → Nat → List α → List α
  | 0, _, l => l
  | fuel + 1, k, l =>
    match l with
    | [] => []
    | _ =>
      match l[k % l.length]? with
      | some x => x :: pickOrder fuel (k / l.length) (dropAt l (k % l.length))
      | none => l

/-- Whether two lanes of a store overlap. -/
def lanesOverlap (size : Nat) : List Lane → Bool
  | [] => false
  | x :: xs => xs.any (fun y => decide (x.addr < y.addr + size) && decide (y.addr < x.addr + size)) || lanesOverlap size xs

/-- The lanes of a store in the order in which they take effect: the spec orders no two threads' stores of one instruction, so
overlapping ones take the order of a free value (R205, log entry 18). -/
def storeOrder (s : State) (size : Nat) (ls : List Lane) : List Lane × State :=
  if lanesOverlap size ls then
    let r := drawNat s
    (pickOrder ls.length r.1 ls, r.2)
  else (ls, s)

/-- Bytes a lane stores. -/
def laneBytes (size : Nat) (l : Lane) : List Byte := natBytes size l.v.toNat

/-- The lanes of a load with the bytes memory holds. -/
def readLanes (s : State) (size : Nat) (ls : List Lane) : List Lane :=
  ls.map (fun l => { l with old := BitVec.ofNat 64 (memNat s l.addr size) })

/-- The lanes of an atomic, combined in ascending sTID (R152), with the old value each receives, and the failed lock
attempts. -/
def atomicLanes (op : AtOp) : State → List Lane → List Lane × State × BitVec 32
  | s, [] => ([], s, 0)
  | s, l :: ls =>
    let x := memW32 s l.addr
    let v : W32 := BitVec.ofNat 32 l.v.toNat
    let s1 := putW32 s l.addr (atStep op x v l.cmp)
    let r := atomicLanes op s1 ls
    let lost : BitVec 32 := if op == .cas && x != l.cmp then maskOf [l.tid] else 0
    ({ l with old := BitVec.ofNat 64 x.toNat } :: r.1, r.2.1, lost ||| r.2.2)

/-- The bytes of a store put to memory through a writer. -/
def storeLanes (size : Nat) (put : State → Nat → List Byte → State) (s : State) (ls : List Lane) : State :=
  ls.foldl (fun s l => put s l.addr (laneBytes size l)) s

/-! ### Performance at a scratchpad or a weight-buffer window (R172, R73) -/

/-- An access performed on plain memory bytes: its lanes with what they read, the state, failed lock attempts. -/
def performPlain (s : State) (a : Access) : Access × State × BitVec 32 :=
  match a.op with
  | .ld b _ => ({ a with lanes := readLanes s b a.lanes, st := .done }, s, 0)
  | .st b =>
    let r := storeOrder s b a.lanes
    ({ a with st := .done }, storeLanes b memPut r.2 r.1, 0)
  | .at op _ =>
    let r := atomicLanes op s a.lanes
    ({ a with lanes := r.1, st := .done }, r.2.1, r.2.2)
  | .pref _ => ({ a with st := .done }, s, 0)

/-- An access whose effect is complete leaves the core once nothing is to be returned; its group may then end. -/
def retireAcc (s : State) (n id : Nat) (a : Access) : State :=
  let keep := !(accWrites a).isEmpty || a.bad != 0
  let s := modCore s n (fun c => { c with accs := if keep then SMap.put c.accs id a else SMap.del c.accs id })
  if keep then s else settleAge n a.age s

/-- The group of an access. -/
def accGroup (s : State) (n : Nat) (a : Access) : Option Group := groupByAge s n a.age

/-- Whether a store with FLAG still waits for its implicit FENCE of scope 1 (R210, R213). -/
def flagWaits (s : State) (n : Nat) (a : Access) : Bool :=
  a.flag && !fenceDone s n a.age a.ord 1 (accMask a)

/-! ### Remote accesses (R176, R177, R204, R213; 12 R275) -/

/-- The slice of the die of core `n` that holds a module's far line (R176): the address names module 0 by the module's own ID (R166). -/
def farSlice (s : State) (n glob : Nat) : Nat :=
  let v := if glob < 2 ^ 41 then (selfId s).toNat else glob / 2 ^ 41
  16 * dieOf n + (sliceHash ((glob % 2 ^ 41) * 128) ^^^ field v 0 4 ^^^ field v 4 4 ^^^ field v 8 4)

/-- The far slice of a die. -/
def farSliceOn (s : State) (d glob : Nat) : Nat := farSlice s (12 * d) glob

/-- The global line number of a remote access. -/
def farLine (i line : Nat) : Nat := i * 2 ^ 41 + line

/-- Whether a remote load may allocate a far line (R176). -/
def farAllowed (s : State) (n : Nat) (a : Access) (i : Nat) : Bool :=
  !a.noalloc && (slcCfg s (farSlice s n (farLine i a.line))).testBit 0
    && (match a.region with | some r => !(regionAt s r).noncache | none => false)

/-- The header fields a region entry supplies (R285). -/
def txnBase (s : State) (n : Nat) (a : Access) (peer : Nat) : Txn :=
  let r := regionAt s (a.region.getD 0)
  { ty := 1, op := 0, flag := a.flag, noalloc := a.noalloc, retx := false, dst := BitVec.ofNat 12 peer,
    src := selfId s, tag := BitVec.ofNat 12 n, ridx := r.ridx, addr := 0, len := 0, sctx := BitVec.ofNat 8 a.ctx,
    key := r.key, seq := 0, arg0 := 0, arg1 := 0, payload := [] }

/-- The span of a line that a remote READ names: the whole line where a far line may be allocated, else the words its lanes
touch. -/
def readSpan (s : State) (n : Nat) (a : Access) (i : Nat) : Nat × Nat :=
  if farAllowed s n a i then (128 * a.line, 128)
  else
    let size := a.op.size
    let lo := (a.lanes.foldl (fun m l => min m l.addr) (128 * a.line + 124)) / 4 * 4
    let hi := (a.lanes.foldl (fun m l => max m (l.addr + size)) lo + 3) / 4 * 4
    (lo, hi - lo)

/-- The lanes of the part of a remote access that a thread names: for an atomic the lanes of one address, else one lane. -/
def partLanes (a : Access) (part : Nat) : List Lane :=
  match a.lanes.find? (fun l => l.tid == part) with
  | none => []
  | some l =>
    match a.op with
    | .at op _ => if op == .exch || op == .cas then [l] else a.lanes.filter (fun x => x.addr == l.addr)
    | _ => [l]

/-- The combined operand of an associative remote atomic (R152). -/
def combined (op : AtOp) (ls : List Lane) : W32 :=
  match ls with
  | [] => 0
  | l :: rest => rest.foldl (fun x y => atStep op x (BitVec.ofNat 32 y.v.toNat) 0) (BitVec.ofNat 32 l.v.toNat)

/-- Bytes as a WRITE carries them: in whole words, with their place where they do not fill these (12 R273, log entry 96). -/
def spanWords (a : Nat) (bs : List Byte) : Nat × List Byte × Option (Nat × Nat) :=
  let lo := a % 4
  let hi := (4 - (a + bs.length) % 4) % 4
  (a - lo, List.replicate lo 0 ++ bs ++ List.replicate hi 0, if lo = 0 && hi = 0 then none else some (lo, bs.length))

/-- The transaction of one part of a remote access (Tables 7.6, 12.1, 12.2). -/
def partTxn (s : State) (n : Nat) (a : Access) (peer part : Nat) : Txn :=
  let t := txnBase s n a peer
  let ls := partLanes a part
  let l := ls.headD { tid := 0, addr := 0, v := 0, cmp := 0, old := 0 }
  let here : BitVec 48 := BitVec.ofNat 48 l.addr
  match a.op with
  | .ld _ _ => let sp := readSpan s n a peer; { t with addr := BitVec.ofNat 48 sp.1, len := sp.2 }
  | .pref _ => { t with addr := BitVec.ofNat 48 (128 * a.line), len := 128 }
  | .st b => let x := spanWords l.addr (laneBytes b l); { t with ty := 2, addr := BitVec.ofNat 48 x.1, len := x.2.1.length, payload := x.2.1, part := x.2.2 }
  | .at op _ =>
    let c := combined op ls
    match op with
    | .add => { t with ty := 4, op := 2, addr := here, arg1 := c }
    | .exch => { t with ty := 4, op := 1, addr := here, arg1 := BitVec.ofNat 32 l.v.toNat }
    | .cas => { t with ty := 4, op := 0, addr := here, arg0 := l.cmp, arg1 := BitVec.ofNat 32 l.v.toNat }
    | .mins => { t with ty := 3, op := 2, addr := here, len := 4, payload := natBytes 4 c.toNat }
    | .maxs => { t with ty := 3, op := 3, addr := here, len := 4, payload := natBytes 4 c.toNat }
    | _ => { t with ty := 3, op := 0, addr := here, len := 4, payload := natBytes 4 c.toNat }

/-- The parts of a remote access: one READ per line, one WRITE per thread, one atomic per address, or per thread for exchange and
compare-and-swap (R152). -/
def accParts (a : Access) : List Nat :=
  let ts := a.lanes.map (·.tid)
  match a.op with
  | .ld _ _ => ts.take 1
  | .pref _ => ts.take 1
  | .st _ => ts
  | .at op _ =>
    if op == .exch || op == .cas then ts
    else (a.lanes.filter (fun l => (a.lanes.find? (fun x => x.addr == l.addr)).map (·.tid) == some l.tid)).map (·.tid)

/-- The address a part goes to. -/
def partAddr (a : Access) (part : Nat) : Nat := ((a.lanes.find? (fun l => l.tid == part)).map (·.addr)).getD 0

/-- Whether a part that has not entered waits for an earlier part of the same address: exchanges and compare-and-swaps go one
at a time (R152). -/
def partWaits (a : Access) (part : Nat) : Bool :=
  (a.entered ++ a.unanswered).any (fun p => partAddr a p == partAddr a part)
  || (a.todo.takeWhile (fun p => p != part)).any (fun p => partAddr a p == partAddr a part)

/-- Parts of a remote access enter the connection state's waiting list. -/
def enterParts (s : State) (n id : Nat) (a : Access) : Access × State :=
  match a.place with
  | .module peer =>
    let go := a.todo.filter (fun p => !partWaits a p)
    let a' := { a with todo := a.todo.filter (fun p => !go.contains p), entered := a.entered ++ go }
    (a', { s with fab := { s.fab with
      waiting := s.fab.waiting ++ go.map (fun p => { t := partTxn s n a peer p, who := .thread n id p }) } })
  | _ => (a, s)

/-- A far line dropped on every die: before an ACCUM or atomic is sent (R177), or by a DEAD hint (R181). A prefetched one that no
demand read used is KILLED (R198). -/
def dropFar (s : State) (glob : Nat) : State :=
  (List.range 4).foldl (fun s d =>
    let h := farSliceOn s d glob
    match findLine s h (isFar glob) with
    | some x => dropLines (pfCount s h x 0x0F8) h (isFar glob)
    | none => s) s

/-- Whether the request of a remote read has been sent and its far line not yet filled (09 R221). -/
def fillSent (a : Access) : Bool :=
  (match a.place with | .module _ => true | _ => false) && ((a.st == .remote && !a.unanswered.isEmpty) || a.st == .response)

/-- Whether the module has a write, ACCUM or atomic to a remote line that is not acknowledged. -/
def writePending (s : State) (peer line : Nat) : Bool :=
  let hits : Txn → Bool := fun t =>
    (t.ty == 2 || t.ty == 3 || t.ty == 4) && t.dst.toNat == peer && decide (t.addr.toNat / 128 ≤ line)
      && decide (128 * line < t.addr.toNat + max t.len 4)
  s.fab.waiting.any (fun o => hits o.t) || (connOf s peer).unack.any (fun u => hits u.t)

/-- The module's own write passes the reads of the line that are on their way: their data is not installed as a far line (09 R222, log
entry 82). -/
def passFar (s : State) (glob : Nat) : State :=
  { s with cores := s.cores.map (fun c => { c with accs := c.accs.map (fun e =>
      (e.1, if (match e.2.place with | .module _ => true | _ => false) && globLine e.2 == glob && !e.2.op.writes
               && (e.2.st == .remote || e.2.st == .response)
            then { e.2 with queued := true } else e.2)) }) }

/-- A store's bytes written into the far lines of its address on every die (R177, R222); a prefetched one is KILLED (R198). -/
def storeFar (s : State) (glob a : Nat) (bs : List Byte) : State :=
  let s := passFar s glob
  (List.range 4).foldl (fun s d =>
    let h := farSliceOn s d glob
    mapLines (demandKill s h (isFar glob)) h (isFar glob) (fun x =>
      { x with data := x.data.take (a % 128) ++ bs ++ x.data.drop (a % 128 + bs.length) })) s

/-- A far line that a load of core `n` may use: present with the current epoch of its keying entry (R176, R177). A line met after
an epoch raise is dropped and counted. -/
def farHit (s : State) (n glob : Nat) : Option SLine × State :=
  let h := farSlice s n glob
  match findLine s h (isFar glob) with
  | none => (none, s)
  | some x =>
    if (regionAt s x.rgn).epoch = x.epoch && (regionAt s x.rgn).valid then (some x, s)
    else (none, dropLines (bump0 (pfCount s h x 0x100) .slc h 0x0A8) h (isFar glob))

/-- A demand read of core `n` that overtakes a prefetch of the far line on its die makes it LATE (R198). -/
def farLate (s : State) (n glob : Nat) : State :=
  let isPf : Access → Bool := fun a =>
    (match a.op, a.place with | .pref _, .module _ => true | _, _ => false) && globLine a == glob && !a.late
  let cores := (List.range 12).map (fun i => 12 * dieOf n + i)
  match cores.findSome? (fun k => ((coreOf s k).accs.find? (fun e => isPf e.2)).map (fun e => (k, e.1, e.2))) with
  | some (k, id, a) =>
    bump (modCore s k (fun c => { c with accs := SMap.put c.accs id { a with late := true } })) .slc (farSlice s n glob) 0x0F0 a.ctx
  | none => s

/-- A remote access enters (R177, R213): a load may hit a far line, a store writes into far lines, an ACCUM or atomic drops
them; then its transactions enter. -/
def enterRemote (s : State) (n id : Nat) (a : Access) (peer : Nat) : State :=
  let glob := farLine peer a.line
  let h := farSlice s n glob
  match a.op with
  | .ld b _ =>
    let r := farHit s n glob
    match r.1 with
    | some x =>
      let lanes := a.lanes.map (fun l =>
        { l with old := BitVec.ofNat 64 (bytesNat ((x.data.drop (l.addr % 128)).take b)) })
      let s := demandRead (bump (touchLine r.2 h (isFar glob)) .slc h 0x0A0 a.ctx) h (isFar glob)
      let s := if a.dead then dropFar s glob else s
      retireAcc s n id { a with lanes := lanes, st := .done }
    | none =>
      let s := bump (farLate r.2 n glob) .lsu n 0x030 a.ctx
      let e := enterParts s n id { a with st := .remote, queued := writePending s peer a.line }
      modCore e.2 n (fun c => { c with accs := SMap.put c.accs id e.1 })
  | _ =>
    let s := bump s .lsu n 0x030 a.ctx
    let s := match a.op with
      | .st b =>
        let s := a.lanes.foldl (fun s l => storeFar s glob l.addr (laneBytes b l)) s
        if a.dead then dropFar s glob else s
      | .at _ _ => dropFar (passFar s glob) glob
      | _ => s
    let e := enterParts s n id { a with st := .remote, queued := writePending s peer a.line }
    modCore e.2 n (fun c => { c with accs := SMap.put c.accs id e.1 })

/-! ### Granting a slot -/

/-- Whether an access that waits may take a slot and start (R184, R203, R204, R210, R220). Scratchpad accesses, which are
performed as they are granted, also wait for earlier accesses to their line and for their implicit fence. -/
def mayGrant (s : State) (n id : Nat) (a : Access) : Bool :=
  let c := coreOf s n
  slotFree c id a && !(match accGroup s n a with | some g => farinvBlocks g a | none => false) &&
  (match a.place with
    | .spad _ => !sleeps s (128 * a.line) && !earlierSame c id a && !flagWaits s n a && !(a.op.writes && ckptHeld s (128 * a.line))
    | .module _ => !earlierSame c id a && !flagWaits s n a
    | _ => true)

/-- A slot granted to a waiting access: scratchpad accesses are performed, remote ones enter the fabric, the others wait
for their place. -/
def grant (s : State) (n id : Nat) (a : Access) : State :=
  match a.place with
  | .spad _ =>
    let s := if a.op.writes then ckptMark s (128 * a.line) else s
    let r := performPlain s a
    lockFailed (retireAcc r.2.1 n id r.1) n a.age r.2.2
  | .module peer => enterRemote s n id { a with todo := accParts a } peer
  | .regs | .door =>
    let r := storeOrder s (if a.op.writes then a.op.size else 0) a.lanes
    modCore r.2 n (fun c => { c with accs := SMap.put c.accs id { a with st := .held, todo := r.1.map (·.tid) } })
  | _ => modCore s n (fun c => { c with accs := SMap.put c.accs id { a with st := .held } })

/-- A waiting access granted where it may be. -/
def tryGrant (s : State) (n id : Nat) : State :=
  match SMap.get? (coreOf s n).accs id with
  | some a => if a.st == .waiting && mayGrant s n id a then grant s n id a else s
  | none => s

/-! ### Forming the line requests of an instruction (R184) -/

/-- The lane of a thread as an access of its line at a place. -/
def addLane (proto : Access) (p : Place) (region : Option Nat) (l : Lane) : List Access → List Access
  | [] => [{ proto with place := p, line := l.addr / 128, region := region, lanes := [l] }]
  | a :: as =>
    if a.place = p && a.line = l.addr / 128 && a.region = region then { a with lanes := a.lanes ++ [l] } :: as
    else a :: addLane proto p region l as

/-- The accesses entered into the core's tables, each given a slot where one is free. -/
def enterAccs (s : State) (n : Nat) : List Access → State
  | [] => s
  | a :: as =>
    let id := (coreOf s n).nextAcc
    let s := modCore s n (fun c => { c with accs := SMap.put c.accs id a, nextAcc := id + 1 })
    let s := bump s .lsu n 0x010 a.ctx
    let s := bumpC s .lsu n 0x018 (a.lanes.length - 1) (some a.ctx)
    enterAccs (tryGrant s n id) n as

/-- The lowest active thread whose target satisfies a test. -/
def firstBad (ts : List (Nat × Target)) : Option (Nat × Nat) :=
  ts.findSome? (fun e => match e.2 with | .fault c => some (e.1, c) | _ => none)

/-- The threads that fault. -/
def badThreads (ts : List (Nat × Target)) : BitVec 32 :=
  maskOf ((ts.filter (fun e => match e.2 with | .fault _ => true | _ => false)).map (·.1))

/-- A load, store or atomic of the active threads (R148, R151, R158, R184): every fault is found before any effect; a park
record of another context reads 0 and discards stores (R157). -/
def memIssue (op : MemOp) (w : Lpk) (p : Perm) (remoteOk : Bool) (lane : Nat → Nat → Lane) (flag redOk : Bool)
    (x : Iss) (s : State) : State :=
  let atomic := match op with | .at _ _ => true | _ => false
  let addr : Nat → Nat := fun t => ldstAddr x.g t w
  let ts : List (Nat × Target) := (tids x.act).map (fun t =>
    match target s x.g (addr t) op.size p atomic with
    | .remote m i => if remoteOk then (t, .remote m i) else (t, .fault 0x0A)
    | y => (t, y))
  match firstBad ts with
  | some (t, c) => issueFault x c 0 (addr t) (badThreads ts) false s
  | none =>
    let distinct := ((ts.map (fun e => addr e.1)).foldl insertNat []).length
    let s := if atomic then bumpC s .thr x.n 0x068 (ts.length - distinct) (some x.g.ctx) else s
    let deny := (ts.filter (fun e => e.2 == .deny)).map (·.1)
    let s := deny.foldl (fun s t => ctxRefuse s x.g.ctx (addr t) x.n op.writes) s
    let s := modGroup s x.n x.i (fun g => modThrs g (maskOf deny) (fun _ h =>
      match op with
      | .ld 8 _ => (h.setReg w.d.toNat 0).setReg (w.d.toNat + 1) 0
      | .ld _ _ => h.setReg w.d.toNat 0
      | .at _ false => h.setReg w.d.toNat 0
      | _ => h))
    let proto : Access :=
      { slot := x.i, age := x.g.age, ctx := x.g.ctx, ord := x.ord, pc := x.pc, op := op, d := w.d.toNat,
        noalloc := modF w 16 1 == 1 && !atomic, dead := modF w 17 1 == 1 && !atomic, flag := flag, redOk := redOk,
        place := .home, line := 0, region := none, lanes := [], subset := x.sub, st := .waiting, stale := false,
        todo := [], entered := [], unanswered := [], queued := false, late := false, data := [], bad := 0, badCause := 0 }
    let accs := ts.foldl (fun l e =>
      match e.2 with
      | .loc q => addLane proto q none (lane e.1 (addr e.1)) l
      | .remote m i => addLane proto (.module m.toNat) (some i) (lane e.1 (addr e.1 % 2 ^ 48)) l
      | _ => l) ([] : List Access)
    issueEnd x Flow.next (enterAccs s x.n accs)

end Sys2Proof.Machine
end

