-- ==== Sys2Proof/Machine/Control.lean ====
section
/-! DEFINITION. The control class (07 Table 7.5, R144, R153), the group barrier's completion and watchdog (R153-R155) and
the release of a hold (R145). -/

namespace Sys2Proof.Machine

/-- The target of BRA and CALL: the PC plus the sign-extension of MOD[23:0] (Table 7.5). -/
def branchTarget (pc : Nat) (w : Lpk) : Nat := unsigned 32 ((pc : Int) + signed 24 (modF w 0 24))

/-- BRA (R144): the active threads jump, the others of the subset fall through. -/
def execBra (u : Issue) (w : Lpk) (s : State) : Out :=
  plainOp .bra u w anyRoom (fun x s1 =>
    issueEnd x { Flow.next with jumps := (tids x.act).map (fun t => (t, branchTarget x.pc w)) } s1) s

/-- CALL (Table 7.5): D receives the index of the next instruction. -/
def execCall (u : Issue) (w : Lpk) (s : State) : Out :=
  plainOp .call u w anyRoom (fun x s1 =>
    let s2 := modGroup s1 x.n x.i (fun g => modThrs g x.act (fun _ h => h.setReg w.d.toNat (BitVec.ofNat 32 (x.pc + 1))))
    issueEnd x { Flow.next with jumps := (tids x.act).map (fun t => (t, branchTarget x.pc w)) } s2) s

/-- Whether a code word index follows a CALL of the group's kernel (Table 7.5, RET). -/
def isReturn (s : State) (kernel pc : Nat) : Bool :=
  match SMap.get? s.kernels kernel with
  | some k => k.callRet.contains pc
  | none => false

/-- RET (Table 7.5): the PC receives g(A); THR_BRANCH where that is no instruction after a CALL. -/
def execRet (u : Issue) (w : Lpk) (s : State) : Out :=
  plainOp .ret u w anyRoom (fun x s1 =>
    let tgt : Nat → Nat := fun t => (gReg x.g t w.a.toNat).toNat
    let bad := maskWhere (fun t => x.act.getLsbD t && !isReturn s1 x.g.kernel (tgt t))
    if bad = 0 then issueEnd x { Flow.next with jumps := (tids x.act).map (fun t => (t, tgt t)) } s1
    else issueFault x 0x06 0 0 bad false s1) s

/-- EXIT (R139): the active threads leave the live set. -/
def execExit (u : Issue) (w : Lpk) (s : State) : Out :=
  plainOp .exit u w anyRoom (fun x s1 => issueEnd x { Flow.next with exited := x.act } s1) s

/-- GBAR (R153): the active threads arrive; BAR_MASK where the masks differ or leave out an arriving thread. A barrier that is
due to complete does so first. -/
def execGbar (u : Issue) (w : Lpk) (s : State) : Out :=
  plainOp .gbar u w (fun c => match nth c.slots u.slot.val none with | some g => !barrierDone g | none => true) (fun x s1 =>
    match lowTid x.act with
    | none => issueEnd x Flow.next s1
    | some t0 =>
      let m := gReg x.g t0 w.a.toNat
      let same := (tids x.act).all (fun t => gReg x.g t w.a.toNat == m)
      let agrees := match x.g.barrier with | some b => b.mask == m | none => true
      if same && agrees && (x.act &&& ~~~m) == 0 then
        let s2 := modGroup s1 x.n x.i (fun g =>
          let b : Bar := match g.barrier with
            | some b => { b with arrived := b.arrived ||| x.act }
            | none => { mask := m, arrived := x.act, pc := x.pc, start := ckOf s1 x.n }
          { modThrs g x.act (fun _ h => { h with stat := .bar }) with barrier := some b })
        issueEnd x { Flow.next with switches := true } s2
      else issueFault x 0x09 0 0 x.act false s1) s

/-- YIELD (R142, R144): a switch event and lowered priority. -/
def execYield (u : Issue) (w : Lpk) (s : State) : Out :=
  plainOp .yield u w anyRoom (fun x s1 =>
    if x.act = 0 then issueEnd x Flow.next s1
    else
      let s2 := modGroup s1 x.n x.i (fun g => { g with lastYield := some (ckOf s1 x.n) })
      issueEnd x { Flow.next with switches := true } s2) s

/-- TRAP (R158): parks the group with THR_TRAP and INFO MOD[15:0]. -/
def execTrap (u : Issue) (w : Lpk) (s : State) : Out :=
  plainOp .trap u w anyRoom (fun x s1 =>
    if x.act = 0 then issueEnd x Flow.next s1 else issueFault x 0x07 (modF w 0 16) 0 x.act false s1) s

/-- NOP (Table 7.5): nothing. -/
def execNop (u : Issue) (w : Lpk) (s : State) : Out := plainOp .nop u w anyRoom (issueEnd · Flow.next ·) s

/-- RECONV_RELEASE (R145): the held threads of the splits that reconverge at `pc` continue alone once the others have issued
1,024 instructions. -/
def execReconvRelease (u : Slot) (pc : Nat) (s : State) : Out :=
  let n := u.core.val
  let i := u.slot.val
  match groupOf s n i with
  | none => .next s
  | some g =>
    let due : Split → Bool := fun x => x.rpc == pc && decide (1024 ≤ x.issued) && (x.arrived &&& liveMask g) != 0
    let r := endHolds g due
    .next (bumpC (setGroup s n i (some r.1)) .thr n 0x048 r.2 none)

end Sys2Proof.Machine
end

