-- ==== Sys2Proof/Machine/LoadStore.lean ====
section
/-! DEFINITION. The load/store and atomic classes (07 R148, R151, R152, Tables 7.4, 7.6), fences and FARINV (09 R208, R220),
prefetches (08 R198), request slots (R184) and the return of load data (R202). -/

namespace Sys2Proof.Machine

/-! ### Loads and stores -/

/-- The lane of a load. -/
def loadLane (t a : Nat) : Lane := { tid := t, addr := a, v := 0, cmp := 0, old := 0 }

/-- The lane of a store of `b` bytes from register B. -/
def storeLane (g : Group) (w : Lpk) (b t a : Nat) : Lane :=
  { tid := t, addr := a,
    v := BitVec.ofNat 64 ((if b = 8 then gPair g t w.b.toNat else (gReg g t w.b.toNat).toNat) % 2 ^ (8 * b)),
    cmp := 0, old := 0 }

/-- A load of `b` bytes. -/
def loadOp (o : LOp) (b : Nat) (sgn : Bool) (u : Issue) (w : Lpk) (s : State) : Out :=
  scalarOp o u w (fun x s1 => memIssue (.ld b sgn) w .read true loadLane false false x s1) s

/-- A store of `b` bytes; MOD[18] is FLAG (Table 7.4). -/
def storeOp (o : LOp) (b : Nat) (u : Issue) (w : Lpk) (s : State) : Out :=
  scalarOp o u w (fun x s1 =>
    memIssue (.st b) w .write true (storeLane x.g w b) (modF w 18 1 == 1) false x s1) s

/-- LDB: a sign-extended byte. -/
def execLdb (u : Issue) (w : Lpk) (s : State) : Out := loadOp .ldb 1 true u w s
/-- LDBU: a zero-extended byte. -/
def execLdbu (u : Issue) (w : Lpk) (s : State) : Out := loadOp .ldbu 1 false u w s
/-- LDH: a sign-extended halfword. -/
def execLdh (u : Issue) (w : Lpk) (s : State) : Out := loadOp .ldh 2 true u w s
/-- LDHU: a zero-extended halfword. -/
def execLdhu (u : Issue) (w : Lpk) (s : State) : Out := loadOp .ldhu 2 false u w s
/-- LDW: a word. -/
def execLdw (u : Issue) (w : Lpk) (s : State) : Out := loadOp .ldw 4 false u w s
/-- LDD: a doubleword into g(D), g(D + 1). -/
def execLdd (u : Issue) (w : Lpk) (s : State) : Out := loadOp .ldd 8 false u w s
/-- STB: a byte. -/
def execStb (u : Issue) (w : Lpk) (s : State) : Out := storeOp .stb 1 u w s
/-- STH: a halfword. -/
def execSth (u : Issue) (w : Lpk) (s : State) : Out := storeOp .sth 2 u w s
/-- STW: a word. -/
def execStw (u : Issue) (w : Lpk) (s : State) : Out := storeOp .stw 4 u w s
/-- STD: a doubleword from g(B), g(B + 1). -/
def execStd (u : Issue) (w : Lpk) (s : State) : Out := storeOp .std 8 u w s

/-! ### Atomics (R151, R152) -/

/-- Whether an atomic has a remote form (Table 7.6). -/
def remoteForm (op : AtOp) (noret : Bool) : Bool :=
  match op with
  | .add | .exch | .cas => true
  | .mins | .maxs | .fadd => noret
  | _ => false

/-- The lane of an atomic: the operand g(B), and g(D) to compare with. -/
def atomicLane (g : Group) (w : Lpk) (t a : Nat) : Lane :=
  { tid := t, addr := a, v := BitVec.ofNat 64 (gReg g t w.b.toNat).toNat, cmp := gReg g t w.d.toNat, old := 0 }

/-- Whether a context is canonical (02 R33). -/
def isCanonical (s : State) (ctx : Nat) : Bool :=
  match SMap.get? s.ctxs ctx with
  | some c => c.canonical
  | none => false

/-- An atomic of the active threads; the finalizer sets RED_OK in normal mode (R179, 02 R32). -/
def atomicOp (o : LOp) (op : AtOp) (u : Issue) (w : Lpk) (s : State) : Out :=
  scalarOp o u w (fun x s1 =>
    let noret := modF w 16 1 == 1
    memIssue (.at op noret) w .accum (remoteForm op noret) (atomicLane x.g w) false (!x.g.canonical) x s1) s

/-- AADD: x + v modulo 2^32. -/
def execAadd (u : Issue) (w : Lpk) (s : State) : Out := atomicOp .aadd .add u w s
/-- AMINS: signed minimum. -/
def execAmins (u : Issue) (w : Lpk) (s : State) : Out := atomicOp .amins .mins u w s
/-- AMAXS: signed maximum. -/
def execAmaxs (u : Issue) (w : Lpk) (s : State) : Out := atomicOp .amaxs .maxs u w s
/-- AMINU: unsigned minimum. -/
def execAminu (u : Issue) (w : Lpk) (s : State) : Out := atomicOp .aminu .minu u w s
/-- AMAXU: unsigned maximum. -/
def execAmaxu (u : Issue) (w : Lpk) (s : State) : Out := atomicOp .amaxu .maxu u w s
/-- AAND: bitwise and. -/
def execAand (u : Issue) (w : Lpk) (s : State) : Out := atomicOp .aand .and u w s
/-- AOR: bitwise or. -/
def execAor (u : Issue) (w : Lpk) (s : State) : Out := atomicOp .aor .or u w s
/-- AXOR: bitwise exclusive or. -/
def execAxor (u : Issue) (w : Lpk) (s : State) : Out := atomicOp .axor .xor u w s
/-- AFADD: rne_fp32(x + v). -/
def execAfadd (u : Issue) (w : Lpk) (s : State) : Out := atomicOp .afadd .fadd u w s
/-- AEXCH: v. -/
def execAexch (u : Issue) (w : Lpk) (s : State) : Out := atomicOp .aexch .exch u w s
/-- ACAS: v where x = g(D). -/
def execAcas (u : Issue) (w : Lpk) (s : State) : Out := atomicOp .acas .cas u w s

/-! ### Prefetch (R198) -/

/-- A prefetch of a module line into its home slice: dropped uncounted when it is present or PF_EN is clear. -/
def prefetchHome (s : State) (ctx line : Nat) : State :=
  let h := homeSlice (128 * line)
  if !(slcCfg s h).testBit 3 || (findLine s h (isHome line)).isSome then s
  else bump (startFill s line (.prefetch ctx)) .slc h 0x0E0 ctx

/-- A prefetch of one thread's line: never a fault; a line it may not read, or a far line without MOD[16], is dropped. A far line of an old epoch
that it meets is not there (R177). -/
def prefetchLane (x : Iss) (w : Lpk) (s : State) (t : Nat) : State :=
  let a := ldstAddr x.g t w
  match target s x.g a 1 .read false with
  | .loc .home => prefetchHome s x.g.ctx (a / 128)
  | .remote m i =>
    let line := (a % 2 ^ 48) / 128
    let glob := farLine m.toNat line
    let h := farSlice s x.n glob
    if modF w 16 1 = 0 || !(slcCfg s h).testBit 3 || !(slcCfg s h).testBit 0 || (regionAt s i).noncache then s
    else if (farHit s x.n glob).1.isSome then s
    else
      let s := (farHit s x.n glob).2
      let acc : Access :=
        { slot := x.i, age := x.g.age, ctx := x.g.ctx, ord := x.ord, pc := x.pc, op := .pref true, d := 0,
          noalloc := false, dead := false, flag := false, redOk := false, place := .module m.toNat, line := line,
          region := some i, lanes := [loadLane t (a % 2 ^ 48)], subset := x.sub, st := .waiting, stale := false,
          todo := [], entered := [], unanswered := [], queued := false, late := false, data := [], bad := 0, badCause := 0 }
      let id := (coreOf s x.n).nextAcc
      let s := modCore s x.n (fun c => { c with accs := SMap.put c.accs id acc, nextAcc := id + 1 })
      tryGrant (bump s .slc h 0x0E0 x.g.ctx) x.n id
  | _ => s

/-- PREF (R198). -/
def execPref (u : Issue) (w : Lpk) (s : State) : Out :=
  scalarOp .pref u w (fun x s1 => issueEnd x Flow.next ((tids x.act).foldl (prefetchLane x w) s1)) s

/-! ### FENCE and FARINV (09 R208, R220) -/

/-- FENCE (R208): the condition of the scope is that of the active threads; the whole subset waits for it, and never splits here. -/
def execFence (u : Issue) (w : Lpk) (s : State) : Out :=
  plainOp .fence u w anyRoom (fun x s1 =>
    if x.act = 0 then issueEnd x Flow.next s1
    else
      let s2 := issueEnd x Flow.next s1
      modGroup s2 x.n x.i (fun g => { modThrs g x.sub (fun _ h => { h with stat := .fence x.ord }) with
        fences := g.fences ++ [{ ord := x.ord, scope := modF w 0 2, mask := x.act }] })) s

/-- FENCE_COMPLETE (R208, R218): the fence of order `id` completes for all of its subset once its condition holds, before the group is parked
where a fault waits for its instruction boundary. A fence of scope 2 forgets the destinations its threads have written. -/
def execFenceComplete (u : Slot) (id : Nat) (s : State) : Out :=
  let n := u.core.val
  let i := u.slot.val
  match groupOf s n i with
  | none => .next s
  | some g =>
    match g.fences.find? (fun f => f.ord == id) with
    | none => .next s
    | some f =>
      if fenceDone s n g.age f.ord f.scope f.mask then
        .next (modGroup s n i (fun g =>
          { modThrs g (BitVec.allOnes 32) (fun _ h => if h.stat == .fence f.ord then { h with stat := .run } else h) with
            fences := g.fences.filter (fun y => y.ord != id),
            sent := if f.scope = 2 then g.sent.filter (fun y => !f.mask.getLsbD y.thread) else g.sent }))
      else .next s

/-- The lines FARINV covers for a thread: whole lines of [address, address + g(B)) of a fabric global range (R220). -/
def farinvLines (s : State) (g : Group) (t : Nat) (w : Lpk) : Option (Nat × Nat × Nat) :=
  let a := ldstAddr g t w
  let len := (gReg g t w.b.toNat).toNat
  if a < 2 ^ 48 || len = 0 then none
  else
    let m := (globModule s a).toNat
    let la := a % 2 ^ 48
    some (t, farLine m (la / 128), farLine m ((la + len - 1) / 128))

/-- FARINV (R220): starts the invalidation of the far lines of the active threads' ranges; a malformed address faults (R148). -/
def execFarinv (u : Issue) (w : Lpk) (s : State) : Out :=
  scalarOp .farinv u w (fun x s1 =>
    let bad := maskWhere (fun t => x.act.getLsbD t && decide (2 ^ 60 ≤ ldstAddr x.g t w))
    match lowTid bad with
    | some t => issueFault x 0x01 0 (ldstAddr x.g t w) bad false s1
    | none =>
      let ls := (tids x.act).filterMap (fun t => farinvLines s1 x.g t w)
      let s2 := if ls.isEmpty then s1
        else modGroup s1 x.n x.i (fun g => { g with farinvs := g.farinvs ++ [{ ord := x.ord, mask := x.act, lanes := ls }] })
      issueEnd x Flow.next s2) s

/-- Whether every earlier access of the FARINV's threads to its ranges is performed. -/
def farinvReady (c : Core) (age : Nat) (f : FarInv) : Bool :=
  c.accs.all (fun e =>
    !(e.2.age == age && decide (e.2.ord < f.ord) && (accMask e.2 &&& f.mask) != 0
      && f.lanes.any (fun r => decide (r.2.1 ≤ globLine e.2) && decide (globLine e.2 ≤ r.2.2)))
    || e.2.st == .done)

/-- Far lines of a range dropped on all four dies (R177); fills for them whose request has been sent become stale (R221). -/
def dropFarRange (s : State) (lo hi : Nat) : State :=
  let inR : SLine → Bool := fun x => x.kind == .far && decide (lo ≤ x.line) && decide (x.line ≤ hi)
  let s := (List.range 64).foldl (fun s h =>
    let gone := (sliceAt s h).filter inR
    let s := gone.foldl (fun s x => pfCount s h x 0x100) s
    if gone.isEmpty then s else dropLines s h inR) s
  { s with cores := s.cores.map (fun c => { c with accs := c.accs.map (fun e =>
      (e.1, if fillSent e.2 && decide (lo ≤ globLine e.2) && decide (globLine e.2 ≤ hi) then { e.2 with stale := true } else e.2)) }) }

/-- FARINV_COMPLETE (R220): the far lines of the ranges of FARINV `id` are dropped on all dies. -/
def execFarinvComplete (u : Slot) (id : Nat) (s : State) : Out :=
  let n := u.core.val
  let i := u.slot.val
  match groupOf s n i with
  | none => .next s
  | some g =>
    match g.farinvs.find? (fun f => f.ord == id) with
    | none => .next s
    | some f =>
      if farinvReady (coreOf s n) g.age f then
        let s := f.lanes.foldl (fun s r => dropFarRange s r.2.1 r.2.2) s
        .next (modGroup s n i (fun g => { g with farinvs := g.farinvs.filter (fun y => y.ord != id) }))
      else .next s

/-! ### The group barrier (07 R153-R155) -/

/-- GBAR_COMPLETE (R153, R154): the arrived threads continue once every thread of the mask has arrived or is no longer live
and the implicit fence of scope 1 of the arrived threads has taken effect (09 R210). -/
def execGbarComplete (u : Slot) (s : State) : Out :=
  let n := u.core.val
  let i := u.slot.val
  match groupOf s n i with
  | none => .next s
  | some g =>
    match g.barrier with
    | none => .next s
    | some b =>
      if barrierDone g && g.park.isNone && fenceDone s n g.age (g.ord + 1) 1 b.arrived then
        .next (modGroup s n i (fun g =>
          { modThrs g b.arrived (fun _ h => if h.stat == .bar then { h with stat := .run } else h) with barrier := none }))
      else .next s

/-- GBAR_WATCHDOG_EXPIRY (R155): 2^20 ck after the first arrival a barrier that is not complete parks the group with
ORPHAN_BARRIER. -/
def execGbarWatchdogExpiry (u : Slot) (s : State) : Out :=
  let n := u.core.val
  let i := u.slot.val
  match groupOf s n i with
  | none => .next s
  | some g =>
    match g.barrier with
    | none => .next s
    | some b =>
      let missing := b.mask &&& liveMask g &&& ~~~b.arrived
      if decide (b.start + 1048576 ≤ ckOf s n) && missing != 0 && g.park.isNone then
        .next (bump0 (modGroup s n i (askPark
          { cause := 0x08, precise := false, contained := false, pc := b.pc, info := 0, addr := 0, mask := missing,
            subset := 0, removed := 0 })) .thr n 0x050)
      else .next s

/-! ### Slots and load data -/

/-- REQUEST_SLOT_GRANT (R184): a waiting line request takes a slot when the pool and its cap have room. -/
def execRequestSlotGrant (n : Fin 48) (id : Nat) (s : State) : Out := .next (tryGrant s n.val id)

/-- The register value of a load: sign- or zero-extended (Table 7.4). -/
def loadValue (b : Nat) (sgn : Bool) (v : W64) : Nat := if sgn then unsigned 32 (signed (8 * b) v.toNat) else v.toNat

/-- A lane's result written to its thread's registers. -/
def writeLane (a : Access) (g : Group) (l : Lane) : Group :=
  match a.op with
  | .ld 8 _ => setGPair g l.tid a.d l.old.toNat
  | .ld b sgn => setGReg g l.tid a.d (BitVec.ofNat 32 (loadValue b sgn l.old))
  | .at _ false => setGReg g l.tid a.d (BitVec.ofNat 32 l.old.toNat)
  | _ => g

/-- A fault found while an access of a group completes (R158): precise while the group has issued no later instruction, the
faulting threads then standing on the instruction again; else deferred. -/
def completionFault (s : State) (n : Nat) (a : Access) (cause : Nat) (mask : BitVec 32) (contained : Bool) : State :=
  let addr := ((a.lanes.find? (fun l => mask.getLsbD l.tid)).map (·.addr)).getD 0
  let full := match a.place with | .module i => i * 2 ^ 48 + addr | _ => addr
  match groupByAge s n a.age with
  | none => s
  | some g =>
    let precise := g.ord == a.ord
    let p : ParkReq :=
      { cause := cause, precise := precise, contained := contained, pc := a.pc, info := 0, addr := full, mask := mask,
        subset := a.subset, removed := 0 }
    modByAge s n a.age (fun g => askPark p (if precise then modThrs g mask (fun _ h => { h with pc := a.pc }) else g))

/-- Whether a fault cause comes with a CONTAINED record (Table 7.8). -/
def causeContained (cause : Nat) : Bool := cause = 0x03 || cause = 0x0D

/-- The unit that reports an uncorrectable error in data of a place: unit type, instance within the die, die (15 Table 15.4). -/
def placeUnit (a : Access) : Nat × Nat × Nat :=
  match a.place with
  | .spad c => (4, c % 12, dieOf c)
  | .wbuf q => (1, q / 2 % 12, dieOf (q / 2))
  | _ => let h := homeSlice (128 * a.line); (5, h % 16, h / 16)

/-- LOAD_RETURN (R202, R158): the data of a performed access returns. Threads without a fault write their registers; the
threads of `ecc`, whose data had an uncorrectable error in its SRAM (15 R337), and those the access marked as faulting write
nothing and fault. -/
def execLoadReturn (n : Fin 48) (id : Nat) (ecc : W32) (s : State) : Out :=
  let k := n.val
  match SMap.get? (coreOf s k).accs id with
  | none => .next s
  | some a =>
    if a.st == .done then
      let hit := ecc &&& accMask a &&& ~~~a.bad
      let bad := a.bad ||| hit
      let s := if hit = 0 then s
        else
          let p := placeUnit a
          unitErr s 1 p.2.2 p.1 p.2.1 2 a.ctx 0x03 (128 * a.line) false
      let s := modByAge s k a.age (fun g => (a.lanes.filter (fun l => !bad.getLsbD l.tid)).foldl (writeLane a) g)
      let s := if hit = 0 then s else completionFault s k a 0x03 hit true
      let s := if a.bad = 0 then s else completionFault s k a a.badCause a.bad (causeContained a.badCause)
      let s := modCore s k (fun c => { c with accs := SMap.del c.accs id })
      .next (settleAge k a.age s)
    else .next s

end Sys2Proof.Machine
end

