-- ==== Sys2Proof/Machine/MemEvents.lean ====
section
/-! DEFINITION. Events of the home slices, the eDRAM channels and DDR5 controllers, far-line fills and scrubbers (08 R168-R183,
R198; 09 R221; 15 R343). -/

namespace Sys2Proof.Machine

/-! ### Error reports of channels (15 Tables 15.2-15.4) -/

/-- The fault identity of a home line's memory: an eDRAM block of 64 KiB or a DDR5 channel. -/
def memFault (s : State) (a : Nat) : W32 :=
  let m := (selfId s).toNat * 0x10000
  if a < 0x100000000 then BitVec.ofNat 32 (2 * 2 ^ 28 + m + field a 16 16)
  else BitVec.ofNat 32 (3 * 2 ^ 28 + m + 2 * homeDie a + ddrChan a)

/-- A record of an eDRAM channel or DDR5 controller about a line. -/
def memErr (s : State) (sev : Fin 4) (a ctx info : Nat) : State :=
  let e := decide (a < 0x100000000)
  let src := if e then errSource (homeDie a) 6 (sliceHash a) else errSource (homeDie a) 7 (ddrChan a)
  logErr s
    { faultId := memFault s a, source := src, cls := if e then 3 else 4, sev := sev, injected := false,
      address := BitVec.ofNat 64 a, count := 1, ctx := BitVec.ofNat 8 ctx, info := BitVec.ofNat 8 info }

/-! ### Performance at the home slice (R173-R183) -/

/-- A replica allocated for a thread load of core `n` on another die (R173). -/
def addReplica (s : State) (n line : Nat) (noalloc : Bool) : State :=
  let home := homeSlice (128 * line)
  let here := 16 * dieOf n + sliceHash (128 * line)
  if noalloc || home = here || !(slcCfg s here).testBit 0 || (homeLine s line).isNone then s
  else
    let s := mapLines s home (isHome line) (fun y => { y with sharers := setField y.sharers (dieOf n) 1 1 })
    if (findLine s here (isReplica line)).isSome then s else allocLine s here (SLine.fresh .replica line)

/-- The lanes of an access whose codewords are uncorrectable as stored (R169). -/
def badLanes (s : State) (a : Access) : BitVec 32 :=
  maskOf ((a.lanes.filter (fun l => s.mem.badCw.contains (l.addr / 32))).map (·.tid))

/-- A load performed on the line's coherent bytes; a DEAD hint applies after it (R181). -/
def performLoad (s : State) (n id : Nat) (a : Access) (b : Nat) : State :=
  let bad := badLanes s a
  let a' := { a with lanes := readLanes s b a.lanes, st := .done, bad := bad, badCause := if bad = 0 then 0 else 0x03 }
  let s := if a.dead then deadHint s a.line a.ctx else s
  retireAcc s n id a'

/-- A home line made most recently used and dirty. -/
def useDirty (s : State) (line : Nat) : State :=
  makeDirty (touchLine s (homeSlice (128 * line)) (isHome line)) line

/-- A whole codeword written clears its error (R169, R170). -/
def clearCodewords (s : State) (size : Nat) (ls : List Lane) : State :=
  if s.mem.badCw.isEmpty then s
  else
    let covered : Nat → Bool := fun c =>
      (List.range 32).all (fun i => ls.any (fun l => decide (l.addr ≤ 32 * c + i) && decide (32 * c + i < l.addr + size)))
    { s with mem := { s.mem with badCw := s.mem.badCw.filter (fun c => !covered c) } }

/-- The lanes of a store that fall into an uncorrectable codeword which the store does not cover whole: they fault and write nothing (R169, R170). -/
def spoiltLanes (s : State) (a : Access) (b : Nat) : BitVec 32 :=
  let covered : Nat → Bool := fun c =>
    (List.range 32).all (fun i => a.lanes.any (fun l => decide (l.addr ≤ 32 * c + i) && decide (32 * c + i < l.addr + b)))
  maskOf ((a.lanes.filter (fun l => s.mem.badCw.contains (l.addr / 32) && !covered (l.addr / 32))).map (·.tid))

/-- A store performed at the home slice: a line that is in the slice becomes dirty; otherwise the bytes go to the channel (R170, R175). -/
def performStore (s : State) (n id : Nat) (a : Access) (b : Nat) : State :=
  let s := beforeWrite s a.line
  let s := if (homeLine s a.line).isSome then useDirty s a.line else chanReq s (128 * a.line)
  let bad := spoiltLanes s a b
  let good := a.lanes.filter (fun l => !bad.getLsbD l.tid)
  let r := storeOrder s b good
  let s := clearCodewords (storeLanes b memPut r.2 r.1) b good
  let s := if a.dead then deadHint s a.line a.ctx else s
  retireAcc s n id { a with st := .done, bad := bad, badCause := if bad = 0 then 0 else 0x03 }

/-- An atomic performed at the home slice on the line's bytes. -/
def performAtomic (s : State) (n id : Nat) (a : Access) (op : AtOp) : State :=
  let s := beforeWrite s a.line
  let s := if (homeLine s a.line).isSome then useDirty s a.line else s
  let bad := badLanes s a
  let r := atomicLanes op s (a.lanes.filter (fun l => !bad.getLsbD l.tid))
  let a' := { a with lanes := r.1 ++ a.lanes.filter (fun l => bad.getLsbD l.tid), st := .done, bad := bad,
                     badCause := if bad = 0 then 0 else 0x03 }
  lockFailed (retireAcc r.2.1 n id a') n a.age r.2.2

/-- An access that missed: its own fill is requested. -/
def missFill (s : State) (n id : Nat) (a : Access) : State :=
  let h := homeSlice (128 * a.line)
  let s := bump s .slc h 0x088 a.ctx
  let s := modCore s n (fun c => { c with accs := SMap.put c.accs id { a with st := .filling } })
  startFill s a.line (.access n id)

/-- A context created with DEADCHK (R183). -/
def deadchkOf (s : State) (ctx : Nat) : Bool :=
  match SMap.get? s.ctxs ctx with
  | some c => c.deadchk
  | none => false

/-- A thread load at the home slice (R173, R174, R180, R183, R198). -/
def sliceLoad (s : State) (n id : Nat) (a : Access) (b : Nat) : State :=
  let home := homeSlice (128 * a.line)
  let here := 16 * dieOf n + sliceHash (128 * a.line)
  match (if home = here then none else findLine s here (isReplica a.line)) with
  | some _ => performLoad (touchLine (bump s .slc here 0x098 a.ctx) here (isReplica a.line)) n id a b
  | none =>
    let w := weevilRead s home a.line a.ctx
    let s := w.2
    if w.1 && deadchkOf s a.ctx then
      retireAcc s n id { a with st := .done, bad := accMask a, badCause := 0x0B }
    else
      let s := evictRed s a.line
      match homeLine s a.line with
      | some _ =>
        let s := demandRead (touchLine (bump s .slc home 0x080 a.ctx) home (isHome a.line)) home (isHome a.line)
        performLoad (addReplica s n a.line a.noalloc) n id a b
      | none => missFill (lateCheck s home a.line) n id a

/-- Whether a store covers its whole line (R174). -/
def wholeLine (b : Nat) (a : Access) : Bool :=
  (List.range 128).all (fun i => a.lanes.any (fun l => decide (l.addr ≤ 128 * a.line + i) && decide (128 * a.line + i < l.addr + b)))

/-- A thread store at the home slice: it waits for an outstanding fill; a miss allocates by a fill, or without one where the
whole line is written, or goes to the channel with NOALLOC (R174, R175). -/
def sliceStore (s : State) (n id : Nat) (a : Access) (b : Nat) : State :=
  let home := homeSlice (128 * a.line)
  let s := evictRed s a.line
  match homeLine s a.line with
  | some _ => performStore (bump s .slc home 0x080 a.ctx) n id a b
  | none =>
    if fillPending s a.line then s
    else if wholeLine b a && !a.noalloc then
      performStore (allocLine s home (SLine.fresh .home a.line)) n id a b
    else if a.noalloc then performStore (bump s .slc home 0x088 a.ctx) n id a b
    else missFill s n id a

/-- A thread atomic at the home slice: an ACCUM goes into a RED line or to the channel's adder (R179); any other combines on
the installed line. -/
def sliceAtomic (s : State) (n id : Nat) (a : Access) (op : AtOp) (noret canonical : Bool) : State :=
  let home := homeSlice (128 * a.line)
  match (if noret then redKindOf op else none) with
  | some kind =>
    if (homeLine s a.line).isNone && fillPending s a.line then s
    else
      let es := a.lanes.map (fun l => (l.addr, BitVec.ofNat 32 l.v.toNat))
      retireAcc (redLeave (accumLine s a.ctx kind canonical a.redOk a.line es) a.line (.access n id)) n id { a with st := .done }
  | none =>
    let s := evictRed s a.line
    match homeLine s a.line with
    | some _ => performAtomic (bump s .slc home 0x080 a.ctx) n id a op
    | none => if fillPending s a.line then s else missFill s n id a

/-- Whether an access that holds a slot may be performed now (R203, R210, R348). -/
def mayPerform (s : State) (n id : Nat) (a : Access) : Bool :=
  a.st == .held && !sleeps s (128 * a.line) && !earlierSame (coreOf s n) id a && !flagWaits s n a && !(a.op.writes && ckptHeld s (128 * a.line))

/-- SLICE_ACCESS (R173): the access is performed at its home slice, or its fill is requested. An ACCUM that meets a RED line
whose eviction is in progress waits behind it and is counted once; those that waited go first, in arrival order (R180). -/
def execSliceAccess (n : Fin 48) (id : Nat) (s : State) : Out :=
  let k := n.val
  match SMap.get? (coreOf s k).accs id with
  | none => .next s
  | some a =>
    if a.place == .home && mayPerform s k id a then
      let accum := match a.op with | .at op true => (redKindOf op).isSome | _ => false
      if redLeaving s a.line then (if accum then .next (redJoin s a.line a.ctx (.access k id)) else .next s)
      else if accum && !redTurn s a.line (.access k id) then .next s
      else
        match a.op with
        | .ld b _ => .next (sliceLoad s k id a b)
        | .st b => .next (sliceStore s k id a b)
        | .at op noret => .next (sliceAtomic s k id a op noret (isCanonical s a.ctx))
        | .pref _ => .next s
    else .next s

/-! ### Fills -/

/-- A fill removed. -/
def dropFill (s : State) (i : Nat) : State := { s with mem := { s.mem with fills := SMap.del s.mem.fills i } }

/-- Whether any codeword of a line is uncorrectable as stored. -/
def lineBad (s : State) (line : Nat) : Bool := s.mem.badCw.any (fun c => c / 4 == line)

/-- A fill's line installed in its home slice, or discarded as a duplicate and counted (R174). A line with an uncorrectable
codeword is not installed. A prefetched line that is not installed ends UNUSED (R198). -/
def installHome (s : State) (line : Nat) (pf : Option Nat) (ctx : Nat) : State :=
  let h := homeSlice (128 * line)
  let s := if (homeLine s line).isSome || lineBad s line then (match pf with | some c => bump s .slc h 0x100 c | none => s) else s
  if (homeLine s line).isSome then bump s .slc h 0x090 ctx
  else if lineBad s line then s
  else allocLine s h { SLine.fresh .home line with pf := pf }

/-- The line that a descriptor waited for: the bytes are captured for every piece of it that waits for them (R190). -/
def jobFill (s : State) (id line : Nat) : State :=
  let s := evictRed s line
  let l : Latch := { bytes := memBytes s (128 * line) 128, bad := s.mem.badCw.filter (fun c => c / 4 == line) }
  { s with jobs := SMap.mod s.jobs id (fun (j : EngJob) => { j with
      lines := j.lines.filter (fun x => x != line)
      going := j.going.map (fun (p : EngPiece) => if p.want.contains line then
        { p with want := p.want.filter (fun x => x != line), got := SMap.put p.got line l } else p) }) }

/-- A fill that the channel has answered returns (R174, R198). A demand access is performed on the line, a RED line that has come up
being evicted first (R180); a prefetched line is marked until its outcome is known. -/
def fillReturns (id : Nat) (s : State) : Out :=
  match SMap.get? s.mem.fills id with
  | none => .next s
  | some f =>
    if f.waiting then .next s
    else
      match f.who with
      | .redEvict => .next s
      | .read _ => .next (dropFill s id)
      | .job jid _ => .next (jobFill (dropFill s id) jid f.line)
      | .prefetch ctx =>
        .next (installHome (dropFill s id) f.line (if f.late then none else some ctx) ctx)
      | .access n aid =>
        match SMap.get? (coreOf s n).accs aid with
        | none => .next (dropFill s id)
        | some a =>
          let noinst := match a.op with | .ld _ _ => a.noalloc | _ => false
          let s := evictRed (dropFill s id) f.line
          let s := if noinst then s else installHome s f.line none a.ctx
          match a.op with
          | .ld b _ => .next (performLoad (addReplica s n a.line a.noalloc) n aid a b)
          | .st b => .next (performStore s n aid a b)
          | .at op _ => .next (performAtomic s n aid a op)
          | .pref _ => .next s

/-- FAR_LINE_FILL (R176, R221): the data of a remote load or far prefetch is here. It is installed as a far line unless it is
stale, which is counted, or the module's own write passed it (R222); then it may be returned to its requester. -/
def execFarLineFill (n : Fin 48) (id : Nat) (s : State) : Out :=
  let k := n.val
  match SMap.get? (coreOf s k).accs id with
  | none => .next s
  | some a =>
    if a.st == .response then
      let glob := globLine a
      let h := farSlice s k glob
      let keyed := a.region.getD 0
      let pf := match a.op with | .pref _ => if a.late then none else some a.ctx | _ => none
      let lost : Nat → State → State := fun off s => match pf with | some c => bump s .slc h off c | none => s
      let s := if a.data.length ≠ 128 then s
        else if a.stale || !(regionAt s keyed).valid then lost 0x100 (bump0 s .slc h 0x0A8)
        else if a.queued then lost 0x0F8 s
        else if (findLine s h (isFar glob)).isSome || !(slcCfg s h).testBit 0 then lost 0x100 s
        else allocLine s h { SLine.fresh .far glob with
          pf := pf, data := a.data, rgn := keyed, epoch := (regionAt s keyed).epoch }
      let s := if a.dead then dropFar s glob else s
      .next (retireAcc s k id { a with st := .done, data := [] })
    else .next s

/-! ### RED evictions -/

/-- RED_EVICTION (R180): the eviction of a RED line starts: its partial goes to the home channel's adder as one ACCUM. -/
def execRedEviction (line : Nat) (s : State) : Out :=
  match homeLine s line with
  | none => .next s
  | some x =>
    if x.kind == .red && !x.evicting then
      .next (startFill (mapLines s (homeSlice (128 * line)) (isHome line) (fun y => { y with evicting := true }))
        line .redEvict)
    else .next s

/-- The end of an eviction (R180): the adder has applied the partial. The line stays RED with the identity where ACCUMs wait
behind the eviction, and leaves the slice otherwise. -/
def redEvicted (s : State) (line : Nat) : State :=
  let h := homeSlice (128 * line)
  match homeLine s line with
  | none => s
  | some x =>
    let s := bump0 (applyPartial s line x.redKind x.part) .slc h 0x0B8
    if !(redWaiters s line).isEmpty then
      bump0 (mapLines s h (isHome line) (fun y =>
        { y with evicting := false, part := List.replicate 32 (redIdentity y.redKind) })) .slc h 0x0B0
    else dropLines s h (isHome line)

/-! ### Channels -/

/-- Codeword numbers of a line whose symbol errors satisfy a test. -/
def codewords (line : Nat) (symErrs : List Nat) (p : Nat → Bool) : List Nat :=
  ((List.range 4).filter (fun i => p (symErrs.getD i 0))).map (fun i => 4 * line + i)

/-- The context a fill is for. -/
def fillCtx (s : State) (f : Fill) : Nat :=
  match f.who with
  | .access n id => match SMap.get? (coreOf s n).accs id with
    | some a => a.ctx
    | none => 255
  | .prefetch c | .job _ c | .read c => c
  | .redEvict => 255

/-- CHANNEL_ACCESS (R169, R170, R188): the channel reads the line's four codewords. Up to two symbol errors in a codeword are
corrected, written back and logged CORRECTED; more are logged CONTAINED and the codeword stays uncorrectable until it is
written. The adder applies an evicted partial; of the line of an engine whose read is over nothing more is to come. -/
def execChannelAccess (id : Nat) (symErrs : List Nat) (s : State) : Out :=
  match SMap.get? s.mem.fills id with
  | none => .next s
  | some f =>
    if f.waiting && !cicHeld s f.line then
      let a := 128 * f.line
      let s := chanReq s a
      let ctx := fillCtx s f
      let fixed := codewords f.line symErrs (fun k => decide (0 < k) && decide (k ≤ 2))
      let bad := codewords f.line symErrs (fun k => decide (2 < k))
      let s := if fixed.isEmpty then s else memErr s 0 a ctx 0
      let s := { s with mem := { s.mem with badCw := bad.foldl insertNat s.mem.badCw } }
      let s := if lineBad s f.line then memErr s 1 a ctx 0x03 else s
      match f.who with
      | .redEvict => .next (redEvicted (dropFill s id) f.line)
      | .read _ => .next (dropFill s id)
      | _ => .next { s with mem := { s.mem with
          fills := SMap.put s.mem.fills id { f with waiting := false, bad := lineBad s f.line } } }
    else .next s

/-- EDRAM_REFRESH (R171): a refresh takes bank time between accesses and changes no state. -/
def execEdramRefresh (_ch : Fin 64) (_bank : Fin 32) (s : State) : Out := .next s

/-! ### Scrubbing (15 R343) -/

/-- The module-local address of line `i` of eDRAM channel `ch` (R168). -/
def channelLine (ch i : Nat) : Nat :=
  let base := (ch / 16) * 0x40000000 + i * 2048
  base + 128 * (sliceHash base ^^^ (ch % 16))

/-- The lines of a memory that one scrubber walks. -/
def scrubLines : ScrubMem → Nat
  | .edram => 524288
  | .ddr => 2 ^ 30
  | .scratchpad => 65536
  | .slice => 8192
  | .weights => 4096
  | .opcache => 2048
  | .tiles => 64
  | .sync => 4096

/-- The number of scrubbers of a memory in the module. -/
def scrubInsts : ScrubMem → Nat
  | .edram => 64
  | .ddr => 8
  | .scratchpad => 48
  | .slice => 64
  | .weights => 48
  | .opcache => 48
  | .tiles => 48
  | .sync => 16

/-- A number for a scrubbed memory. -/
def scrubCode : ScrubMem → Nat
  | .edram => 0
  | .ddr => 1
  | .scratchpad => 2
  | .slice => 3
  | .weights => 4
  | .opcache => 5
  | .tiles => 6
  | .sync => 7

/-- The context that owns a module-local line: by a LOCAL region, or by a launch's scratchpad area (R140, R167). -/
def lineOwner (s : State) (a : Nat) : Option Nat :=
  match s.regions.find? (fun e => e.2.valid && !e.2.kind && e.2.covers a 1) with
  | some e => some e.2.owner
  | none =>
    match spaceOf s a with
    | .spad c => match areaLaunch s c a 1 with
      | some l => (SMap.get? s.que.launches l).map (·.ctx)
      | none => none
    | _ => none

/-- Where a scrubber stands: the address of the line, if the memory has one, and the context that owns it. -/
def scrubTarget (s : State) (m : ScrubMem) (inst i : Nat) : Option Nat × Option Nat :=
  match m with
  | .edram => let a := channelLine inst i; (some a, lineOwner s a)
  | .ddr =>
    let base := 0x10000000000 + (inst / 2) * 0x4000000000 + i * 256
    let a := base + 128 * (ddrChan base ^^^ (inst % 2))
    (some a, lineOwner s a)
  | .scratchpad => let a := spadBase inst + 64 * i; (some a, lineOwner s a)
  | .slice =>
    match (sliceAt s inst)[i]? with
    | some x => let a := 128 * x.line; (some a, if x.kind == .far then some (regionAt s x.rgn).owner else lineOwner s a)
    | none => (none, none)
  | .weights => let a := wbufBase (2 * inst) + 128 * i; (some a, lineOwner s a)
  | .opcache =>
    (none, match (coreOf s inst).ocAreas.find? (fun x => decide (x.base ≤ 128 * i) && decide (128 * i < x.base + x.size)) with
      | some x => (SMap.get? s.que.launches x.launch).map (·.ctx)
      | none => none)
  | .tiles =>
    let owners := (coreOf s inst).slots.flatMap (fun g => match g with
      | some g => g.tiles.map (fun _ => g.ctx)
      | none => [])
    (none, owners[i]?)
  | .sync => (none, (SMap.get? s.sync.objs (4096 * inst + i)).map (·.owner))

/-- The unit type and class of a scrubbed memory's records (15 Table 15.4), its die and instance. -/
def scrubUnit (m : ScrubMem) (inst : Nat) : Nat × Nat × Nat × Nat :=
  match m with
  | .edram => (6, 3, inst / 16, inst % 16)
  | .ddr => (7, 4, inst / 2, inst % 2)
  | .scratchpad => (4, 2, inst / 12, inst % 12)
  | .slice => (5, 2, inst / 16, inst % 16)
  | .weights => (1, 2, inst / 12, inst % 12)
  | .opcache | .tiles => (2, 2, inst / 12, inst % 12)
  | .sync => (0xA, 2, inst / 4, inst % 4)

/-- A record of a scrubber. -/
def scrubErr (s : State) (m : ScrubMem) (inst : Nat) (sev : Fin 4) (a ctx : Nat) : State :=
  match m with
  | .edram | .ddr => memErr s sev a ctx 0
  | _ => let u := scrubUnit m inst; unitErr s sev u.2.2.1 u.1 u.2.2.2 u.2.1 ctx 0 a false

/-- Whether a memory's cluster runs, for the memories inside cores: SRAM in a stopped cluster is not scrubbed. -/
def scrubRuns (s : State) (m : ScrubMem) (inst : Nat) : Bool :=
  match m with
  | .scratchpad | .weights | .opcache | .tiles => coreRuns s inst
  | _ => true

/-- SCRUB_STEP (15 R343): the scrubber reads its next word. A correctable error is written back and logged CORRECTED. An
uncorrectable error in a line of a live context is logged CONTAINED and left; in a line of none it is replaced by zeros and
logged CORRECTED. -/
def execScrubStep (m : ScrubMem) (inst : Nat) (found : ScrubFinding) (s : State) : Out :=
  if inst < scrubInsts m && scrubRuns s m inst then
    let key := scrubCode m * 256 + inst
    let i := SMap.getD s.mem.scrub key 0
    let t := scrubTarget s m inst i
    let a := t.1.getD 0
    let s := { s with mem := { s.mem with scrub := SMap.setD s.mem.scrub key 0 ((i + 1) % scrubLines m) } }
    match found with
    | .clean => .next s
    | .correctable => .next (scrubErr s m inst 0 a (t.2.getD 255))
    | .uncorrectable cw =>
      match t.2 with
      | some c =>
        let s := scrubErr s m inst 1 a c
        .next (match m with
          | .edram | .ddr => { s with mem := { s.mem with badCw := insertNat s.mem.badCw (a / 32 + cw.val) } }
          | .sync => { s with sync := { s.sync with bad := insertNat s.sync.bad (4096 * inst + i) } }
          | _ => s)
      | none =>
        let s := scrubErr s m inst 0 a 255
        let s := if m == .sync then { s with sync := { s.sync with objs := SMap.del s.sync.objs (4096 * inst + i) } } else s
        match t.1 with
        | some a => .next (if m == .scratchpad then memZero s a 64 else memZero (clearBad s (a / 128)) a 128)
        | none => .next s
  else .next s

end Sys2Proof.Machine
end

