-- ==== Sys2Proof/Machine/Codes.lean ====
section
/-! DEFINITION. The cyclic redundancy codes: CRC-32 of IEEE 802.3 (11 R251, 13 R303) and CRC-64 of ECMA-182 (14 R333, 15 R349); log entry 10. -/

namespace Sys2Proof.Machine

/-- One bit of the reflected CRC-32. -/
def crc32Bit (c : Nat) : Nat := if c % 2 = 1 then c / 2 ^^^ 0xEDB88320 else c / 2
/-- One byte of it. -/
def crc32Byte (c : Nat) (b : Byte) : Nat := (List.range 8).foldl (fun c _ => crc32Bit c) (c ^^^ b.toNat)
/-- CRC-32 of the IEEE 802.3 frame check sequence. -/
def crc32 (bs : List Byte) : Nat := bs.foldl crc32Byte 0xFFFFFFFF ^^^ 0xFFFFFFFF
/-- One bit of CRC-64. -/
def crc64Bit (c : Nat) : Nat := if c.testBit 63 then (c * 2 % 2 ^ 64) ^^^ 0x42F0E1EBA9EA3693 else c * 2
/-- One byte of it. -/
def crc64Byte (c : Nat) (b : Byte) : Nat := (List.range 8).foldl (fun c _ => crc64Bit c) (c ^^^ (b.toNat * 2 ^ 56))
/-- CRC-64 of ECMA-182: initial value 0, no final complement. -/
def crc64 (bs : List Byte) : Nat := bs.foldl crc64Byte 0

/-- CRC-32 of "123456789" is 0xCBF43926, the check value of the IEEE 802.3 code. -/
theorem crc32_check : crc32 [0x31, 0x32, 0x33, 0x34, 0x35, 0x36, 0x37, 0x38, 0x39] = 0xCBF43926 := by decide +kernel

/-- CRC-64 of "123456789" is 0x6C40DF5F0B497347, the check value of ECMA-182. -/
theorem crc64_check : crc64 [0x31, 0x32, 0x33, 0x34, 0x35, 0x36, 0x37, 0x38, 0x39] = 0x6C40DF5F0B497347 := by decide +kernel

end Sys2Proof.Machine
end

