-- ==== Sys2Proof/Machine/Regs.lean ====
section
/-! DEFINITION. The register space (20 R443, R444, Table 20.1): addresses, register widths, who may read and write what (08 R167
and the owning chapters), and how a register or doorbell access of a thread, the host or firmware is taken and ended (00 R5-R7,
08 R459). -/

namespace Sys2Proof.Machine

/-! ### Addresses -/

/-- The die-0-only blocks in `[0, 0x40000)` of a die's block. -/
def lowBlock (o : Nat) : Option (RBlk × Nat × Nat) :=
  if o < 0x1000 then some (.pwr, 0, o)
  else if o < 0x2000 then some (.sec, 0, o - 0x1000)
  else if o < 0x3000 then some (.dpt, 0, o - 0x2000)
  else if o < 0x4000 then some (.err, 0, o - 0x3000)
  else if o < 0x5000 then some (.que, 0, o - 0x4000)
  else if o < 0x6000 then some (.ftm, 0, o - 0x5000)
  else if o < 0x8000 then some (.rdx, 0, o - 0x6000)
  else if o < 0xA000 then some (.upd, 0, o - 0x8000)
  else if o < 0xC000 then some (.ctxlog, (o - 0xA000) / 32, (o - 0xA000) % 32)
  else if o < 0x20000 then none
  else if o < 0x40000 then some (.rgn, 0, o - 0x20000)
  else none

/-- The block of a core at a sub-offset (Table 20.1). -/
def coreBlock (n sub : Nat) : Option (RBlk × Nat × Nat) :=
  let o := sub % 0x10000
  match sub / 0x10000 with
  | 0 => some (.mat, n, o)
  | 1 => some (.vec, n, o)
  | 2 => some (.thr, n, o)
  | 3 => some (.lsu, n, o)
  | 4 => some (.num, n, o)
  | _ => none

/-- The block, the module-wide unit and the offset within the block of an address of the register space or of the BAR0-only
blocks (Table 20.1, 16 Table 16.1). -/
def regSplit (a : Nat) : Option (RBlk × Nat × Nat) :=
  if bar0Base ≤ a then
    let o := a - bar0Base
    if 0x18000 ≤ o && o < 0x18090 then some (.mbx, 0, o - 0x18000)
    else if 0x19000 ≤ o && o < 0x19030 then some (.hst, 0, o - 0x19000)
    else none
  else if a < regBase then none
  else
    let d := (a - regBase) / 0x10000000
    let o := (a - regBase) % 0x10000000
    if 4 ≤ d then none
    else if o < 0x40000 then (if d = 0 then lowBlock o else none)
    else if 0x100000 ≤ o && o < 0x108000 then some (.trk, d, o - 0x100000)
    else if 0x200000 ≤ o && o < 0x340000 then some (.syn, d, o - 0x200000)
    else if 0x400000 ≤ o && o < 0x508000 then some (.fab, d, o - 0x400000)
    else if 0x600000 ≤ o && o < 0x604000 then some (.lnk, d + 4 * ((o - 0x600000) / 0x1000), o % 0x1000)
    else if 0x700000 ≤ o && o < 0x700380 then some (.pmc, d, o - 0x700000)
    else if 0x800000 ≤ o && o < 0x810000 then some (.slc, 16 * d + (o - 0x800000) / 0x1000, o % 0x1000)
    else if 0x900000 ≤ o && o < 0x904000 then some (.xfr, 4 * d + (o - 0x900000) / 0x1000, o % 0x1000)
    else if 0x1000000 ≤ o && o < 0x1C00000 then coreBlock (12 * d + (o - 0x1000000) / 0x100000) (o % 0x100000)
    else none

/-- Whether an offset is one of `lo, lo + 8, …, hi`. -/
def rng (lo hi off : Nat) : Bool := decide (lo ≤ off) && decide (off ≤ hi) && off % 8 == lo % 8

/-- The 32-bit registers of a block. -/
def reg32 (b : RBlk) (off : Nat) : Bool :=
  match b with
  | .pwr => [0x000, 0x018, 0x020, 0x028, 0x030, 0x308, 0x310].contains off || rng 0x040 0x0B8 off
  | .sec => rng 0x000 0x010 off
  | .dpt => false
  | .err => off = 0x008 || off = 0x110
  | .que => off = 0x008
  | .ftm => rng 0x000 0x008 off
  | .rdx | .upd => off = 0x008 || off = 0x018
  | .ctxlog => false
  | .rgn => off % 32 = 0x10 || off % 32 = 0x14
  | .trk => false
  | .syn => off = 0x008 || off = 0x100 || off = 0x108 || (decide (0x100000 ≤ off) && off % 16 == 0)
  | .fab => off = 0x000 || off = 0x010
  | .lnk => off = 0x000 || off = 0x020 || off = 0x028
  | .pmc => off = 0x008
  | .slc => off = 0x000 || off = 0x008 || off = 0x018
  | .xfr | .lsu => off = 0x008
  | .mat => [0x000, 0x010, 0x020, 0x040, 0x048].contains off
  | .vec => off = 0x000 || off = 0x010 || off = 0x020
  | .thr => off = 0x000 || off = 0x018 || off = 0x020
  | .num => rng 0x00 0x08 off
  | .mbx => off % 8 = 0
  | .hst => off = 0x18

/-- The 64-bit registers of a block. -/
def reg64 (b : RBlk) (off : Nat) : Bool :=
  match b with
  | .pwr => [0x008, 0x010, 0x0C0, 0x0C8, 0x300, 0x318].contains off || rng 0x100 0x1F8 off || rng 0x200 0x250 off
  | .sec => rng 0x018 0x028 off || rng 0x100 0x1F8 off
  | .dpt => rng 0x000 0x7F8 off
  | .err => off = 0x000 || rng 0x010 0x040 off || rng 0x100 0x108 off || rng 0x118 0x160 off
  | .que => off = 0x000 || rng 0x010 0x050 off
  | .ftm => rng 0x010 0x018 off
  | .rdx => off = 0x000 || off = 0x010 || rng 0x020 0x080 off || rng 0x1000 0x17F8 off
  | .upd => off = 0x000 || off = 0x010 || rng 0x020 0x088 off || rng 0x1000 0x1038 off
  | .ctxlog => rng 0x00 0x10 off
  | .rgn => off % 32 = 0x00 || off % 32 = 0x08 || off % 32 = 0x18
  | .trk => off % 8 = 0
  | .syn => off = 0x000 || off = 0x010 || rng 0x020 0x058 off || off = 0x110 || rng 0x140 0x178 off
      || (decide (0x100000 ≤ off) && off % 16 == 8)
  | .fab => off = 0x008 || rng 0x018 0x078 off || rng 0x100000 0x107FF8 off
  | .lnk => rng 0x008 0x018 off || rng 0x030 0x078 off
  | .pmc => off = 0x000 || rng 0x010 0x018 off || rng 0x100 0x178 off || rng 0x200 0x278 off || rng 0x300 0x378 off
  | .slc => off = 0x010 || rng 0x040 0x100 off
  | .xfr => off = 0x000 || rng 0x010 0x038 off
  | .mat => off = 0x008 || off = 0x018 || rng 0x028 0x038 off || rng 0x050 0x088 off
  | .vec => off = 0x008 || off = 0x018 || rng 0x028 0x068 off
  | .thr => rng 0x008 0x010 off || rng 0x028 0x070 off
  | .lsu => off = 0x000 || rng 0x010 0x030 off
  | .num => rng 0x10 0x38 off
  | .mbx => false
  | .hst => rng 0x00 0x10 off || rng 0x20 0x28 off

/-- The width in bytes of the register at an offset of a block; none for unused bytes. -/
def regWidth (b : RBlk) (off : Nat) : Option Nat :=
  if reg32 b off then some 4 else if reg64 b off then some 8 else none

/-- Whether `[off, off + n)` touches a register of the block. -/
def touchesReg (b : RBlk) (off n : Nat) : Bool :=
  (List.range (n + 7)).any (fun i =>
    let r := off + n - 1 - i
    decide (i ≤ off + n - 1) && (match regWidth b r with | some w => decide (off < r + w) | none => false))

/-! ### Rights -/

/-- The cluster whose clock a block runs on, for the blocks of clusters (18 R409). -/
def blkCluster (b : RBlk) (u : Nat) : Option Nat :=
  match b with
  | .mat | .vec | .thr | .lsu | .num => some (clusterOf u)
  | .xfr => some u
  | _ => none

/-- Whether a write to a block is held because its clock is stopped (18 R410). -/
def blkStopped (s : State) (b : RBlk) (u : Nat) : Bool :=
  match blkCluster b u with
  | some k => clStopped (clusterAt s k).st
  | none => false

/-- Whether a block belongs to a DISABLED cluster. -/
def blkOff (s : State) (b : RBlk) (u : Nat) : Bool :=
  match blkCluster b u with
  | some k => (clusterAt s k).st == .disabled
  | none => false

/-- The owner of a tracker; 255 for none (03 R61). -/
def trackerOwner (s : State) (i : Nat) : Nat := (SMap.getD s.trackers i Tracker.off).owner

/-- Whether a context may load from a register (the access paragraphs of the owning chapters). -/
def ctxReads (s : State) (ctx : Nat) (b : RBlk) (u off : Nat) : Bool :=
  match b with
  | .dpt | .mat | .vec | .thr | .lsu | .xfr | .pmc | .rdx | .upd => true
  | .ctxlog => u == ctx
  | .trk => trackerOwner s (1024 * u + off / 32) == ctx
  | .err => off = 0x108 || off = 0x118 || off = 0x120
  | .pwr => off = 0x010 || rng 0x040 0x0B8 off || off = 0x0C0
  | _ => false

/-- Whether the host may read a block (19 R436: the rights its chapter grants). -/
def hostReads (b : RBlk) (off : Nat) : Bool :=
  match b with
  | .pwr | .sec | .dpt | .err | .que | .ctxlog | .rgn | .syn | .mbx | .hst | .pmc | .lnk | .ftm | .fab => true
  | .num => off = 0
  | _ => false

/-! ### Accesses -/

/-- A register or doorbell access that is due. -/
structure Req where
  thread : Bool
  host : Bool
  ctx : Nat
  core : Nat
  addr : Nat
  bytes : Nat
  value : Nat
  deriving DecidableEq, Repr

/-- The base of the register window of BAR0 (19 Table 19.6). -/
def rwinBase (s : State) : Nat := regGetD s (regAddr .hst 0 0x10) 0xFF0000000000

/-- Whether the host reaches an address through BAR0: the register window, the MBX and HST blocks, the doorbells (16
Table 16.1). -/
def hostSees (s : State) (a : Nat) : Bool :=
  decide (bar0Base ≤ a) || (decide (rwinBase s ≤ a) && decide (a < rwinBase s + 0x400000))
  || (decide (0xFE0000000000 ≤ a) && decide (a < 0xFE0000800000))

/-- Whether a store to a place acts after an implicit FENCE of scope 1: a doorbell (16 R374), RDX_ARM (13 R306) and UPD_ARM (14 R325). -/
def fencedStore (pl : Place) (addr : Nat) : Bool :=
  pl == .door || addr == regAddr .rdx 0 0 || addr == regAddr .upd 0 0

/-- The pending access of a thread group that a command performs next: it holds a slot and may be performed. -/
def dueAccess (s : State) (n id : Nat) (store : Bool) : Option (Access × Lane) :=
  match SMap.get? (coreOf s n).accs id with
  | none => none
  | some a =>
    if a.st == .held && (a.place == .regs || a.place == .door) && a.op.writes == store && !earlierSame (coreOf s n) id a
        && !flagWaits s n a then
      match a.todo with
      | [] => none
      | t :: _ =>
        ((a.lanes.find? (fun (l : Lane) => l.tid == t)).filter (fun (l : Lane) =>
          !store || !fencedStore a.place l.addr || fenceDone s n a.age a.ord 1 (accMask a))).map (fun (l : Lane) => (a, l))
    else none

/-- The access a command makes, while the module is not held in reset: the command's own values for the host and firmware, the pending access's for a thread. -/
def reqOf (s : State) (src : RegSrc) (store : Bool) (addr bytes value : Nat) : Option Req :=
  if s.pkg.held then none
  else
  match src with
  | .host =>
    if hostSees s addr && (bytes = 1 || bytes = 2 || bytes = 4 || bytes = 8) then
      some { thread := false, host := true, ctx := 255, core := 255, addr := addr, bytes := bytes, value := value % 2 ^ (8 * bytes) }
    else none
  | .firmware =>
    some { thread := false, host := false, ctx := 255, core := 255, addr := addr, bytes := bytes, value := value % 2 ^ (8 * bytes) }
  | .access n id =>
    (dueAccess s n.val id store).map (fun e =>
      { thread := true, host := false, ctx := e.1.ctx, core := n.val, addr := e.2.addr, bytes := e.1.op.size,
        value := e.2.v.toNat })

/-- The end of an access: a thread's lane receives the value read; after the last lane the access is performed. -/
def reqDone (src : RegSrc) (v : Nat) (s : State) : State :=
  match src with
  | .access n id =>
    match SMap.get? (coreOf s n.val).accs id with
    | none => s
    | some a =>
      let t := a.todo.headD 0
      let a : Access := { a with
        todo := a.todo.drop 1,
        lanes := a.lanes.map (fun (l : Lane) => if l.tid = t then { l with old := BitVec.ofNat 64 v } else l) }
      if a.todo.isEmpty then retireAcc s n.val id { a with st := .done }
      else modCore s n.val (fun c => { c with accs := SMap.put c.accs id a })
  | _ => s

/-- A refusal counted in the context's fault log (08 R199). -/
def refuse (q : Req) (store : Bool) (s : State) : State :=
  if q.thread then ctxRefuse s q.ctx q.addr q.core store else s

/-- A write command for registers of one block with a behaviour of their own: where the access is due, names such a register at its
own width and its block runs, `act` takes the unit, the offset and the value; a writer without the right is refused. -/
def ctlWrite (w : RegWr) (b : RBlk) (at_ : Nat → Bool) (may : State → Req → Nat → Nat → Bool)
    (act : Nat → Nat → Nat → State → State) (s : State) : Host.Outcome State Fault Refusal :=
  match reqOf s w.src true w.addr w.bytes w.value.toNat with
  | none => .next s
  | some q =>
    match regSplit q.addr with
    | none => .next s
    | some (b', u, off) =>
      if b' == b && at_ off && regWidth b off == some q.bytes && q.addr % q.bytes == 0 && !blkStopped s b u
          && !blkOff s b u then
        .next (reqDone w.src 0 (if may s q u off then act u off q.value s else refuse q true s))
      else .next s

/-- A write command whose effect depends on the writer: as `ctlWrite`. -/
def ctlReq (w : RegWr) (b : RBlk) (at_ : Nat → Bool) (may : State → Req → Nat → Nat → Bool)
    (act : Req → Nat → Nat → State → State) (s : State) : Host.Outcome State Fault Refusal :=
  match reqOf s w.src true w.addr w.bytes w.value.toNat with
  | none => .next s
  | some q =>
    match regSplit q.addr with
    | none => .next s
    | some (b', u, off) =>
      if b' == b && at_ off && regWidth b off == some q.bytes && q.addr % q.bytes == 0 && !blkStopped s b u
          && !blkOff s b u then
        .next (reqDone w.src 0 (if may s q u off then act q u off s else refuse q true s))
      else .next s

/-- Only firmware writes. -/
def fwOnly : State → Req → Nat → Nat → Bool := fun _ q _ _ => !q.thread && !q.host
/-- Firmware and the host write. -/
def fwHost : State → Req → Nat → Nat → Bool := fun _ q _ _ => !q.thread
/-- Contexts and firmware write. -/
def ctxFw : State → Req → Nat → Nat → Bool := fun _ q _ _ => !q.host

/-- A counter-clearing bit of a control register (00 R5: the operand 0 clears nothing). -/
def clearIf (v : Nat) (bit : Nat) (b : RBlk) (offs : List Nat) (u : Nat) (s : State) : State :=
  if v.testBit bit then clearRegs s b u offs else s

/-- The offsets `lo, lo + 8, …, hi`. -/
def offs (lo hi : Nat) : List Nat := (List.range ((hi - lo) / 8 + 1)).map (fun i => lo + 8 * i)

/-! ### Plain registers (00 R5, R7) -/

/-- A register without behaviour of its own: its RW bits, its W1C bits, its reset value, the values R7 accepts, and whether the
host may write it. -/
structure Plain where
  rw : Nat
  w1c : Nat
  reset : Nat
  legal : Nat → Bool
  host : Bool

/-- The plain registers. -/
def plainReg (b : RBlk) (u off : Nat) : Option Plain :=
  let any : Nat → Bool := fun _ => true
  match b with
  | .pwr => if off = 0x000 then some ⟨0xFFFF, 0, 0xC8, any, false⟩ else if off = 0x018 then some ⟨0xFFFFFFFF, 0, 1400000, any, false⟩ else none
  | .ftm => if off = 0x000 then some ⟨0xF3, 0, 0, fun v => v % 4 != 3, false⟩ else none
  | .rdx => if off = 0x008 then some ⟨0x1FF, 0, 0x100, fun v => decide (1 ≤ v % 512) && decide (v % 512 ≤ 256), false⟩ else none
  | .upd => if off = 0x008 then some ⟨0x7, 0, 0x4, fun v => decide (1 ≤ v % 8) && decide (v % 8 ≤ 4), false⟩ else none
  | .syn =>
    if off = 0x010 then some ⟨0xFFFFFFFFFFFF, 0, 0, any, false⟩
    else if u ≠ 0 then none
    else if off = 0x100 then some ⟨0x1FFFF, 0, 0, any, false⟩
    else if rng 0x140 0x178 off then some ⟨0xFFFFFFFFFFFF, 0, 0, any, false⟩
    else none
  | .fab =>
    if off = 0x000 then some ⟨0xFFFFFFF, 0, 0x800805, any, false⟩
    else if rng 0x100000 0x107FF8 off then some ⟨0x8000000FFFFFFFFF, 0, 0, fun v => !v.testBit 63 || field v 32 4 != 0, false⟩
    else none
  | .lnk => if off = 0x000 then some ⟨0xFF00FF01, 0, 0x4001101, any, false⟩ else none
  | .slc =>
    if off = 0x000 then some ⟨0xF, 0, 0xF, any, false⟩
    else if off = 0x008 then some ⟨0xF, 0, 0, fun v => decide (v % 16 ≤ 12), false⟩
    else if rng 0x040 0x078 off then
      some ⟨if off % 16 = 0 then 0xFFFFFFFFF001 else 0xFFFFFFFFF000, 0, 0, any, false⟩
    else none
  | .mat => if off = 0x000 then some ⟨0x103, 0, 0x3, any, false⟩ else none
  | .vec => if off = 0x010 then some ⟨0, 0x1F, 0, any, false⟩ else none
  | .thr => if off = 0x000 then some ⟨0x1FF, 0, 0x110, any, false⟩ else none
  | .num => if off = 0x00 then some ⟨0, 0x7F, 0, any, true⟩ else none
  | .hst =>
    if off = 0x08 then some ⟨0xFFFFF0000000, 0, 0, any, true⟩
    else if off = 0x10 then some ⟨0xFFFFFFC00000, 0, 0xFF0000000000, any, true⟩
    else none
  | _ => none

/-- A plain register's new value under its access code (00 Table 0.1); an illegal value is discarded whole (R7). -/
def Plain.write (p : Plain) (old v : Nat) : Nat :=
  if p.legal v then (v &&& p.rw) ||| ((old &&& p.w1c) &&& (p.w1c ^^^ (v &&& p.w1c))) else old

/-- Whether a BAR2 base leaves its window inside the 48-bit space (19 Table 19.6); `size` is the BAR's. -/
def bar2Fits (v size : Nat) : Bool := decide ((v &&& 0xFFFFF0000000) + size ≤ 2 ^ 48)

/-- The size of BAR2: 256 MiB at reset, and what the host's configuration chooses, up to 64 GiB (19 R436, log entry 99). -/
def bar2Size (s : State) : Nat := 2 ^ s.pkg.barLog

/-- A plain register written. -/
def plainPut (s : State) (b : RBlk) (u off : Nat) (p : Plain) (v : Nat) : State :=
  let a := regAddr b u off
  if b == .hst && off = 0x08 && !bar2Fits v (bar2Size s) then s
  else regPutD s a p.reset (p.write (regGetD s a p.reset) v)

/-- Whether a register has a write command of its own in the table. -/
def ownWrite (b : RBlk) (off : Nat) : Bool :=
  match b with
  | .pwr => off = 0x030
  | .sec => off = 0x010
  | .err => off = 0x008 || off = 0x100 || off = 0x110
  | .que => off = 0x008
  | .rdx | .upd => off = 0x000 || off = 0x018
  | .trk => off % 32 = 0x18
  | .syn => off = 0x008 || off = 0x108
  | .fab => off = 0x010
  | .lnk => off = 0x020
  | .pmc => off = 0x008 || off = 0x010 || rng 0x100 0x178 off
  | .slc => off = 0x018
  | .xfr | .lsu => off = 0x008
  | .mat => off = 0x040 || off = 0x048
  | .vec => off = 0x000 || off = 0x020
  | .thr => off = 0x018 || off = 0x020
  | .num => off = 0x08
  | .mbx => off % 16 = 0
  | .hst => off = 0x18
  | _ => false

/-- A write to a register without a command of its own (00 R5-R7, 20 R444). Unassigned bytes, a wrong width or
alignment and the DPT window (02 R19) discard it; a context's store to a register it may not write is refused and counted
(08 R167); read-only registers do not change. -/
def regWrite (w : RegWr) (s : State) : Host.Outcome State Fault Refusal :=
  match reqOf s w.src true w.addr w.bytes w.value.toNat with
  | none => .next s
  | some q =>
    if decide (0xFE0000000000 ≤ q.addr) && decide (q.addr < 0xFE0000800000) then .next s
    else
      match regSplit q.addr with
      | none => .next (reqDone w.src 0 s)
      | some (b, u, off) =>
        if blkStopped s b u then .next s
        else if !touchesReg b off q.bytes || b == .dpt || blkOff s b u then .next (reqDone w.src 0 s)
        else if regWidth b off != some q.bytes || q.addr % q.bytes != 0 then .next (reqDone w.src 0 s)
        else if ownWrite b off then .next s
        else
          match plainReg b u off with
          | none => .next (reqDone w.src 0 (refuse q true s))
          | some p =>
            if q.thread || (q.host && !p.host) then .next (reqDone w.src 0 (refuse q true s))
            else .next (reqDone w.src 0 (plainPut s b u off p q.value))

end Sys2Proof.Machine
end

