-- ==== Sys2Proof/Machine/Queue.lean ====
section
/-! DEFINITION. The queue block's operations (16 R373-R376, R380): cached descriptors, appending entries, NOTIFY signals and MSI-X
messages, device events; and the sending of signals by the module's own units (10 R225, R226, R460). -/

namespace Sys2Proof.Machine

/-! ### Virtual sync IDs (10 R225, Table 10.1) -/

/-- The address of a context's translation entry in the tables that die `d` uses (R225). -/
def xlatAddr (s : State) (d ctx vs : Nat) : Nat := regGet s (regAddr .syn d 0x010) + 0x40000 * ctx + 4 * vs
/-- A context's translation entry as firmware reads it, from the tables of die 0. -/
def xlatRaw (s : State) (ctx vs : Nat) : Nat := memNat s (xlatAddr s 0 ctx vs) 4
/-- Whether a translation met an uncorrectable entry (Table 10.6). -/
def xEcc (e : Nat) : Bool := e.testBit 32
/-- The VALID entries of every context, as firmware's tables hold them: context times 65,536 plus virtual ID, and the entry. -/
def xlatEntries (s : State) : List (Nat × Nat) :=
  let base := xlatAddr s 0 0 0
  (s.mem.cells.filter (fun c => decide (base + 2 ≤ c.1) && decide (c.1 < base + 255 * 0x40000) && (c.1 - base) % 4 == 2 && c.2.getLsbD 0)).map
    (fun c => ((c.1 - base) / 4, memNat s (c.1 - 2) 4))
/-- VALID. -/
def xValid (e : Nat) : Bool := e.testBit 16
/-- SIG. -/
def xSig (e : Nat) : Bool := e.testBit 17
/-- WAIT. -/
def xWait (e : Nat) : Bool := e.testBit 18
/-- OWN. -/
def xOwn (e : Nat) : Bool := e.testBit 19
/-- OBJECT. -/
def xObj (e : Nat) : Nat := e % 65536

/-- The entry that the segment of cluster `k` uses for a virtual ID: the cached one, else the one in its die's table; an entry that is uncorrectable
as stored shows as such and as not VALID. -/
def xlatSeen (s : State) (k ctx vs : Nat) : Nat :=
  match (SMap.getD s.sync.cache k []).find? (fun x => x.1 == ctx * 65536 + vs) with
  | some x => x.2
  | none =>
    let a := xlatAddr s (k / 4) ctx vs
    if rangeBad s a 4 then 2 ^ 32 else memNat s a 4

/-- A virtual ID translated by the segment of cluster `k` (R460): a miss is counted, and the entry is cached in one of 2,048 places;
which cached entry leaves is a free value. An uncorrectable entry is logged and not cached (Table 10.6). -/
def translate (s : State) (k ctx vs : Nat) : Nat × State :=
  let key := ctx * 65536 + vs
  let c := SMap.getD s.sync.cache k []
  let e := xlatSeen s k ctx vs
  if c.any (fun x => x.1 == key) then (e, s)
  else
    let s := bump0 s .syn (k / 4) 0x058
    if xEcc e then (e, unitErr s 1 (k / 4) 0xA (k % 4) 2 ctx 0x24 (xlatAddr s (k / 4) ctx vs) false)
    else
      let r : Nat × State := if c.length < 2048 then (2048, s) else drawNat s
      let c' := (key, e) :: (if c.length < 2048 then c else dropAt c (r.1 % 2048))
      (e, { r.2 with sync := { r.2.sync with cache := SMap.put r.2.sync.cache k c' } })

/-- An operation sent to an object. -/
def syncSend (s : State) (m : SyncMsg) : State := { s with sync := { s.sync with msgs := s.sync.msgs ++ [m] } }

/-- A signal sent by a unit of the module whose operations start in cluster `k` (R460). A virtual ID that is not VALID or grants no
SIG signals nothing (log entry 19). -/
def hwSignal (s : State) (k ctx vs v : Nat) : State :=
  let t := translate s k ctx vs
  if xValid t.1 && xSig t.1 then
    syncSend t.2 { obj := xObj t.1, frm := none, ctx := ctx, pc := 0, ord := 0, mask := 0, op := .signal (BitVec.ofNat 32 v) false }
  else t.2

/-! ### Descriptors (16 R373) -/

/-- The base of the doorbells (Table 16.13). -/
def doorBase : Nat := 0xFE0000000000
/-- A VALID queue's descriptor; a queue that QUEUE_DESTROY is ending is none (R371). -/
def descOf (s : State) (qid : Nat) : Option QDesc := (SMap.get? s.que.descs qid).filter (fun d => !d.closing)
/-- A descriptor changed. -/
def modDesc (s : State) (qid : Nat) (f : QDesc → QDesc) : State :=
  { s with que := { s.que with descs := SMap.mod s.que.descs qid f } }
/-- A descriptor read through the cache of 4,096, the least recently used leaving (R373). -/
def touchDesc (s : State) (qid : Nat) : State :=
  if s.que.cached.contains qid then
    { s with que := { s.que with cached := qid :: s.que.cached.filter (fun x => x != qid) } }
  else
    bump0 { s with que := { s.que with cached := qid :: s.que.cached.take 4095 } } .que 0 0x020

/-- The entries a queue holds. -/
def qHeld (d : QDesc) : Nat := (d.prod - d.cons).toNat
/-- Whether a queue has room for an entry. -/
def qRoom (d : QDesc) : Bool := decide (qHeld d < 2 ^ d.log2n)
/-- The bytes of an entry. -/
def qSize (d : QDesc) : Nat := 32 * d.esize
/-- The address of the ring slot of an index. -/
def qSlot (d : QDesc) (i : W32) : Nat := d.ring + qSize d * (i.toNat % 2 ^ d.log2n)

/-- An MSI-X vector raised (19 R435). -/
def raiseMsix (s : State) (v : Nat) : State := { s with que := { s.que with msix := s.que.msix ++ [v] } }

/-- The MSI-X message of a queue whose PROD advanced, at most one per microsecond (R375); one that would come earlier is due at the end
of the microsecond (log entry 20). -/
def queueIrq (s : State) (qid : Nat) : State :=
  match descOf s qid with
  | none => s
  | some d =>
    if !d.irq then s
    else
      let early := match d.lastIrq with | some t => decide (s.now < t + 1000) | none => false
      if early then modDesc s qid (fun d => { d with irqDue := true })
      else raiseMsix (modDesc s qid (fun d => { d with lastIrq := some s.now, irqDue := false })) d.vector

/-- PROD advanced by `k` (R375): the entries are counted, NOTIFY is signalled, the vector raised; the acceptance of a LAUNCH queue's
entries is numbered (R378). -/
def produced (s : State) (qid k : Nat) : State :=
  if k = 0 then s
  else
    match descOf s qid with
    | none => s
    | some d =>
      let kk : W32 := BitVec.ofNat 32 k
      let s := { s with que := { s.que with stamp := s.que.stamp + 1 } }
      let s := modDesc s qid (fun d =>
        { d with prod := d.prod + kk, appended := d.appended + kk,
                 bells := if d.ty = 0 then d.bells ++ [(d.prod + kk, s.que.stamp)] else d.bells })
      let s := if d.notifyEn then hwSignal s 0 d.owner d.notify k else s
      queueIrq s qid

/-- Whether an entry can be written now: there is room, and no write to its slot is held (15 R348). -/
def canAppend (s : State) (d : QDesc) : Bool := qRoom d && !rangeHeld s (qSlot d d.prod) (qSize d)

/-- An entry written at PROD, padded with zeros to the entry size, before PROD advances (R375). -/
def appendEntry (s : State) (qid : Nat) (d : QDesc) (bs : List Byte) : State :=
  produced (engWrite s d.owner (qSlot d d.prod) (padTo (qSize d) 0 bs) false) qid 1

/-- Whether earlier entries wait for the queue. -/
def qWaits (s : State) (qid : Nat) : Bool := s.que.held.any (fun h => h.qid == qid)

/-- A device event counted where it is written (Table 16.20). -/
def countEvent (s : State) (bs : List Byte) : State := if nth bs 1 0 = 0 then bump0 s .que 0 0x038 else s

/-- An entry of hardware or firmware: appended, or held in order until its queue has room (R376). Entries for a queue that is not
VALID are discarded (R371). -/
def deliverEntry (s : State) (qid : Nat) (bs : List Byte) (core : Option Nat) : State :=
  match descOf s qid with
  | none => s
  | some d =>
    let s := touchDesc s qid
    if qWaits s qid || !canAppend s d then
      { s with que := { s.que with held := s.que.held ++ [{ qid := qid, bytes := bs, since := s.now, core := core }] } }
    else countEvent (appendEntry s qid d bs) bs

/-- A device event (R380, Table 16.16). -/
def eventBytes (code b2 b3 w4 w8 w10 ftime : Nat) : List Byte :=
  [BitVec.ofNat 8 code, 0, BitVec.ofNat 8 b2, BitVec.ofNat 8 b3] ++ natBytes 4 w4 ++ natBytes 8 w8 ++ natBytes 8 w10
    ++ natBytes 8 ftime

/-- A device event posted to a context's event queue. -/
def postEvent (s : State) (ctx code b2 b3 w4 w8 w10 : Nat) (core : Option Nat) : State :=
  match SMap.get? s.ctxs ctx with
  | none => s
  | some c => deliverEntry s c.evq (eventBytes code b2 b3 w4 w8 w10 s.ftime) core

/-! ### Launch entries that start or fail (16 R377, Table 16.17) -/

/-- An entry whose groups are all placed, or that has failed: CONS advances past finished entries (R378). -/
def consFinished : Nat → W32 → List W32 → W32 × List W32
  | 0, c, l => (c, l)
  | fuel + 1, c, l => if l.contains c then consFinished fuel (c + 1) (l.filter (fun x => x != c)) else (c, l)

/-- An entry of a queue finished. -/
def entryDone (s : State) (qid : Nat) (i : W32) : State :=
  modDesc s qid (fun d =>
    let r := consFinished (d.done.length + 1) d.cons (d.done ++ [i])
    { d with cons := r.1, done := r.2 })

/-- A LAUNCH entry fails: LAUNCH_FAILED is posted and the entry consumed (R377). -/
def launchFail (s : State) (qid ctx tag reason : Nat) (i : W32) : State :=
  let s := bump0 s .que 0 0x030
  let s := postEvent s ctx 0x04 reason 0 qid tag i.toNat none
  entryDone s qid i

/-- A launch that has been taken starts (R377). -/
def launchStart (s : State) (id : Nat) : State :=
  bump0 { s with que := { s.que with launches := SMap.mod s.que.launches id (fun l => { l with started := true }) } } .que 0 0x028

/-- A launch forgotten: its kernel is no longer held by it (02 R31). -/
def dropLaunch (s : State) (id : Nat) (l : Launch) : State :=
  { s with
    que := { s.que with launches := SMap.del s.que.launches id }
    kernels := SMap.mod s.kernels l.kernel (fun k => { k with held := k.held.filter (fun x => x != id) }) }

/-- The start condition of a LAUNCH queue's entry ends: MET starts it, any other outcome fails it with START_LOST (R377). -/
def startOutcome (s : State) (qid : Nat) (met : Bool) : State :=
  match descOf s qid with
  | none => s
  | some d =>
    match d.startWait with
    | none => s
    | some (id, _) =>
      let s := modDesc s qid (fun d => { d with startWait := none })
      match SMap.get? s.que.launches id with
      | none => s
      | some l =>
        if met then launchStart s id
        else launchFail (dropLaunch s id l) qid l.ctx l.tag 0x07 l.index

end Sys2Proof.Machine
end

