-- ==== Sys2Proof/Machine/Seq.lean ====
section
/-! DEFINITION. What the reduction and update sequencers share: writes and signals that wait for the checkpoint engine (15 R348), trees and ranks
(13 R301, R302), the ends of buckets and runs that the synchronisation unit brings (13 R318, 14 R334). -/

namespace Sys2Proof.Machine

/-! ### Writes and signals -/

/-- The context of a held item. -/
def HeldSeq.ctx : HeldSeq → Nat
  | .write c _ _ => c
  | .signal _ c _ => c

/-- Whether a held item may go now. -/
def HeldSeq.free (s : State) : HeldSeq → Bool
  | .write _ a bs => !rangeHeld s a bs.length
  | .signal _ _ _ => true

/-- A held item performed: sequencers write NOALLOC (14 R330). -/
def HeldSeq.act (s : State) : HeldSeq → State
  | .write c a bs => engWrite s c a bs true
  | .signal k c vs => hwSignal s k c vs 1

/-- A write or signal of a sequencer: performed, or held behind the blocks that the checkpoint engine has not taken, behind the fill that its line
waits for (08 R174) and behind earlier held items of its context. -/
def seqDo (s : State) (h : HeldSeq) : State :=
  if s.heldSeq.any (fun x => x.ctx == h.ctx) || !h.free s then { s with heldSeq := s.heldSeq ++ [h] } else h.act s

/-- A write of a sequencer. -/
def seqWrite (s : State) (ctx a : Nat) (bs : List Byte) : State := seqDo s (.write ctx a bs)
/-- A signal of a sequencer of cluster `k`, after its earlier writes are visible (09 R210). -/
def seqSignal (s : State) (k ctx vs : Nat) : State := seqDo s (.signal k ctx vs)

/-- Held items released in order after a block was taken or a fill came back. -/
def seqRelease (s : State) : State := s.heldSeq.foldl seqDo { s with heldSeq := [] }

/-! ### Trees (R301, R302) -/

/-- floor(log2(i + 1)). -/
def treeDepth (i : Nat) : Nat := Nat.log2 (i + 1)

/-- The module that holds a rank for a context's job (R302). -/
def rankModule (s : State) (ctx rank : Nat) : Option Nat :=
  let job := match SMap.get? s.ctxs ctx with | some c => c.job | none => 0
  if job = 0 then (if rank = 0 then some (selfId s).toNat else none)
  else SMap.get? (SMap.getD s.lpm job []) rank

/-- The rank of this module in a context's job. -/
def ownRank (s : State) (ctx : Nat) : Option Nat :=
  let job := match SMap.get? s.ctxs ctx with | some c => c.job | none => 0
  if job = 0 then some 0
  else ((SMap.getD s.lpm job []).find? (fun (e : Nat × Nat) => some e.2 == s.fabricId.map BitVec.toNat)).map (·.1)

/-- The fields of a tree: members, first rank, stride, rotation. -/
structure Tree where
  n : Nat
  rbase : Nat
  rstride : Nat
  rrot : Nat
  deriving DecidableEq, Repr

/-- Whether the fields are in range and the largest rank is at most 4,095. -/
def Tree.ok (t : Tree) : Bool :=
  decide (1 ≤ t.n) && decide (t.n ≤ 4096) && decide (t.rbase ≤ 4095) && decide (1 ≤ t.rstride) && decide (t.rstride ≤ 4095)
  && decide (t.rrot < t.n) && decide (t.rbase + (t.n - 1) * t.rstride ≤ 4095)

/-- rank_of. -/
def Tree.rankOf (t : Tree) (i : Nat) : Nat := t.rbase + (i + t.rrot) % t.n * t.rstride

/-- This module's tree index. -/
def Tree.index (t : Tree) (s : State) (ctx : Nat) : Option Nat :=
  (ownRank s ctx).bind (fun r => (List.range t.n).find? (fun i => t.rankOf i == r))

/-- Whether every rank of the tree has a map entry. -/
def Tree.mapped (t : Tree) (s : State) (ctx : Nat) : Bool := (List.range t.n).all (fun i => (rankModule s ctx (t.rankOf i)).isSome)

/-- The module at a tree index. -/
def Tree.peer (t : Tree) (s : State) (ctx i : Nat) : Nat := (rankModule s ctx (t.rankOf i)).getD 0

/-! ### Start conditions -/

/-- The watches of a sequencer removed from every object. -/
def dropSeqWatch (s : State) (p : WatchTo → Bool) : State :=
  let s := { s with sync := { s.sync with objs := s.sync.objs.map (fun (e : Nat × SyncObj) =>
    (e.1, { e.2 with watches := e.2.watches.filter (fun (w : SWatch) => !p w.dest) })) } }
  { s with sync := { s.sync with msgs := s.sync.msgs.filter (fun (m : SyncMsg) =>
      match m.op with | .watch w _ _ => !p w.dest | _ => true) } }

/-- A start condition registered by a unit of cluster `k` (R306, R326). -/
def seqWatch (s : State) (k ctx vs value : Nat) (dest : WatchTo) : State :=
  let t := translate s k ctx vs
  let w : SWatch := { ctx := ctx, cond := 0, operand := BitVec.ofNat 32 value, tag := 0, vs := vs, dest := dest }
  syncSend t.2 { obj := xObj t.1, frm := none, ctx := ctx, ord := 0, pc := 0, mask := 0, op := .watch w 0 0 }

/-! ### Buckets -/

/-- Bucket slot `b`. -/
def bucketAt (s : State) (b : Nat) : Option Bucket := SMap.get? s.buckets b
/-- A bucket written. -/
def setBucket (s : State) (b : Nat) (k : Bucket) : State := { s with buckets := SMap.put s.buckets b k }
/-- A field of the header. -/
def Bucket.fld (k : Bucket) (off n : Nat) : Nat := bytesNat ((k.bytes.drop off).take n)
/-- The module cluster that serves a bucket. -/
def Bucket.cluster (k : Bucket) : Nat := k.fld 0 2 % 16
/-- STATUS written (Table 13.1). -/
def bucketStatus (s : State) (k : Bucket) : State :=
  seqWrite s k.ctx (k.hdr + 0x68) (natBytes 4 (k.st + 256 * k.cause))
/-- The waiting transactions of a bucket withdrawn. -/
def dropBucketTxns (s : State) (b : Nat) : State :=
  { s with fab := { s.fab with waiting := s.fab.waiting.filter (fun (o : OutTxn) => match o.who with | .reduction x _ => x != b | _ => true) } }
/-- A bucket's slot released (R307). -/
def releaseBucket (s : State) (b : Nat) : State :=
  let s := dropSeqWatch { s with buckets := SMap.del s.buckets b } (fun t => t == .bucket b)
  s
/-- A bucket ended ABORTED (R318): it signals nothing. -/
def abortBucket (s : State) (b : Nat) : State :=
  match bucketAt s b with
  | none => s
  | some k =>
    if k.st = 3 then releaseBucket s b
    else releaseBucket (dropBucketTxns (bump0 (bucketStatus s { k with st := 5, cause := 0 }) .rdx 0 0x060) b) b

/-! ### Runs -/

/-- Run `r`. -/
def runAt (s : State) (r : Nat) : Option URun := SMap.get? s.runs r
/-- A run written. -/
def setRun (s : State) (r : Nat) (u : URun) : State := { s with runs := SMap.put s.runs r u }
/-- A field of the descriptor. -/
def URun.fld (u : URun) (off n : Nat) : Nat := bytesNat ((u.bytes.drop off).take n)
/-- STATUS written (Table 14.5). -/
def runStatus (s : State) (u : URun) : State := seqWrite s u.ctx (u.addr + 0x38) (natBytes 4 (u.st + 256 * u.cause))
/-- The waiting transactions of a run withdrawn. -/
def dropRunTxns (s : State) (r : Nat) : State :=
  { s with fab := { s.fab with waiting := s.fab.waiting.filter (fun (o : OutTxn) => match o.who with | .update x _ => x != r | _ => true) } }
/-- A run's slot released. -/
def releaseRun (s : State) (r : Nat) : State :=
  dropSeqWatch { s with runs := SMap.del s.runs r } (fun t => match t with | .run x _ => x == r | _ => false)
/-- A run ended ABORTED (R334): it signals nothing. -/
def abortRun (s : State) (r : Nat) : State :=
  match runAt s r with
  | none => s
  | some u => releaseRun (dropRunTxns (bump0 (runStatus s { u with st := 8, cause := 0 }) .upd 0 0x038) r) r

/-- The outcome of a start condition (10 R230): MET is noted; OWNER_LOST ends the bucket or run. -/
def seqOutcome (s : State) (dest : WatchTo) (met : Bool) : State :=
  match dest with
  | .bucket b => if met then { s with buckets := SMap.mod s.buckets b (fun (k : Bucket) => { k with mark := true }) } else abortBucket s b
  | .run r j =>
    if met then { s with runs := SMap.mod s.runs r (fun (u : URun) => { u with pairs := modAt u.pairs j (fun (p : Nat × Nat × Bool) => (p.1, p.2.1, true)) }) }
    else abortRun s r
  | _ => s

end Sys2Proof.Machine
end

