-- ==== Sys2Proof/Machine/Sync.lean ====
section
/-! DEFINITION. The synchronisation unit and the Firefly lines (10): the sync instructions, the arbitration cycle of an object,
outcomes, watch messages, timeouts, lines and pins. -/

namespace Sys2Proof.Machine

/-! ### Objects and outcomes -/

/-- An object that was never allocated. -/
def SyncObj.reset : SyncObj := { cnt := 0, st := .free, owner := 0, waits := [], watches := [] }
/-- Object `p`. -/
def objOf (s : State) (p : Nat) : SyncObj := SMap.getD s.sync.objs p SyncObj.reset
/-- Object `p` replaced. -/
def setObj (s : State) (p : Nat) (o : SyncObj) : State :=
  { s with sync := { s.sync with objs := SMap.setD s.sync.objs p SyncObj.reset o } }
/-- The die of an object. -/
def objDie (p : Nat) : Nat := p / 16384
/-- The module-wide segment of an object. -/
def objSeg (p : Nat) : Nat := p / 4096

/-- The conditions of R229. -/
def condHolds (cond : Nat) (c v : W32) : Bool :=
  match cond with
  | 0 => !(c - v).msb
  | 1 => c == v
  | _ => c &&& v == v

/-- Whether a context is preempted (16 R369). -/
def isPreempted (s : State) (ctx : Nat) : Bool :=
  match SMap.get? s.ctxs ctx with
  | some c => c.preempted
  | none => false

/-- Whether a context starts no new launch: preempted, or its preemption is requested (16 R369). -/
def stopsLaunch (s : State) (ctx : Nat) : Bool :=
  match SMap.get? s.ctxs ctx with
  | some c => c.preempted || c.preemptAt.isSome
  | none => false

/-- A suspended group whose wait has ended is RESTORING, unless its context is preempted (07 R160, 16 R369). -/
def wakeRecord (s : State) (n age : Nat) : State :=
  match recOfAge (coreOf s n) age with
  | none => s
  | some r => modCore s n (fun c => { c with recs := modAt c.recs r (fun x =>
      match x.st, x.grp with
      | .suspended, some g => if isPreempted s g.ctx then x else { x with st := .restoring }
      | _, _ => x) })

/-- A result written to D of the threads of a mask, and to D + 1 where there is a second. -/
def putResult (d : Nat) (mask : BitVec 32) (x : W32) (y : Option W32) (g : Group) : Group :=
  modThrs g mask (fun _ h =>
    match y with
    | some y => (h.setReg d x).setReg (d + 1) y
    | none => h.setReg d x)

/-- The reply to a group that waits for the synchronisation unit (R230). A suspended group receives it when it reloads its state
(07 R160). -/
def syncReply (s : State) (n age d : Nat) (mask : BitVec 32) (x : W32) (y : Option W32) : State :=
  match recOfAge (coreOf s n) age with
  | some r =>
    wakeRecord (modCore s n (fun c => { c with recs := modAt c.recs r (fun z =>
      { z with grp := z.grp.map (fun g => { g with wait := .none }), wake := some { d := d, mask := mask, x := x, y := y } }) })) n age
  | none => modByAge s n age (fun g => { putResult d mask x y g with wait := .none })

/-- Outcome codes (Table 10.4): a wait ends. -/
def endWait (s : State) (p : Nat) (w : SWait) (code : Nat) (c : W32) : State :=
  let s := syncReply s w.core w.age w.d w.mask (BitVec.ofNat 32 code) (some c)
  if code = 2 then bump0 s .syn (objDie p) 0x040 else if code = 1 then bump0 s .syn (objDie p) 0x038 else s

/-- A watch message (Table 10.3). -/
def watchBytes (w : SWatch) (code : Nat) (c : W32) (ftime : Nat) : List Byte :=
  [BitVec.ofNat 8 code, 1, 0, 0] ++ natBytes 4 c.toNat ++ natBytes 4 w.tag.toNat ++ natBytes 2 w.vs
    ++ [BitVec.ofNat 8 w.cond, 0] ++ natBytes 4 w.operand.toNat ++ natBytes 4 0 ++ natBytes 8 ftime

/-- Messages a segment holds for full queues. -/
def segHeld (s : State) (seg : Nat) : List HeldMsg := SMap.getD s.sync.held seg []
/-- Those messages replaced. -/
def setSegHeld (s : State) (seg : Nat) (l : List HeldMsg) : State :=
  { s with sync := { s.sync with held := SMap.setD s.sync.held seg [] l } }

/-- A watch ends (R232): its message goes to the queue, or is held in order in the segment; the start condition of a launch
goes to the queue block. -/
def endWatch (s : State) (p : Nat) (w : SWatch) (code : Nat) (c : W32) : State :=
  let s := if code = 2 then bump0 s .syn (objDie p) 0x040 else s
  match w.dest with
  | .launch qid => startOutcome s qid (code == 0)
  | .bucket b => seqOutcome s (.bucket b) (code == 0)
  | .run r j => seqOutcome s (.run r j) (code == 0)
  | .queue qid =>
    match descOf s qid with
    | none => s
    | some d =>
      let bs := watchBytes w code c s.ftime
      let seg := objSeg p
      if (segHeld s seg).any (fun h => h.qid == qid) || !canAppend s d then
        bump0 (setSegHeld s seg (segHeld s seg ++ [{ qid := qid, obj := p, bytes := bs }])) .syn (objDie p) 0x050
      else appendEntry (touchDesc s qid) qid d bs

/-- Whether a start condition of a sequencer holds a wait entry in place of a watch entry (13 R306, 14 R326). -/
def WatchTo.isWait : WatchTo → Bool
  | .bucket _ => true
  | .run _ _ => true
  | _ => false

/-- The wait entries that sequencers hold on an object. -/
def SyncObj.seqWaits (o : SyncObj) : Nat := (o.watches.filter (fun w => w.dest.isWait)).length

/-- The watch entries held on an object: registered, or with a held message (R232). -/
def objWatches (s : State) (p : Nat) : Nat :=
  ((objOf s p).watches.filter (fun w => !w.dest.isWait)).length + ((segHeld s (objSeg p)).filter (fun h => h.obj == p)).length

/-- The watch entries of a segment that are taken: registered, or with a held message (R232). -/
def watchesTaken (s : State) (seg : Nat) : Nat :=
  (s.sync.objs.filter (fun o => objSeg o.1 == seg)).foldl (fun k o => k + (o.2.watches.filter (fun (w : SWatch) => !w.dest.isWait)).length) 0
    + (segHeld s seg).length

/-! ### Which operations have reached an object (R228) -/

/-- Whether the FENCE of scope 1 that a SIGNAL implies has taken effect. -/
def msgFenced (s : State) (m : SyncMsg) : Bool :=
  match m.frm, m.op with
  | some (n, age), .signal _ _ => fenceDone s n age m.ord 1 m.mask
  | _, _ => true

/-- The place of an operation in the order of R233. -/
def opRank (o : SyncOp) : Nat :=
  match o with
  | .signal _ _ => 0
  | .sarm _ _ => 1
  | .wait _ _ => 2
  | .watch _ _ _ => 2
  | .sread _ _ => 3
  | .wcancel _ _ _ => 3

/-- The choice of the operations of one arbitration cycle: senders that still hold an earlier operation, senders with an earlier
operation left at this object, the latest rank taken per sender, whether a SIGNAL is taken. -/
structure Pick where
  unsent : List (Nat × Nat)
  behind : List (Nat × Nat)
  high : List ((Nat × Nat) × Nat)
  sig : Bool
  taken : List SyncMsg
  left : List SyncMsg

/-- The latest rank taken of a sender. -/
def Pick.rankOf (p : Pick) (f : Nat × Nat) : Nat := ((p.high.find? (fun e => e.1 == f)).map (·.2)).getD 0

/-- One operation considered (R228, R233): the operations of a group reach the unit in issue order; one SIGNAL at most is taken. -/
def Pick.step (s : State) (obj : Nat) (p : Pick) (m : SyncMsg) : Pick :=
  let unsent := match m.frm with | some f => p.unsent.contains f | none => false
  if unsent || !msgFenced s m then
    { p with left := p.left ++ [m], unsent := match m.frm with | some f => f :: p.unsent | none => p.unsent }
  else if m.obj ≠ obj then { p with left := p.left ++ [m] }
  else
    let isSig := opRank m.op == 0
    let wait := (isSig && p.sig) ||
      (match m.frm with | some f => p.behind.contains f || decide (opRank m.op < p.rankOf f) | none => false)
    if wait then
      { p with left := p.left ++ [m], behind := match m.frm with | some f => f :: p.behind | none => p.behind }
    else
      { p with taken := p.taken ++ [m], sig := p.sig || isSig,
               high := match m.frm with | some f => (f, opRank m.op) :: p.high | none => p.high }

/-- The operations of one cycle of an object. -/
def pickOps (s : State) (obj : Nat) : Pick :=
  s.sync.msgs.foldl (Pick.step s obj) { unsent := [], behind := [], high := [], sig := false, taken := [], left := [] }

/-! ### The arbitration cycle (R233) -/

/-- Steps 1 and 2: the SIGNAL, then SARM (R224, R236). -/
def applyOp (p : Nat) (s : State) (m : SyncMsg) : State :=
  let o := objOf s p
  match m.op with
  | .signal v fab =>
    let s := bump0 (setObj s p { o with cnt := o.cnt + v }) .syn (objDie p) 0x020
    if fab then bump0 s .syn (objDie p) 0x028 else s
  | .sarm set v => setObj s p { o with st := .armed, cnt := if set then v else o.cnt }
  | _ => s

/-- A WAIT or WATCH registered (R230, R232). A launch's START watch that finds no watch entry waits for one; the wait entries never run out (R230). -/
def registerOp (p : Nat) (s : State) (m : SyncMsg) : State :=
  let o := objOf s p
  match m.op with
  | .wait w timeout =>
    let dl := timeout.map (fun t => toCkOf s w.core + t)
    bump0 (setObj s p { o with waits := o.waits ++ [{ w with deadline := dl }] }) .syn (objDie p) 0x030
  | .watch w d mask =>
    match m.frm with
    | none =>
      if w.dest.isWait || watchesTaken s (objSeg p) < 1024 then setObj s p { o with watches := o.watches ++ [w] } else syncSend s m
    | some f =>
      if watchesTaken s (objSeg p) < 1024 then
        syncReply (setObj s p { o with watches := o.watches ++ [w] }) f.1 f.2 d mask 0 none
      else syncReply (bump0 s .syn (objDie p) 0x048) f.1 f.2 d mask 4 none
  | _ => s

/-- Whether the waits and watches of a context on an object are not evaluated: its owner is preempted (R234). -/
def retained (s : State) (o : SyncObj) (ctx : Nat) : Bool := ctx == o.owner && isPreempted s ctx

/-- Step 3: every wait and watch whose condition holds ends with MET (R230, R232). -/
def evalObj (p : Nat) (s : State) : State :=
  let o := objOf s p
  let metW : SWait → Bool := fun w => !retained s o w.ctx && condHolds w.cond o.cnt w.operand
  let metX : SWatch → Bool := fun w => !retained s o w.ctx && condHolds w.cond o.cnt w.operand
  let s1 := setObj s p { o with waits := o.waits.filter (fun w => !metW w), watches := o.watches.filter (fun w => !metX w) }
  let s2 := (o.waits.filter metW).foldl (fun s w => endWait s p w 0 o.cnt) s1
  (o.watches.filter metX).foldl (fun s w => endWatch s p w 0 o.cnt) s2

/-- Step 4: while the object is ABANDONED, every wait and watch that its preempted owner does not keep ends with OWNER_LOST
(R234). -/
def abandonObj (p : Nat) (s : State) : State :=
  let o := objOf s p
  if o.st == .abandoned then
    let s1 := setObj s p { o with waits := o.waits.filter (fun w => retained s o w.ctx),
                                  watches := o.watches.filter (fun w => retained s o w.ctx) }
    let s2 := (o.waits.filter (fun w => !retained s o w.ctx)).foldl (fun s w => endWait s p w 2 o.cnt) s1
    (o.watches.filter (fun w => !retained s o w.ctx)).foldl (fun s w => endWatch s p w 2 o.cnt) s2
  else s

/-- Timeouts of retained waits stop counting; those of the others count (R234, R235). -/
def settleTimers (p : Nat) (s : State) : State :=
  let o := objOf s p
  setObj s p { o with waits := o.waits.map (fun w =>
    if retained s o w.ctx then
      match w.deadline with
      | some d => { w with deadline := none, left := some (d - toCkOf s w.core) }
      | none => w
    else
      match w.left with
      | some k => { w with deadline := some (toCkOf s w.core + k), left := none }
      | none => w) }

/-- The code of a state (Table 10.2). -/
def ObjSt.code : ObjSt → Nat
  | .free => 0
  | .armed => 1
  | .abandoned => 2

/-- Step 5: WCANCEL; SREAD takes the values after the cycle (R227, R232). -/
def replyOp (p : Nat) (s : State) (m : SyncMsg) : State :=
  let o := objOf s p
  match m.op, m.frm with
  | .sread d mask, some f =>
    syncReply s f.1 f.2 d mask o.cnt (some (BitVec.ofNat 32 (o.st.code + 256 * o.owner)))
  | .wcancel tag d mask, some f =>
    let hit : SWatch → Bool := fun w => w.ctx == m.ctx && w.tag == tag && (match w.dest with | .queue _ => true | _ => false)
    let gone := o.watches.filter hit
    let s1 := setObj s p { o with watches := o.watches.filter (fun w => !hit w) }
    let s2 := gone.foldl (fun s w => endWatch s p w 3 o.cnt) s1
    syncReply s2 f.1 f.2 d mask (BitVec.ofNat 32 gone.length) none
  | _, _ => s

/-- The groups whose operation meets an object with an uncorrectable error fault with SYNC_ECC (Table 10.6). -/
def eccOp (p : Nat) (s : State) (m : SyncMsg) : State :=
  match m.frm with
  | none => s
  | some f =>
    let mask : BitVec 32 := match m.op with
      | .wait w _ => w.mask
      | .watch _ _ k => k
      | .sread _ k => k
      | .wcancel _ _ k => k
      | _ => m.mask
    let s := unitErr s 1 (objDie p) 0xA (objSeg p % 4) 2 m.ctx 0x24 p false
    deferFault (modByAge s f.1 f.2 (fun g => match g.wait with | .sync _ _ => { g with wait := .none } | _ => g))
      f.1 f.2 0x24 m.pc 0 0 mask 0 true

/-- One arbitration cycle of an object (R233); `lose` says that firmware abandons it in this cycle. -/
def arbitrate (s : State) (p : Nat) (lose : Bool) : State :=
  let k := pickOps s p
  let s := { s with sync := { s.sync with msgs := k.left } }
  let ended := k.taken.foldl (fun l m => match m.frm with | some f => f :: l | none => l) ([] : List (Nat × Nat))
  let s :=
    if s.sync.bad.contains p then k.taken.foldl (eccOp p) s
    else
      let s := (k.taken.filter (fun m => opRank m.op == 0)).foldl (applyOp p) s
      let s := (k.taken.filter (fun m => opRank m.op == 1)).foldl (applyOp p) s
      let s := (k.taken.filter (fun m => opRank m.op == 2)).foldl (registerOp p) s
      let s := evalObj p s
      let s := if lose then setObj s p { objOf s p with st := .abandoned } else s
      let s := settleTimers p (abandonObj p s)
      (k.taken.filter (fun m => opRank m.op == 3)).foldl (replyOp p) s
  ended.foldl (fun s f => settleAge f.1 f.2 s) s

/-- SYNC_ARBITRATION (R233). -/
def execSyncArbitration (obj : Fin 65536) (s : State) : Out := .next (arbitrate s obj.val false)

/-! ### The sync instructions (R227, R228) -/

/-- The lowest active thread of an issue. -/
def leadOf (x : Iss) : Nat := (lowTid x.act).getD 0

/-- The virtual ID a sync instruction names, translated by the segment of its cluster (R460). -/
def xlatIss (x : Iss) (w : Lpk) (s : State) : Nat × State :=
  translate s (clusterOf x.n) x.g.ctx ((gReg x.g (leadOf x) w.a.toNat).toNat % 65536)

/-- A sync instruction (R226, R227): it executes once for its group where a predicate is true; SYNC_UNMAPPED and SYNC_PERM are
precise. -/
def syncOp (o : LOp) (u : Issue) (w : Lpk) (right : Nat → Bool) (body : Iss → Nat → State → State) (s : State) : Out :=
  plainOp o u w anyRoom (fun x s1 =>
    if x.act = 0 then issueEnd x Flow.next s1
    else
      let t := xlatIss x w s1
      if xEcc t.1 then issueFault x 0x24 0 0 x.act true t.2
      else if !xValid t.1 then issueFault x 0x20 0 0 x.act false t.2
      else if !right t.1 then issueFault x 0x21 0 0 x.act false t.2
      else body x (xObj t.1) t.2) s

/-- An operation of a group sent to an object; the group waits for the reply where `d` is given. -/
def syncIssue (x : Iss) (obj : Nat) (op : SyncOp) (d : Option Nat) (s : State) : State :=
  let s := syncSend s { obj := obj, frm := some (x.n, x.g.age), ctx := x.g.ctx, ord := x.ord, pc := x.pc, mask := x.act, op := op }
  let s := issueEnd x Flow.next s
  match d with
  | some d => modGroup s x.n x.i (fun g => { g with wait := .sync d x.act })
  | none => s

/-- SIGNAL (R228): sent once the implicit FENCE of scope 1 has taken effect; the group goes on. -/
def execSignal (u : Issue) (w : Lpk) (s : State) : Out :=
  syncOp .signal u w xSig (fun x obj s1 =>
    let v := if modF w 29 1 = 1 then BitVec.ofNat 32 (modF w 0 16) else gReg x.g (leadOf x) w.b.toNat
    syncIssue x obj (.signal v false) none s1) s

/-- WAIT (R230, R231): the group waits for the outcome. -/
def execWait (u : Issue) (w : Lpk) (s : State) : Out :=
  syncOp .wait u w xWait (fun x obj s1 =>
    let limit := w.ext.toNat
    let e : SWait := { core := x.n, age := x.g.age, ctx := x.g.ctx, cond := modF w 0 2, operand := gReg x.g (leadOf x) w.b.toNat,
                       deadline := none, left := none, d := w.d.toNat, mask := x.act }
    syncIssue x obj (.wait e (if limit = 0 then none else some limit)) (some w.d.toNat) s1) s

/-- WATCH (R232): the target queue must be the context's, of type EVENT or MSG; else SYNC_QUEUE. -/
def execWatch (u : Issue) (w : Lpk) (s : State) : Out :=
  syncOp .watch u w xWait (fun x obj s1 =>
    let qid := field w.ext.toNat 0 20
    let ok := match descOf s1 qid with | some d => d.owner == x.g.ctx && (d.ty == 2 || d.ty == 3) | none => false
    if ok then
      let e : SWatch := { ctx := x.g.ctx, cond := modF w 0 2, operand := gReg x.g (leadOf x) w.b.toNat,
                          tag := BitVec.ofNat 32 (field w.ext.toNat 32 32),
                          vs := (gReg x.g (leadOf x) w.a.toNat).toNat % 65536, dest := .queue qid }
      syncIssue x obj (.watch e w.d.toNat x.act) (some w.d.toNat) s1
    else issueFault x 0x22 0 0 x.act false s1) s

/-- SREAD (Table 10.2). -/
def execSread (u : Issue) (w : Lpk) (s : State) : Out :=
  syncOp .sread u w xWait (fun x obj s1 => syncIssue x obj (.sread w.d.toNat x.act) (some w.d.toNat) s1) s

/-- SARM (R236). -/
def execSarm (u : Issue) (w : Lpk) (s : State) : Out :=
  syncOp .sarm u w xOwn (fun x obj s1 =>
    syncIssue x obj (.sarm (modF w 0 1 == 1) (gReg x.g (leadOf x) w.b.toNat)) none s1) s

/-- WCANCEL (R232). -/
def execWcancel (u : Issue) (w : Lpk) (s : State) : Out :=
  syncOp .wcancel u w xWait (fun x obj s1 =>
    syncIssue x obj (.wcancel (gReg x.g (leadOf x) w.b.toNat) w.d.toNat x.act) (some w.d.toNat) s1) s

/-! ### Timeouts and held messages -/

/-- The group that waits at a place. -/
def groupAt (s : State) (n : Nat) (at_ : WaitPlace) : Option Group :=
  match at_ with
  | .slot i => groupOf s n i.val
  | .record r => (nth (coreOf s n).recs r.val Rec.reset).grp

/-- The object on which a group's wait is registered. -/
def waitObj (s : State) (n age : Nat) : Option (Nat × SWait) :=
  s.sync.objs.findSome? (fun o => (o.2.waits.find? (fun w => w.core == n && w.age == age)).map (fun w => (o.1, w)))

/-- Whether the timeout of a group is kept by the AON controller (18 R406): its compare slot or the polling tick has not fired. -/
def timerKept (s : State) (n age : Nat) : Bool :=
  let mine : Timer → Bool := fun t => t.who == .group n age
  s.pwr.polled.any mine || s.pwr.slots.any (fun (t : Option Timer) => match t with | some x => mine x | none => false)

/-- WAIT_TIMEOUT (R231, R242): a WAIT or FFWAIT whose timeout has passed ends with TIMEOUT. The expiry comes last in an arbitration cycle of its object: a SIGNAL
that has reached the object is applied first, and a WAIT it satisfies ends with MET (R233). -/
def execWaitTimeout (n : Fin 48) (at_ : WaitPlace) (s : State) : Out :=
  match groupAt s n.val at_ with
  | none => .next s
  | some g =>
    if timerKept s n.val g.age then .next s
    else
    match g.wait with
    | .sync _ _ =>
      match waitObj s n.val g.age with
      | none => .next s
      | some (p, w) =>
        if (match w.deadline with | some d => decide (d ≤ toCkOf s n.val) | none => false) then
          let s := arbitrate s p false
          let o := objOf s p
          let mine : SWait → Bool := fun y => y.core == n.val && y.age == g.age
          match o.waits.find? mine with
          | some w => .next (endWait (setObj s p { o with waits := o.waits.filter (fun y => !mine y) }) p w 1 o.cnt)
          | none => .next s
        else .next s
    | .firefly _ d mask _ deadline =>
      if (match deadline with | some t => decide (t ≤ toCkOf s n.val) | none => false) then
        .next (bump0 (syncReply s n.val g.age d mask 1 none) .syn 0 0x038)
      else .next s
    | _ => .next s

/-- WATCH_MSG_DELIVER (R232): the segment's first held message for the queue is written when it has room. -/
def execWatchMsgDeliver (seg : Fin 16) (qid : Nat) (s : State) : Out :=
  let l := segHeld s seg.val
  match findIdxFrom (fun (h : HeldMsg) => h.qid == qid) 0 l, descOf s qid with
  | some (i, h), some d =>
    if canAppend s d then .next (appendEntry (touchDesc (setSegHeld s seg.val (dropAt l i)) qid) qid d h.bytes) else .next s
  | _, _ => .next s

/-! ### Firefly lines (R240-R245) -/

/-- FF_GRANT. -/
def ffGrant (s : State) : Nat := regGet s (regAddr .syn 0 0x100)
/-- FF_PIN. -/
def ffPin (s : State) : Nat := regGet s (regAddr .syn 0 0x108)
/-- FF_LINEn_CORES. -/
def ffCores (s : State) (l : Nat) : Nat := regGet s (regAddr .syn 0 (0x140 + 8 * l))
/-- Whether a context holds the grant of a line. -/
def ffHolds (s : State) (ctx l : Nat) : Bool :=
  (ffGrant s).testBit 16 && (ffGrant s).testBit l && field (ffGrant s) 8 8 == ctx
/-- A line without arrivals. -/
def FfLine.none : FfLine := { arrs := [], gen := [], came := [], hold := Option.none }
/-- A line. -/
def ffLine (s : State) (l : Nat) : FfLine := nth s.sync.lines l FfLine.none
/-- A line changed. -/
def modLine (s : State) (l : Nat) (f : FfLine → FfLine) : State := { s with sync := { s.sync with lines := modAt (padUp 8 FfLine.none s.sync.lines) l f } }

/-- Whether a core has arrived at a line: its first arrival's implicit FENCE of scope 1 has taken effect (R242). -/
def ffArrived (s : State) (l n : Nat) : Bool :=
  match (ffLine s l).arrs.find? (fun a => a.core == n) with
  | some a => fenceDone s n a.age a.ord 1 a.mask
  | none => false

/-- LOCAL_DONE: every participating core has arrived, or the line is being kept released (R241). -/
def ffLocalDone (s : State) (l : Nat) : Bool :=
  (ffLine s l).hold.isSome || (List.range 48).all (fun n => !(ffCores s l).testBit n || ffArrived s l n)

/-- Whether a board pin is bound to a line. -/
def pinBound (s : State) (k l : Nat) : Bool := (ffPin s).testBit (3 + 4 * k) && field (ffPin s) (4 * k) 3 == l
/-- Whether the module drives a board pin low (R243, R245). -/
def pinLow (s : State) (k : Nat) : Bool :=
  (ffPin s).testBit (3 + 4 * k) && (s.sync.pinHold || !ffLocalDone s (field (ffPin s) (4 * k) 3))
/-- Whether the pins bound to a line are high. -/
def pinsHigh (s : State) (l : Nat) : Bool := (List.range 2).all (fun k => !pinBound s k l || nth s.sync.pins k true)
/-- LEVEL of a line. -/
def ffLevel (s : State) (l : Nat) : Bool := ffLocalDone s l && pinsHigh s l

/-- FFARRIVE (R240, R241): the core's arrival, effective after the implicit FENCE of scope 1. -/
def execFfarrive (u : Issue) (w : Lpk) (s : State) : Out :=
  plainOp .ffarrive u w anyRoom (fun x s1 =>
    let l := modF w 0 3
    if x.act = 0 then issueEnd x Flow.next s1
    else if ffHolds s1 x.g.ctx l && (ffCores s1 l).testBit x.n then
      issueEnd x Flow.next (modLine s1 l (fun f =>
        { f with arrs := f.arrs ++ [{ core := x.n, age := x.g.age, ord := x.ord, mask := x.act }], came := insertNat f.came x.n }))
    else issueFault x 0x23 0 0 x.act false s1) s

/-- The generation an FFWAIT of a core waits for (R242): that of its last arrival; 256 says the next release, of a core that has not
arrived. None where that release has happened. -/
def ffTarget (f : FfLine) (n : Nat) : Option Nat :=
  let k := (f.arrs.filter (fun a => a.core == n)).length
  if !f.came.contains n then some 256
  else if k = 0 then none
  else some ((SMap.getD f.gen n 0 + k) % 256)

/-- FFWAIT (R242). -/
def execFfwait (u : Issue) (w : Lpk) (s : State) : Out :=
  plainOp .ffwait u w anyRoom (fun x s1 =>
    let l := modF w 0 3
    if x.act = 0 then issueEnd x Flow.next s1
    else if ffHolds s1 x.g.ctx l then
      let s2 := issueEnd x Flow.next s1
      match ffTarget (ffLine s1 l) x.n with
      | none => modGroup s2 x.n x.i (putResult w.d.toNat x.act 0 none)
      | some gen =>
        let limit := w.ext.toNat
        modGroup s2 x.n x.i (fun g => { g with
          wait := .firefly l w.d.toNat x.act gen (if limit = 0 then none else some (toCkOf s1 x.n + limit)) })
    else issueFault x 0x23 0 0 x.act false s1) s

/-- The FFWAITs of a line end (`ends` of core and generation) with an outcome. -/
def ffEnd (s : State) (l : Nat) (ends : Nat → Nat → Bool) (code : Nat) : State :=
  let groups : Nat → List Group := fun n =>
    (coreOf s n).slots.filterMap id ++ (coreOf s n).recs.filterMap (fun r => r.grp)
  (List.range 48).foldl (fun s n =>
    (groups n).foldl (fun s g =>
      match g.wait with
      | .firefly l' d mask gen _ =>
        if l' = l && ends n gen then
          let s := syncReply s n g.age d mask (BitVec.ofNat 32 code) none
          if code = 2 then bump0 s .syn 0 0x040 else s
        else s
      | _ => s) s) s

/-- The list without the first element that satisfies a test. -/
def dropFirst {α : Type} (p : α → Bool) (l : List α) : List α :=
  match findIdxFrom p 0 l with
  | some (i, _) => dropAt l i
  | none => l

/-- FIREFLY_RELEASE (R241): every participating core has arrived and bound pins are high. Generations advance, FFWAITs end with MET,
and the line is kept released for 16 ns, or 64 ns when bound. -/
def execFireflyRelease (l : Fin 8) (s : State) : Out :=
  let k := l.val
  let cores := ffCores s k
  if (ffLine s k).hold.isNone && cores % 2 ^ 48 != 0 && ffLevel s k then
    let ns := if pinBound s 0 k || pinBound s 1 k then 64 else 16
    let part := (List.range 48).filter (fun n => cores.testBit n)
    let s := modLine s k (fun f =>
      { f with
        arrs := part.foldl (fun l n => dropFirst (fun a => a.core == n) l) f.arrs,
        gen := part.foldl (fun m n => SMap.setD m n 0 ((SMap.getD m n 0 + 1) % 256)) f.gen,
        hold := some (s.now + ns) })
    .next (ffEnd s k (fun n gen => gen == 256 || gen == SMap.getD (ffLine s k).gen n 0) 0)
  else .next s

/-- The pins that the module drives low are low. -/
def dropPins (s : State) : State :=
  { s with sync := { s.sync with pins := (List.range 2).map (fun k => nth s.sync.pins k true && !pinLow s k) } }

/-- FIREFLY_HOLD_END (R241): the cores drive the line low again for the next generation. -/
def execFireflyHoldEnd (l : Fin 8) (s : State) : Out :=
  match (ffLine s l.val).hold with
  | some t => if t ≤ s.now then .next (dropPins (modLine s l.val (fun f => { f with hold := none }))) else .next s
  | none => .next s

/-- FFLY_PIN_EDGE (R243): the level of a board pin changes; a pin that the module drives low cannot rise. -/
def execFflyPinEdge (pin : Fin 2) (high : Bool) (s : State) : Out :=
  if high && pinLow s pin.val then .next s
  else .next { s with sync := { s.sync with pins := setAt (padUp 2 true s.sync.pins) pin.val high } }

/-- Whether a value of FF_PIN is reserved: both pins bound to one line (R243). -/
def ffPinReserved (v : Nat) : Bool := v.testBit 3 && v.testBit 7 && field v 0 3 == field v 4 3

/-- FF_PIN written by firmware (R243, R245): a bound pin that the module drives low falls. The board spare in relay mode leaves its bindings disabled. -/
def putFfPin (v : Nat) (s : State) : State :=
  if ffPinReserved v then s
  else
    let v := if s.fab.relay then setField (setField v 3 1 0) 7 1 0 else v
    dropPins (regPut { s with sync := { s.sync with pinHold := false } } (regAddr .syn 0 0x108) (v % 512))

/-- FF_PIN_WRITE (R243). -/
def execFfPinWrite (w : RegWr) (s : State) : Out :=
  ctlWrite w .syn (fun off => off == 0x108) (fun s q u off => fwOnly s q u off) (fun u _ v s => if u = 0 then putFfPin v s else s) s

/-- A grant revoked (R245): every FFWAIT on its lines ends with OWNER_LOST, its lines are released, bound pins are kept low. -/
def ffRevoke (s : State) : State :=
  let g := ffGrant s
  if g.testBit 16 then
    let ls := (List.range 8).filter (fun l => g.testBit l)
    let s := ls.foldl (fun s l => ffEnd s l (fun _ _ => true) 2) s
    let s := ls.foldl (fun s l =>
      regPut (modLine s l (fun f => { f with arrs := [], came := [], hold := none })) (regAddr .syn 0 (0x140 + 8 * l)) 0) s
    let s := regPut s (regAddr .syn 0 0x100) 0
    dropPins { s with sync := { s.sync with pinHold := true } }
  else s

/-! ### Control registers of the SYN block (R246) -/

/-- The counters of the SYN block. -/
def synCounters : List Nat := offs 0x020 0x058

/-- SYN_CTRL: CLR_COUNTS and XLT_INVAL. -/
def synCtrl (w : RegWr) (s : State) : Out :=
  ctlWrite w .syn (fun off => off == 0x008) fwOnly (fun u _ v s =>
    let s := clearIf v 0 .syn synCounters u s
    if v.testBit 1 then
      { s with sync := { s.sync with cache := s.sync.cache.filter (fun e => e.1 / 4 != u) } }
    else s) s

/-- SYN_CLR_COUNTS (R246). -/
def execSynClrCounts (w : RegWr) (s : State) : Out := synCtrl w s
/-- SYN_XLT_INVAL (R246). -/
def execSynXltInval (w : RegWr) (s : State) : Out := synCtrl w s

end Sys2Proof.Machine
end

