-- ==== Sys2Proof/Machine/Park.lean ====
section
/-! DEFINITION. Parking, suspension, restoration, REPLAY and ABORT of thread groups (07 R156-R163, R458, Tables 7.7, 7.12). -/

namespace Sys2Proof.Machine

/-! ### Records and images (R156, Table 7.7) -/

/-- The address of park record `r` of core `n`. -/
def recAddr (n r : Nat) : Nat := spadBase n + recOff + 512 * r

/-- The base of a context's park area. -/
def parkBaseOf (s : State) (ctx : Nat) : Nat :=
  match SMap.get? s.ctxs ctx with
  | some c => c.parkBase
  | none => 0

/-- The address of the register image of record `r` of core `n`. -/
def imageAddr (s : State) (ctx n r : Nat) : Nat := parkBaseOf s ctx + (32 * n + r) * 0x2100

/-- The bytes of a register image: g(r) of thread t at 256·t + 4·r, sTOK of thread t at 0x2000 + 4·t. -/
def imageBytes (g : Group) : List Byte :=
  g.threads.flatMap (fun h => (padTo 64 0 h.regs).flatMap (fun v => natBytes 4 v.toNat))
    ++ g.threads.flatMap (fun h => natBytes 4 h.tok.toNat)

/-- WHERE. -/
def whereOf (g : Group) (n i : Nat) : Nat := g.ctx + 256 * i + 65536 * n + 16777216 * g.sgid

/-- CAUSE. -/
def causeWord (p : ParkReq) (suspended : Bool) : Nat :=
  p.cause + 256 + 65536 * b2n p.precise + 131072 * b2n p.contained + 262144 * b2n suspended

/-- FLAGS. -/
def flagWord (g : Group) : Nat := g.numf % 128 + 256 * (g.fpf % 32) + 65536 * (g.fpl % 32)

/-- The park record of a group. -/
def recordBytes (s : State) (n i r : Nat) (g : Group) (p : ParkReq) (suspended : Bool) (seq : Nat) : List Byte :=
  let bar := g.barrier
  let w4 := natBytes 4
  let w8 := natBytes 8
  w4 (causeWord p suspended) ++ w4 seq ++ w4 p.pc ++ w4 p.info ++ w8 p.addr ++ w8 g.age ++ w8 g.kernel ++ w8 s.ftime
    ++ w4 p.mask.toNat ++ w4 (liveMask g).toNat ++ w4 p.subset.toNat
    ++ w4 (match bar with | some b => b.arrived.toNat | none => 0)
    ++ w4 (match bar with | some b => b.mask.toNat | none => 0)
    ++ w4 (match bar with | some b => b.pc | none => 0xFFFFFFFF)
    ++ w4 (whereOf g n i) ++ w4 (flagWord g) ++ w4 (p.removed % 65536 + 65536 * g.tiles.length) ++ w4 0
    ++ w8 (imageAddr s g.ctx n r) ++ g.threads.map (fun h => h.preds)
    ++ g.threads.flatMap (fun h => w4 h.pc)
    ++ (padTo 7 0 g.mtiles).flatMap (fun m => natBytes 32 m.toNat) ++ natBytes 32 0

/-- The lowest FREE record of a core. -/
def freeRec (c : Core) : Option Nat := (findIdxFrom (fun (r : Rec) => r.st == .free) 0 c.recs).map (·.1)

/-- Whether nothing of a group that its record cannot hold is under way: no access or register result outstanding (log entry 21), and
no FENCE that could complete. -/
def mayLeave (s : State) (n : Nat) (g : Group) : Bool :=
  let c := coreOf s n
  !c.accs.any (fun e => e.2.age == g.age)
  && !c.matq.any (fun e => e.age == g.age && (match e.op with | .check _ _ _ _ => true | _ => false))
  && !g.fences.any (fun f => fenceDone s n g.age f.ord f.scope f.mask)

/-- The value of sFPL that says that no instruction of a group has completed since its record was written. -/
def noFpl : Nat := 32

/-- A group in slot `i` written to record `r` (R159, R160): image, record, the slot released; tile registers stay with the
record, which gathers the flags of what its queue entries do from now on (03 R63, 06 R131). -/
def writeRecord (s : State) (n i r : Nat) (g : Group) (p : ParkReq) (st : RecSt) : State :=
  let suspended := st == .suspended
  let seq := ((coreOf s n).parkSeq + 1) % 2 ^ 32
  let s := engWrite s g.ctx (imageAddr s g.ctx n r) (imageBytes g) false
  let s := memPut s (recAddr n r) (recordBytes s n i r g p suspended seq)
  let z : Rec :=
    { st := st, grp := some { g with park := none, fences := [], numf := 0, fpf := 0, fpl := noFpl }, cause := causeWord p suspended, age := g.age, kernel := g.kernel,
      whereWord := whereOf g n i, live := (liveMask g).toNat, wake := none, loaded := false }
  modCore s n (fun c => { c with slots := setAt c.slots i none, recs := setAt (padUp 32 Rec.reset c.recs) r z, parkSeq := seq })

/-- PARK (R158, R159): a faulted group goes to the lowest FREE record of its core at its instruction boundary, and GROUP_PARKED is
posted. -/
def execPark (u : Slot) (s : State) : Out :=
  let n := u.core.val
  let i := u.slot.val
  match groupOf s n i with
  | none => .next s
  | some g =>
    match g.park with
    | none => .next s
    | some p =>
      match freeRec (coreOf s n) with
      | none => .next s
      | some r =>
        if coreRuns s n && g.wait == .none && mayLeave s n g && (g.fences.isEmpty || p.cause == 0x04) then
          let s1 := bump (writeRecord s n i r g p .parked) .thr n 0x058 g.ctx
          .next (postEvent s1 g.ctx 0x01 p.cause r (whereOf g n i) (p.pc + 2 ^ 32 * (coreOf s1 n).parkSeq) p.addr (some n))
        else .next s

/-- A suspension's record fields: no fault (log entry 22). -/
def noFault : ParkReq :=
  { cause := 0, precise := false, contained := false, pc := 0, info := 0, addr := 0, mask := 0, subset := 0, removed := 0 }

/-- A group suspended into a record (R160, 16 R369). -/
def suspendGroup (s : State) (n i r : Nat) (g : Group) : State :=
  bump0 (writeRecord s n i r g noFault .suspended) .thr n 0x060

/-- Groups of started launches that wait for a slot on a core (THR_STATUS.LAUNCH_WAIT). -/
def launchWaits (s : State) (n : Nat) : Nat :=
  s.que.launches.foldl (fun k l =>
    if l.2.started && !l.2.cut && l.2.cores.testBit n then k + (l.2.groups - SMap.getD l.2.placed n 0) else k) 0

/-- The lowest free slot of a core. -/
def freeSlot (c : Core) : Option Nat := (findIdxFrom (fun (g : Option Group) => g.isNone) 0 c.slots).map (·.1)

/-- SUSPEND (R160): a group that waits in a WAIT is suspended when a launch needs a slot of its core. -/
def execSuspend (u : Slot) (s : State) : Out :=
  let n := u.core.val
  let i := u.slot.val
  match groupOf s n i, freeRec (coreOf s n) with
  | some g, some r =>
    let on := (regGetD s (regAddr .thr n 0) 0x110).testBit 8
    if on && coreRuns s n && (waitObj s n g.age).isSome && g.park.isNone && g.fences.isEmpty && mayLeave s n g
        && decide (0 < launchWaits s n) && (freeSlot (coreOf s n)).isNone then
      .next (suspendGroup s n i r g)
    else .next s
  | _, _ => .next s

/-! ### Reloading (R160, R161, R458) -/

/-- A field of a record in memory. -/
def recField (s : State) (n r off len : Nat) : Nat := memNat s (recAddr n r + off) len

/-- A group reloaded from its record and image (R161, R458): live threads at their recorded PCs with their recorded registers,
predicates, sTOK, mask tiles and flags, with the flags that its queue entries raised while it was away; the barrier with its watchdog started
anew; no split. -/
def reloadGroup (s : State) (n r : Nat) (g : Group) : Group :=
  let live : BitVec 32 := BitVec.ofNat 32 (recField s n r 0x034 4) &&& liveMask g
  let flags := recField s n r 0x04C 4
  let barPc := recField s n r 0x044 4
  let arrived : BitVec 32 := BitVec.ofNat 32 (recField s n r 0x03C 4)
  let pending := barPc != 0xFFFFFFFF
  let img := imageAddr s g.ctx n r
  let th : Nat → Thread → Thread := fun t _ =>
    { pc := recField s n r (0x080 + 4 * t) 4, live := live.getLsbD t,
      stat := if pending && arrived.getLsbD t && live.getLsbD t then .bar else .run,
      regs := (List.range 64).map (fun k => memW32 s (img + 256 * t + 4 * k)),
      preds := BitVec.ofNat 8 (recField s n r (0x060 + t) 1) ||| 1, tok := memW32 s (img + 0x2000 + 4 * t) }
  { g with
    threads := g.threads.mapIdx th,
    barrier := if pending then
        some { mask := BitVec.ofNat 32 (recField s n r 0x040 4), arrived := arrived, pc := barPc, start := ckOf s n }
      else none,
    mtiles := (List.range 7).map (fun k => BitVec.ofNat 256 (recField s n r (0x100 + 32 * k) 32)),
    numf := field flags 0 7 ||| g.numf, fpf := field flags 8 5 ||| g.fpf, fpl := if g.fpl = noFpl then field flags 16 5 else g.fpl,
    splits := [], curIssues := 0, cur := (lowTid live).getD 0 }

/-- Whether a RESTORING record is the oldest of its core that may reload: the records of a preempted context wait (R163). -/
def oldestRestoring (s : State) (n r : Nat) : Bool :=
  match (nth (coreOf s n).recs r Rec.reset).grp with
  | none => false
  | some g => (coreOf s n).recs.all (fun x => x.st != .restoring || (match x.grp with
      | some y => decide (g.age ≤ y.age) || isPreempted s y.ctx
      | none => true))

/-- A RESTORING record's group takes the lowest free slot, its state reloaded, and continues with the outcome of its wait (R160, R161,
16 R369). -/
def tryRestore (n r : Nat) (s : State) : State :=
  let c := coreOf s n
  let z := nth c.recs r Rec.reset
  match z.grp, freeSlot c with
  | some g, some i =>
    if z.st == .restoring && oldestRestoring s n r && coreRuns s n && !isPreempted s g.ctx then
      let g := if z.loaded then g else reloadGroup s n r g
      let g := match z.wake with
        | some k => putResult k.d k.mask k.x k.y g
        | none => g
      settle n i (modCore s n (fun c => { c with slots := setAt (padUp 32 none c.slots) i (some g), recs := setAt c.recs r Rec.reset }))
    else s
  | _, _ => s

/-- SUSPENDED_RESTORE (R160): the oldest RESTORING group of a core takes the next free slot. -/
def execSuspendedRestore (n : Fin 48) (rec : Fin 32) (s : State) : Out := .next (tryRestore n.val rec.val s)

/-! ### REPLAY and ABORT (R161) -/

/-- Whether a REPLAY of a record is refused with BAD_RECORD. -/
def badRecord (s : State) (n r : Nat) (z : Rec) (g : Group) : Bool :=
  let live := recField s n r 0x034 4
  let barPc := recField s n r 0x044 4
  let reach : List Nat := match SMap.get? s.kernels g.kernel with
    | some k => k.reach
    | none => []
  (List.range 32).any (fun t => live.testBit t && !reach.contains (recField s n r (0x080 + 4 * t) 4))
  || recField s n r 0x000 4 != z.cause || recField s n r 0x018 8 != z.age || recField s n r 0x020 8 != z.kernel
  || recField s n r 0x048 4 != z.whereWord
  || live &&& z.live != live
  || (barPc != 0xFFFFFFFF &&
      (let arr := recField s n r 0x03C 4
       arr &&& recField s n r 0x040 4 != arr || arr &&& live != arr))

/-- The result codes of THR_STATUS.PARKCTL_RESULT: 0 OK, 1 NOT_PARKED, 2 BAD_RECORD. -/
def setParkResult (n code : Nat) (s : State) : State := regPut s (regAddr .thr n 0x008) (code * 2 ^ 40)

/-- A group aborted from its record (R161): the record is FREE again and the group ends. -/
def abortRecord (n r : Nat) (s : State) : State :=
  match (nth (coreOf s n).recs r Rec.reset).grp with
  | none => s
  | some g => endNow (modCore s n (fun c => { c with recs := setAt c.recs r Rec.reset })) n g

/-- An action on a park record by someone who may act on context `owner`'s records, or on all (none); its result code and the state
(R161). -/
def parkAction (s : State) (n r action : Nat) (owner : Option Nat) : Nat × State :=
  let z := nth (coreOf s n).recs r Rec.reset
  match z.st, z.grp with
  | .parked, some g =>
    if (match owner with | some c => g.ctx != c | none => false) then (1, s)
    else if action = 2 then (0, abortRecord n r s)
    else if badRecord s n r z g then (2, s)
    else
      let g := reloadGroup s n r g
      (0, tryRestore n r (modCore s n (fun c => { c with recs := setAt (padUp 32 Rec.reset c.recs) r { z with st := .restoring, grp := some g, loaded := true } })))
  | _, _ => (1, s)

/-- A write of THR_PARKCTL with ACTION `action` (Table 7.12); the reserved actions are discarded (00 R7). -/
def parkctl (action : Nat) (w : RegWr) (s : State) : Out :=
  let a := field w.value.toNat 8 2
  if a = action || a = 0 || a = 3 then
    ctlWrite w .thr (fun off => off == 0x018) fwHost (fun u _ v s =>
      let a := field v 8 2
      if a = action then
        let r := parkAction s u (v % 32) a none
        modCore (setParkResult u r.1 r.2) u (fun c => { c with parkHits := SMap.put c.parkHits (v % 32) (ckOf s u) })
      else s) s
  else .next s

/-- The action of a PRESUME on a record (R161, R162): none where a THR_PARKCTL write has reached the record in the same ck. Two PRESUMEs of a core
issue in different ck (R142), and a write that comes after a PRESUME comes in a later ck (log entry 93). -/
def presumeAction (s : State) (n r action ctx : Nat) : Nat × State :=
  if SMap.get? (coreOf s n).parkHits r == some (ckOf s n) then (1, s) else parkAction s n r action (some ctx)

/-- PARKCTL_REPLAY (R161). -/
def execParkctlReplay (w : RegWr) (s : State) : Out := parkctl 1 w s
/-- PARKCTL_ABORT (R161). -/
def execParkctlAbort (w : RegWr) (s : State) : Out := parkctl 2 w s

/-- PRESUME (Table 7.5, R161): the lowest active thread's record number; D receives the result code. -/
def execPresume (u : Issue) (w : Lpk) (s : State) : Out :=
  plainOp .presume u w anyRoom (fun x s1 =>
    if x.act = 0 then issueEnd x Flow.next s1
    else
      let r := presumeAction s1 x.n ((gReg x.g (leadOf x) w.a.toNat).toNat % 32) (modF w 0 2) x.g.ctx
      let s2 := setParkResult x.n r.1 r.2
      issueEnd x Flow.next (modGroup s2 x.n x.i (putResult w.d.toNat x.act (BitVec.ofNat 32 r.1) none))) s

/-- THR_CLR_COUNTS (R164). -/
def execThrClrCounts (w : RegWr) (s : State) : Out :=
  ctlWrite w .thr (fun off => off == 0x020) fwOnly (fun u _ v s => clearIf v 0 .thr (offs 0x028 0x070) u s) s

end Sys2Proof.Machine
end

