-- ==== Sys2Proof/Machine/Launch.lean ====
section
/-! DEFINITION. Doorbells, the system class, launches and held events (16 R374-R382; 07 R138-R140; 06 R110, R113), and the Device
Parameter Table's values (02 R21, 20 R450). -/

namespace Sys2Proof.Machine

/-! ### The DPT (02 Table 2.1, 20 Table 20.5) -/

/-- The value firmware writes into DPT entry `i` on a fully enabled WQ48-A1; FW_VERSION, the DDR entries and PART_0 are what is
installed (log entry 5): no DIMM is, so PART_6 reads as with DDR_BYTES = 0 (20 Table 20.5). -/
def dptReset (i : Nat) : Nat :=
  match i with
  | 0x00 => 0x0001000000010055
  | 0x02 => 0x0031412D38345157
  | 0x03 => 0x4101
  | 0x10 => 4
  | 0x11 => 4
  | 0x12 => 3
  | 0x13 => 0xFFFFFFFFFFFF
  | 0x14 => 2
  | 0x15 => 0xFFFFFFFFFFFFFFFF
  | 0x16 => 0xFFFFFFFF
  | 0x17 => 32
  | 0x18 => 32
  | 0x19 => 0x00080040
  | 0x20 => 128
  | 0x21 => 128
  | 0x22 => 2
  | 0x23 => 32
  | 0x24 => 32
  | 0x25 => 4096
  | 0x26 => 512
  | 0x27 => 0x7F
  | 0x28 => 0x7F
  | 0x29 => 262144
  | 0x2A => 128
  | 0x2B => 128
  | 0x2C => 7
  | 0x30 => 64
  | 0x31 => 16
  | 0x32 => 8
  | 0x33 => 64
  | 0x34 => 0x00100010
  | 0x35 => 8
  | 0x36 => 0x10
  | 0x37 => 262144
  | 0x3B => 128
  | 0x40 => 4194304
  | 0x41 => 0x100000000
  | 0x42 => 0x400000
  | 0x44 => 0x100000000
  | 0x45 => 0x40000000
  | 0x46 => 0x00200040
  | 0x47 => 128
  | 0x48 => 0x000C00100040
  | 0x49 => 1048576
  | 0x4A => 0x200000000
  | 0x4B => 0x10000000000
  | 0x4E => 0x00200080
  | 0x4F => 0x02000020
  | 0x50 => 0x000504000010
  | 0x51 => 0xFE0000000000
  | 0x52 => 67108864
  | 0x60 => 65536
  | 0x61 => 65536
  | 0x62 => 0x100000000
  | 0x63 => 0x00020008
  | 0x64 => 1048576
  | 0x65 => 255
  | 0x66 => 1048576
  | 0x67 => 0x0010000000000010
  | 0x68 => 0x040000000100
  | 0x69 => 4096
  | 0x6A => 0x00400400
  | 0x70 => 0xFFFF0010
  | 0x71 => 0x0FFF000C
  | 0x72 => 4096
  | 0x73 => 4096
  | 0x74 => 0x02000004
  | 0x75 => 22
  | 0x76 => 4
  | 0x80 => 0x0010C8E0000F4240
  | 0x81 => 400000
  | 0x82 => 1400000 * 2 ^ 32 + 1400000
  | 0x83 => 45000
  | 0x90 => 3
  | 0x91 => 1
  | 0xF1 => 0xFF0000000000
  | 0xF2 => 0x10000000
  | 0xF3 => 0x00010010
  | 0xF5 => 0x1
  | 0xF6 => 0x0081002100410014
  | _ => 0

/-- DPT entry `i`. -/
def dptVal (s : State) (i : Nat) : Nat := regGetD s (dptAddr i) (dptReset i)
/-- DPT entry `i` written. -/
def dptPut (s : State) (i v : Nat) : State := regPutD s (dptAddr i) (dptReset i) v

/-! ### Doorbells (R374, R375) -/

/-- Whether a storer is a producer (side 0) or consumer (side 1) of a queue (Table 16.14). -/
def doorMay (d : QDesc) (q : Req) (side : Nat) : Bool :=
  if side = 0 then
    match d.ty with
    | 0 | 1 => if q.thread then d.owner == q.ctx else q.host && d.hostProd
    | 2 => !q.thread && !q.host
    | _ => false
  else
    match d.ty with
    | 2 | 3 => if q.thread then d.owner == q.ctx else q.host && d.hostCons
    | _ => false

/-- Whether a queue's context is between QUIESCE and RECOVERED (R379). -/
def isQuiesced (s : State) (ctx : Nat) : Bool :=
  match SMap.get? s.ctxs ctx with
  | some c => c.quiesced
  | none => false

/-- A doorbell store refused (R374). -/
def doorRefuse (s : State) (qid : Nat) (q : Req) : State :=
  let s := modDesc s qid (fun d => { d with refused := d.refused + 1 })
  refuse q true (bump0 s .que 0 0x018)

/-- An 8-byte doorbell word applied (R374, R379). -/
def doorStore (s : State) (qid : Nat) (q : Req) : State :=
  let s := touchDesc s qid
  let idx : W32 := BitVec.ofNat 32 q.value
  let side := field q.value 32 1
  match descOf s qid with
  | none => doorRefuse s qid q
  | some d =>
    let k := (idx - (if side = 0 then d.prod else d.cons)).toNat
    let room := if side = 0 then 2 ^ d.log2n - qHeld d else qHeld d
    if doorMay d q side && decide (k ≤ room) then
      let s := bump0 s .que 0 0x010
      if side = 1 then modDesc s qid (fun d => { d with cons := idx })
      else
        let s := produced s qid k
        if isQuiesced s d.owner then modDesc s qid (fun d => { d with cons := d.prod, take := d.prod, bells := [] }) else s
    else doorRefuse s qid q

/-- DOORBELL (R374, R375): a store to a doorbell. Another width or alignment discards it. -/
def execDoorbell (w : RegWr) (s : State) : Out :=
  match reqOf s w.src true w.addr w.bytes w.value.toNat with
  | none => .next s
  | some q =>
    if decide (doorBase ≤ q.addr) && decide (q.addr < doorBase + 0x800000) then
      if q.bytes = 8 && q.addr % 8 = 0 then .next (reqDone w.src 0 (doorStore s ((q.addr - doorBase) / 8) q))
      else .next (reqDone w.src 0 s)
    else .next s

/-! ### The system class (R381) -/

/-- The queue a system instruction names. -/
def sysQid (x : Iss) (w : Lpk) : Nat := (gReg x.g (leadOf x) w.a.toNat).toNat % 2 ^ 20

/-- The address of `n` bytes at an offset of the launch's scratchpad area; none where they reach its end (07 R140). -/
def spadAt (g : Group) (off n : Nat) : Option Nat := if off + n ≤ g.spadBytes then some (g.spadBase + off) else none

/-- A system instruction (R381): one execution for its group; SYS_QUEUE is precise. -/
def sysOp (o : LOp) (u : Issue) (w : Lpk) (room : Core → Bool) (takes : QDesc → Bool)
    (body : Iss → Nat → QDesc → State → State) (s : State) : Out :=
  plainOp o u w room (fun x s1 =>
    if x.act = 0 then issueEnd x Flow.next s1
    else
      let qid := sysQid x w
      let s1 := touchDesc s1 qid
      match descOf s1 qid with
      | none => issueFault x 0x70 0 0 x.act false s1
      | some d =>
        if d.owner == x.g.ctx && takes d then body x qid d s1
        else issueFault x 0x70 0 0 x.act false s1) s

/-- A result of a system instruction. -/
def sysReply (x : Iss) (w : Lpk) (v : W32) (y : Option W32) (s : State) : State :=
  issueEnd x Flow.next (modGroup (bump0 s .que 0 0x048) x.n x.i (putResult w.d.toNat x.act v y))

/-- Whether the implicit FENCE of scope 1 of a QPUT has taken effect for its group (R375). -/
def qputReady (s : State) (u : Issue) : Bool :=
  match groupOf s u.core.val u.slot.val with
  | some g => fenceDone s u.core.val g.age (g.ord + 1) 1 (BitVec.allOnes 32)
  | none => true

/-- Whether a QPUT waits for a PENDING block under its slot (15 R348). -/
def qputHeld (s : State) (u : Issue) (w : Lpk) : Bool :=
  match issueBegin s u .qput w anyRoom with
  | none => false
  | some (x, _) =>
    match descOf s (sysQid x w) with
    | none => false
    | some d => d.owner == x.g.ctx && qRoom d && rangeHeld s (qSlot d d.prod) (qSize d)

/-- QPUT (Table 16.18): copies an entry from the scratchpad into the slot at PROD; all ones when the queue is full. -/
def execQput (u : Issue) (w : Lpk) (s : State) : Out :=
  sysOp .qput u w (fun _ => qputReady s u && !qputHeld s u w) (fun d => d.ty == 0 || d.ty == 1 || d.ty == 3) (fun x qid d s1 =>
    let off := (gReg x.g (leadOf x) w.b.toNat).toNat
    match (if off % 32 = 0 then spadAt x.g off (qSize d) else none) with
    | none => issueFault x 0x71 0 0 x.act false s1
    | some a =>
      if qRoom d then sysReply x w d.prod none (appendEntry s1 qid d (memBytes s1 a (qSize d)))
      else sysReply x w 0xFFFFFFFF none s1) s

/-- QGET (Table 16.18): copies the entry at CONS into the scratchpad; 1 when the queue is empty. -/
def execQget (u : Issue) (w : Lpk) (s : State) : Out :=
  sysOp .qget u w anyRoom (fun d => (d.ty == 2 || d.ty == 3) && !d.hostCons) (fun x qid d s1 =>
    let off := (gReg x.g (leadOf x) w.b.toNat).toNat
    match (if off % 32 = 0 then spadAt x.g off (qSize d) else none) with
    | none => issueFault x 0x71 0 0 x.act false s1
    | some a =>
      if d.prod = d.cons then sysReply x w 1 none s1
      else
        let src := qSlot d d.cons
        let s2 := (engRead s1 d.owner src (qSize d)).2
        let s3 := memPut s2 a (seenBytes s2 src (qSize d))
        sysReply x w 0 none (modDesc s3 qid (fun d => { d with cons := d.cons + 1 }))) s

/-- QSTAT (Table 16.18): the indices of a queue of the context. -/
def execQstat (u : Issue) (w : Lpk) (s : State) : Out :=
  sysOp .qstat u w anyRoom (fun _ => true) (fun x _ d s1 => sysReply x w d.prod (some d.cons) s1) s

/-! ### Held events (R376) -/

/-- HELD_EVENT_POST (07 R159, R376): the first entry held for a queue is written when it has room. -/
def execHeldEventPost (qid : Nat) (s : State) : Out :=
  match findIdxFrom (fun (h : HeldEv) => h.qid == qid) 0 s.que.held, descOf s qid with
  | some (i, h), some d =>
    if canAppend s d then
      let s1 := touchDesc { s with que := { s.que with held := dropAt s.que.held i } } qid
      .next (countEvent (appendEntry s1 qid d h.bytes) h.bytes)
    else .next s
  | _, _ => .next s

/-! ### Launch entries (R377, Table 16.15) -/

/-- The acceptance number of an entry's doorbell (R378). -/
def bellOf (d : QDesc) (i : W32) : Nat := ((d.bells.find? (fun b => (i - b.1).msb)).map (·.2)).getD 0

/-- A field of a launch entry. -/
def entField (e : List Byte) (off n : Nat) : Nat := bytesNat ((e.drop off).take n)

/-- Whether a context's kernel mode is canonical. -/
def ctxCanonical (s : State) (ctx : Nat) : Bool := isCanonical s ctx

/-- The checks of R377 on an entry, in the order of Table 16.17: the reason of the first that fails, or the launch. -/
def checkEntry (s : State) (qid : Nat) (d : QDesc) (i : W32) (e : List Byte) : Except Nat Launch :=
  match SMap.get? s.kernels (entField e 0x00 8) with
  | none => .error 0x01
  | some k =>
    let groups := entField e 0x0A 1
    let cores := entField e 0x10 8 % 2 ^ 48
    let arg := entField e 0x18 8 % 2 ^ 48
    if k.canonical != ctxCanonical s d.owner then .error 0x02
    else
      match (if groups ≤ 32 then k.entries[entField e 0x08 2]? else none) with
      | none => .error 0x03
      | some (pc, n) =>
        if cores = 0 || cores &&& dptVal s 0x13 != cores then .error 0x04
        else if (localRegion s d.owner arg 1 .read).isNone then .error 0x05
        else if decide (dptVal s 0x33 < k.tregs) || decide (dptVal s 0x40 - 16384 < k.spad) || decide (dptVal s 0x37 < k.oc) then
          .error 0x06
        else
          .ok { qid := qid, index := i, ctx := d.owner, kernel := entField e 0x00 8, entryPc := pc,
                groups := if groups = 0 then n else groups, tokbase := entField e 0x0C 4 % 2 ^ 22, cores := cores, arg := arg,
                doneSig := (entField e 0x0B 1).testBit 1, doneEvent := (entField e 0x0B 1).testBit 2,
                doneVs := entField e 0x22 2, tag := entField e 0x28 8, stamp := bellOf d i, placed := [], ended := [],
                started := false, cut := false }

/-- The watch on a launch's START object (R377): registered by the queue block, or none where the segment has no watch entry. An ID
that is not VALID or grants no WAIT ends the entry as START_LOST (log entry 19). -/
def startWatch (s : State) (qid : Nat) (ctx vs value : Nat) : State :=
  let t := translate s 0 ctx vs
  if xValid t.1 && xWait t.1 then
    let p := xObj t.1
    if watchesTaken t.2 (objSeg p) < 1024 then
      let w : SWatch := { ctx := ctx, cond := 0, operand := BitVec.ofNat 32 value, tag := 0, vs := vs, dest := .launch qid }
      let s := modDesc t.2 qid (fun d => { d with startWait := d.startWait.map (fun x => (x.1, true)) })
      syncSend s { obj := p, frm := none, ctx := ctx, ord := 0, pc := 0, mask := 0, op := .watch w 0 0 }
    else
      modDesc (bump0 t.2 .syn (objDie p) 0x048) qid (fun d => { d with startWait := d.startWait.map (fun x => (x.1, false)) })
  else startOutcome t.2 qid false

/-- The entry at an index of a queue, read from memory. -/
def ringEntry (s : State) (d : QDesc) (i : W32) : List Byte := seenBytes s (qSlot d i) (qSize d)

/-- LAUNCH_ENTRY_TAKE (R377): the queue block takes a LAUNCH queue's next entry and checks it; START holds the queue until the
condition is met. -/
def execLaunchEntryTake (qid : Nat) (s : State) : Out :=
  match descOf s qid with
  | none => .next s
  | some d =>
    if d.ty = 0 && d.take != d.prod && d.startWait.isNone && !stopsLaunch s d.owner && !isQuiesced s d.owner then
      let i := d.take
      let s := touchDesc (engRead s d.owner (qSlot d i) 64).2 qid
      let e := ringEntry s d i
      let s := modDesc s qid (fun d => { d with take := d.take + 1 })
      match checkEntry s qid d i e with
      | .error r => .next (launchFail s qid d.owner (entField e 0x28 8) r i)
      | .ok l =>
        let id := s.que.nextLaunch
        let s := { s with
          que := { s.que with launches := SMap.put s.que.launches id l, nextLaunch := id + 1 }
          kernels := SMap.mod s.kernels l.kernel (fun k => { k with held := id :: k.held, lastLaunch := s.now }) }
        if (entField e 0x0B 1).testBit 0 then
          let s := modDesc s qid (fun d => { d with startWait := some (id, false) })
          .next (startWatch s qid d.owner (entField e 0x20 2) (entField e 0x24 4))
        else .next (launchStart s id)
    else .next s

/-- LAUNCH_WATCH_RETRY (R377): a START watch that found no free entry is tried again. -/
def execLaunchWatchRetry (qid : Nat) (s : State) : Out :=
  match descOf s qid with
  | none => .next s
  | some d =>
    match d.startWait with
    | some (id, false) =>
      match SMap.get? s.que.launches id with
      | some l =>
        let e := ringEntry s d l.index
        .next (startWatch s qid d.owner (entField e 0x20 2) (entField e 0x24 4))
      | none => .next s
    | _ => .next s

/-! ### Placing groups (07 R138-R140, 06 R110, R113, R378) -/

/-- `x` rounded up to 4 KiB. -/
def up4k (x : Nat) : Nat := (x + 4095) / 4096 * 4096

/-- The lowest base at which `size` bytes fit below `limit` outside the busy ranges (base, size). -/
def lowestFit (busy : List (Nat × Nat)) (size limit : Nat) : Option Nat :=
  let cands := (0 :: busy.map (fun b => up4k (b.1 + b.2))).foldl insertNat []
  cands.find? (fun c => decide (c + size ≤ limit) && busy.all (fun b => decide (c + size ≤ b.1) || decide (b.1 + b.2 ≤ c)))

/-- The parts of a core's scratchpad window that LOCAL regions map. -/
def mappedSpad (s : State) (n : Nat) : List (Nat × Nat) :=
  s.regions.filterMap (fun e =>
    let lo := max (e.2.base * 4096) (spadBase n)
    let hi := min ((e.2.limit + 1) * 4096) (spadBase n + 0x400000)
    if e.2.valid && !e.2.kind && decide (lo < hi) then some (lo - spadBase n, hi - lo) else none)

/-- The bytes of a map between two keys set to zero. -/
def zeroRange (m : SMap Byte) (a n : Nat) : SMap Byte := m.filter (fun e => !(decide (a ≤ e.1) && decide (e.1 < a + n)))

/-- A launch's scratchpad area and operand-cache window on a core: those it has, or allocated and zeroed (R113, R140). -/
def allocAreas (s : State) (n launch spad oc : Nat) : Option (Area × Area × State) :=
  let c := coreOf s n
  match c.spadAreas.find? (fun a => a.launch == launch), c.ocAreas.find? (fun a => a.launch == launch) with
  | some a, some b => some (a, b, s)
  | _, _ =>
    let busyS := c.spadAreas.map (fun a => (a.base, a.size)) ++ mappedSpad s n
    let busyO := c.ocAreas.map (fun a => (a.base, a.size))
    match lowestFit busyS (up4k spad) recOff, lowestFit busyO (up4k oc) 262144 with
    | some x, some y =>
      let a : Area := { launch := launch, base := x, size := up4k spad }
      let b : Area := { launch := launch, base := y, size := up4k oc }
      let s := memZero s (spadBase n + x) (up4k spad)
      some (a, b, modCore s n (fun c => { c with
        spadAreas := c.spadAreas ++ [a], ocAreas := c.ocAreas ++ [b], opcache := zeroRange c.opcache y (up4k oc) }))
    | _, _ => none

/-- The tile registers of a core that groups hold, parked and suspended ones included (R110, 07 R159). -/
def tilesHeld (c : Core) : Nat :=
  c.slots.foldl (fun k g => k + (match g with | some (g : Group) => g.tiles.length | none => 0)) 0
  + c.recs.foldl (fun k r => k + (match r.grp with | some g => g.tiles.length | none => 0)) 0

/-- Whether an earlier launch has the next claim on a core (R378): an earlier entry of the same queue, or one whose doorbell was
accepted before. -/
def launchBehind (s : State) (id : Nat) (l : Launch) (n : Nat) : Bool :=
  s.que.launches.any (fun e =>
    let o := e.2
    e.1 != id && !o.cut && !isPreempted s o.ctx && o.cores.testBit n && decide (SMap.getD o.placed n 0 < o.groups)
    && (if o.qid = l.qid then (o.index - l.index).msb
        else o.started && (decide (o.stamp < l.stamp) || (o.stamp == l.stamp && decide (e.1 < id)))))

/-- A group at its start (R138). -/
def startGroup (s : State) (n id : Nat) (l : Launch) (k : Kernel) (a b : Area) : Group :=
  { ctx := l.ctx, canonical := k.canonical, launch := id, kernel := l.kernel, sgid := SMap.getD l.placed n 0, gcount := l.groups,
    age := (coreOf s n).seq, arg := l.arg, spadBase := spadBase n + a.base, spadBytes := a.size, ocBase := b.base, ocBytes := b.size,
    threads := List.replicate 32 (Thread.start l.entryPc (BitVec.ofNat 32 l.tokbase)), cur := 0, curIssues := 0, splits := [],
    barrier := none, wait := .none, park := none, ord := 0, fences := [], farinvs := [], sent := [], numf := 0, fpl := 0, fpf := 0,
    mtiles := List.replicate 7 0, tiles := List.replicate k.tregs (List.replicate 256 0), bind := none, lastIssue := ckOf s n,
    lastYield := none }

/-- Whether a launch has placed all of its groups on all of its cores. -/
def allPlaced (l : Launch) : Bool :=
  (List.range 48).all (fun n => !l.cores.testBit n || decide (l.groups ≤ SMap.getD l.placed n 0))

/-- LAUNCH_PLACE (R138, R378): the next group of a launch starts in the lowest free slot of a core, once its tile registers, its
scratchpad area and its operand-cache window are there, and no restored group or earlier launch has the claim. CONS passes the entry
when the last group is placed. -/
def execLaunchPlace (id : Nat) (n : Fin 48) (s : State) : Out :=
  let k := n.val
  match SMap.get? s.que.launches id, freeSlot (coreOf s k) with
  | some l, some i =>
    match SMap.get? s.kernels l.kernel with
    | none => .next s
    | some kn =>
      let c := coreOf s k
      if l.started && !l.cut && !stopsLaunch s l.ctx && l.cores.testBit k && decide (SMap.getD l.placed k 0 < l.groups)
          && coreRuns s k && !launchBehind s id l k && c.recs.all (fun r => r.st != .restoring || (match r.grp with | some g => isPreempted s g.ctx | none => true))
          && decide (tilesHeld c + kn.tregs ≤ 64) then
        match allocAreas s k id kn.spad kn.oc with
        | none => .next s
        | some (a, b, s) =>
          let g := startGroup s k id l kn a b
          let s := modCore s k (fun c => { c with slots := setAt (padUp 32 none c.slots) i (some g), seq := (c.seq + 1) % 2 ^ 64 })
          let l := { l with placed := SMap.put l.placed k (SMap.getD l.placed k 0 + 1) }
          let s := { s with que := { s.que with launches := SMap.put s.que.launches id l } }
          .next (if allPlaced l then entryDone s l.qid l.index else s)
      else .next s
  | _, _ => .next s

/-- LAUNCH_COMPLETE (R378): the last group of a launch has ended on its last core, and what its groups left in the queues is over: DONE_VSYNC is signalled and LAUNCH_DONE posted. -/
def execLaunchComplete (id : Nat) (s : State) : Out :=
  match SMap.get? s.que.launches id with
  | none => .next s
  | some l =>
    if !l.cut && allPlaced l && (List.range 48).all (fun n =>
        !l.cores.testBit n || (SMap.getD l.ended n 0 == l.groups && (coreOf s n).ended.all (fun g => g.launch != id))) then
      let s := dropLaunch s id l
      let s := if l.doneSig then hwSignal s 0 l.ctx l.doneVs 1 else s
      .next (if l.doneEvent then postEvent s l.ctx 0x03 0 0 l.qid l.tag l.index.toNat none else s)
    else .next s

/-! ### The QUE block (R382) -/

/-- QUE_CTRL: CLR_COUNTS; FLUSH writes descriptors back, which no one but firmware and the queue block sees (R373). -/
def queCtrl (w : RegWr) (s : State) : Out :=
  ctlWrite w .que (fun off => off == 0x008) fwOnly (fun u _ v s => clearIf v 0 .que (offs 0x010 0x050) u s) s

/-- QUE_CLR_COUNTS (R382). -/
def execQueClrCounts (w : RegWr) (s : State) : Out := queCtrl w s
/-- QUE_FLUSH (R382). -/
def execQueFlush (w : RegWr) (s : State) : Out := queCtrl w s

end Sys2Proof.Machine
end

