-- ==== Sys2Proof/Machine/Engine.lean ====
section
/-! DEFINITION. What the matrix queue, the vector engine, the DMA and gather engines share: rights (08 R167), matrix tile
descriptors (04 Table 4.1), rows of tensors read and written (03 R39-R45), numeric events (03 R52-R64), transfers split into fabric
transactions (12 R273). -/

namespace Sys2Proof.Machine

/-! ### Rights -/

/-- Whether an engine may access `[a, a + n)` of the module for a context, or for a launch's own scratchpad area (R140, R167). -/
def engMay (s : State) (ctx : Nat) (launch : Option Nat) (a n : Nat) (p : Perm) : Bool :=
  oneSpace s a n &&
  (match spaceOf s a with
    | .spad c =>
      decide ((a - 0x100000000) % 0x400000 + n ≤ recOff)
        && ((launch.isSome && areaLaunch s c a n == launch) || (localRegion s ctx a n p).isSome)
    | .edram => (localRegion s ctx a n p).isSome
    | .ddr => (localRegion s ctx a n p).isSome
    | .wbuf _ => (linesOf a n).all (fun line => match spaceOf s (128 * line) with | .wbuf q => winOpen s q | _ => false)
        && (localRegion s ctx a n p).isSome
    | _ => false)

/-- Whether a fabric global range may be accessed, through which entry (R285). -/
def engRemote (s : State) (ctx a n : Nat) (p : Perm) : Option Nat :=
  if 2 ^ 48 ≤ a && a < 2 ^ 60 then importRegion s ctx (globModule s a) (a % 2 ^ 48) n p else none

/-- Whether an address, module-local or fabric global, may be accessed. -/
def anyMay (s : State) (ctx : Nat) (launch : Option Nat) (a n : Nat) (p : Perm) : Bool :=
  if a < 2 ^ 48 then engMay s ctx launch a n p else (engRemote s ctx a n p).isSome

/-- An engine's access refused to a context: of the register space and of park records it is counted in the fault log (R167, R199). -/
def engRefuse (s : State) (ctx a : Nat) (store : Bool) : State :=
  match spaceOf s a with
  | .regs => ctxRefuse s ctx a 0xFF store
  | .spad _ => if recOff ≤ (a - 0x100000000) % 0x400000 then ctxRefuse s ctx a 0xFF store else s
  | _ => s

/-- The context whose kernels are canonical converts, sweeps and chains canonically. -/
def canonOf (s : State) (ctx : Nat) : Bool := isCanonical s ctx

/-! ### Numeric events (03 Tables 3.8, 3.9) -/

/-- Events of one operation: flags and counts. -/
structure NumEv where
  flags : Nat
  alignE : Nat
  alignZ : Nat
  alignB : Nat
  rsvd : Nat
  sat : Nat
  poison : Nat
  deriving DecidableEq, Repr

/-- No event. -/
def NumEv.none : NumEv := ⟨0, 0, 0, 0, 0, 0, 0⟩
/-- Two operations' events together. -/
def NumEv.add (a b : NumEv) : NumEv :=
  ⟨a.flags ||| b.flags, a.alignE + b.alignE, a.alignZ + b.alignZ, a.alignB + b.alignB, a.rsvd + b.rsvd, a.sat + b.sat,
    a.poison + b.poison⟩
/-- Flag bits (Table 3.9). -/
def nfAlign : Nat := 1
/-- SAT. -/
def nfSat : Nat := 2
/-- RSVD_CODE. -/
def nfRsvd : Nat := 4
/-- POISON_IN. -/
def nfPoisonIn : Nat := 8
/-- POISON_OUT. -/
def nfPoisonOut : Nat := 16
/-- FP_OVF. -/
def nfFpOvf : Nat := 32
/-- TRK_SAT. -/
def nfTrkSat : Nat := 64

/-- NUM_STICKY of a core and sNUMF of a group set (R63). -/
def numFlags (s : State) (n age fl : Nat) : State :=
  if fl = 0 then s
  else
    let a := regAddr .num n 0
    modByAge (regPut s a (regGet s a ||| fl)) n age (fun g => { g with numf := g.numf ||| fl })

/-- Numeric events reported in a core's NUM block and to a group (R52, R63). -/
def numEvent (s : State) (n ctx age : Nat) (e : NumEv) : State :=
  let s := numFlags s n age e.flags
  let c := some ctx
  let s := bumpC s .num n 0x10 e.alignE c
  let s := bumpC s .num n 0x18 e.alignZ c
  let s := bumpC s .num n 0x20 e.alignB c
  let s := bumpC s .num n 0x28 e.rsvd c
  let s := bumpC s .num n 0x30 e.sat c
  bumpC s .num n 0x38 e.poison c

/-! ### Matrix tile descriptors (04 Table 4.1) -/

/-- The MTD at an address. -/
def readMtd (s : State) (a : Nat) : Mtd :=
  { mbase := memNat s a 8, sbase := memNat s (a + 8) 8, mpitch := memNat s (a + 0x10) 4,
    spitch := memNat s (a + 0x14) 4, rows := memNat s (a + 0x18) 1, cols := memNat s (a + 0x19) 1,
    fmt := memNat s (a + 0x1A) 1, trk := (memNat s (a + 0x1B) 1).testBit 0, tracker := memNat s (a + 0x1C) 2 }

/-- The block format of an FMT code; none for FP32, BF16 and BIT8. -/
def Mtd.blk (m : Mtd) : Option BFmt := bfmtOf m.fmt

/-- The pitch granule of an FMT. -/
def fmtGrain (f : Nat) : Nat :=
  match bfmtOf f with
  | some b => b.blockBytes
  | none => if f = 3 then 4 else if f = 4 then 2 else 32

/-- The field rules of R74 that hold in every role: a defined FMT and a pitch that is a multiple of its granule. -/
def Mtd.ok (m : Mtd) : Bool := decide (m.fmt ≤ 5) && m.mpitch % fmtGrain m.fmt == 0

/-- Whether the planes an MTD names are module-local; SBASE is ignored for FP32, BF16 and BIT8 (R74). -/
def Mtd.isLocal (m : Mtd) : Bool := decide (m.mbase < 2 ^ 48) && (m.blk.isNone || decide (m.sbase < 2 ^ 48))

/-- The address and bytes of elements `[c, c + k)` of row `r` in the mantissa or element plane. -/
def Mtd.span (m : Mtd) (r c k : Nat) : Nat × Nat :=
  let base := m.mbase + r * m.mpitch
  match m.blk with
  | some b => (base + c / 32 * b.blockBytes, ((c + k + 31) / 32 - c / 32) * b.blockBytes)
  | none => let sz := if m.fmt = 3 then 4 else if m.fmt = 4 then 2 else 1
            (base + c * sz, k * sz)

/-- The address and bytes of the scale plane for those elements; no bytes where there is none. -/
def Mtd.scaleSpan (m : Mtd) (r c k : Nat) : Nat × Nat :=
  match m.blk with
  | some _ => (m.sbase + r * m.spitch + c / 32, (c + k + 31) / 32 - c / 32)
  | none => (m.sbase, 0)

/-- The ranges of a rectangle of a tensor, both planes. -/
def Mtd.spans (m : Mtd) (r0 nr c k : Nat) : List (Nat × Nat) :=
  (List.range nr).flatMap (fun i => [m.span (r0 + i) c k, m.scaleSpan (r0 + i) c k])

/-! ### Rows of tensors -/

/-- Block `b` of row `r` of a block tensor. -/
def readBlock (s : State) (m : Mtd) (f : BFmt) (r b : Nat) : Blk :=
  readBlk f (memByte s (m.sbase + r * m.spitch + b)).toNat (memBytes s (m.mbase + r * m.mpitch + b * f.blockBytes) f.blockBytes)

/-- The events of a block that is read. -/
def blkEv (b : Blk) : NumEv :=
  { NumEv.none with
    flags := (if b.rsvd = 0 then 0 else nfRsvd) ||| (if b.poison then nfPoisonIn else 0), rsvd := b.rsvd, poison := b2n b.poison }

/-- A 32-bit element of a plain plane as FP32. -/
def plainElem (s : State) (m : Mtd) (r c : Nat) : W32 :=
  if m.fmt = 4 then bf16ToFp32 (BitVec.ofNat 16 (memNat s (m.mbase + r * m.mpitch + 2 * c) 2))
  else memW32 s (m.mbase + r * m.mpitch + 4 * c)

/-- Elements `[c, c + k)` of row `r` as FP32 (R42), with the events. -/
def readRow (s : State) (m : Mtd) (r c k : Nat) : List W32 × NumEv :=
  match m.blk with
  | some f =>
    let bs := (List.range ((c + k + 31) / 32 - c / 32)).map (fun i => readBlock s m f r (c / 32 + i))
    let vs := bs.flatMap (fun b => b.ms.map (blkFp32 f b.e))
    ((vs.drop (c % 32)).take k, bs.foldl (fun e b => e.add (blkEv b)) NumEv.none)
  | none => ((List.range k).map (fun i => plainElem s m r (c + i)), NumEv.none)

/-! ### Conversion to blocks (R45, R57-R60) -/

/-- A block converted, under a tracker where one is named; its events. -/
def convBlock (s : State) (f : BFmt) (trk : Option Nat) (xs : List W32) : BlkOut × State × NumEv :=
  let t := trk.map (fun i => SMap.getD s.trackers i Tracker.off)
  let o := toBlock xs f (t.map (fun t => t.e))
  let s := match trk, t with
    | some i, some t => { s with trackers := SMap.setD s.trackers i Tracker.off (trackerObserve t o o.e) }
    | _, _ => s
  let sat := o.sat != 0
  (o, s, { NumEv.none with
    flags := (if sat then nfSat ||| (if trk.isSome then nfTrkSat else 0) else 0) ||| (if o.poison then nfPoisonOut else 0),
    sat := o.sat })

/-- The tracker of an MTD that converts under one. -/
def Mtd.tracked (m : Mtd) : Option Nat := if m.trk then some m.tracker else none

/-- Whether a named tracker may be used: assigned to the context, of the destination's format (R61, R62). -/
def trackerOk (s : State) (ctx : Nat) (m : Mtd) : Bool × Bool :=
  let t := SMap.getD s.trackers m.tracker Tracker.off
  (!m.trk || (t.enabled && t.owner == ctx), !m.trk || t.fmt == m.fmt)

/-- Bytes of a block and its scale written. -/
def putBlock (s : State) (ctx : Nat) (m : Mtd) (f : BFmt) (r b : Nat) (o : BlkOut) (noalloc : Bool) : State :=
  let s := engWrite s ctx (m.mbase + r * m.mpitch + b * f.blockBytes) (blockBytesOf f o.ms) noalloc
  engWrite s ctx (m.sbase + r * m.spitch + b) [BitVec.ofNat 8 o.e] noalloc

/-- FP32 values written as blocks along row `r` from column `c`, a multiple of 32 (R40, R45). -/
def writeBlocks (ctx : Nat) (m : Mtd) (f : BFmt) (r : Nat) (noalloc : Bool) : State → Nat → List (List W32) → State × NumEv
  | s, _, [] => (s, NumEv.none)
  | s, b, xs :: rest =>
    let k := convBlock s f m.tracked (padTo 32 0 xs)
    let t := writeBlocks ctx m f r noalloc (putBlock k.2.1 ctx m f r b k.1 noalloc) (b + 1) rest
    (t.1, k.2.2.add t.2)

/-- The bytes of plain elements. -/
def plainBytes (fmt : Nat) (xs : List W32) : List Byte :=
  if fmt = 4 then xs.flatMap (fun x => natBytes 2 (fp32ToBf16 x).1.toNat) else xs.flatMap (fun x => natBytes 4 x.toNat)

/-- FP32 values written to row `r` of a tensor from column `c` on (R42, R45). -/
def writeRow (s : State) (ctx : Nat) (m : Mtd) (r c : Nat) (xs : List W32) (noalloc : Bool) : State × NumEv :=
  match m.blk with
  | some f => writeBlocks ctx m f r noalloc s (c / 32) (chunksOf 32 xs.length xs)
  | none => (engWrite s ctx (m.span r c xs.length).1 (plainBytes m.fmt xs) noalloc, NumEv.none)

/-! ### Fabric transactions of engines (12 R273, R285) -/

/-- A range split at 512-byte boundaries: address and length of each piece. -/
def split512 : Nat → Nat → Nat → List (Nat × Nat)
  | 0, _, _ => []
  | fuel + 1, a, n =>
    if n = 0 then []
    else
      let k := min n (512 - a % 512)
      (a, k) :: split512 fuel (a + k) (n - k)

/-- The pieces of a range. -/
def pieces (a n : Nat) : List (Nat × Nat) := split512 (n / 512 + 2) a n

/-- A transaction of an engine to a fabric global address through its IMPORT entry. -/
def engTxn (s : State) (ctx tag ty op a n : Nat) (flag noalloc : Bool) (payload : List Byte) (p : Perm) : Txn :=
  let r := regionAt s ((engRemote s ctx a n p).getD 0)
  { ty := ty, op := op, flag := flag, noalloc := noalloc, retx := false, dst := globModule s a, src := selfId s,
    tag := BitVec.ofNat 12 tag, ridx := r.ridx, addr := BitVec.ofNat 48 (a % 2 ^ 48), len := n, sctx := BitVec.ofNat 8 ctx,
    key := r.key, seq := 0, arg0 := 0, arg1 := 0, payload := payload }

/-- The address and the bytes that a WRITE writes. -/
def txnWrite (t : Txn) : Nat × List Byte :=
  match t.part with
  | none => (t.addr.toNat, t.payload)
  | some (lo, n) => (t.addr.toNat + lo, (t.payload.drop lo).take n)

/-- Bytes split at 512-byte boundaries and taken in whole words, as WRITEs carry them (12 R273): address, payload, place. -/
def writeParts (a : Nat) (bs : List Byte) : List (Nat × List Byte × Option (Nat × Nat)) :=
  (pieces a bs.length).map (fun e => spanWords e.1 ((bs.drop (e.1 - a)).take e.2))

/-- Transactions that enter the connection state's waiting list. -/
def fabEnter (s : State) (l : List OutTxn) : State := { s with fab := { s.fab with waiting := s.fab.waiting ++ l } }

/-- Far lines dropped by an engine's DEAD hint (08 R181). -/
def engFarDrop (s : State) (a n : Nat) : State :=
  let m := (globModule s a).toNat
  (linesOf (a % 2 ^ 48) n).foldl (fun s line => dropFar s (farLine m line)) s

/-- What an engine's WRITE, ACCUM or ATOMIC does to the module's far lines before it is sent (08 R177, 09 R222). -/
def farSent (s : State) (t : Txn) : State :=
  let m := t.dst.toNat
  let a := t.addr.toNat
  if t.ty = 2 then
    let w := txnWrite t
    (linesOf w.1 w.2.length).foldl (fun s line => let p := linePart w.1 w.2 line; storeFar s (farLine m line) p.1 p.2) s
  else if t.ty = 3 || t.ty = 4 then
    (linesOf a (max t.len 4)).foldl (fun s line => dropFar (passFar s (farLine m line)) (farLine m line)) s
  else s

end Sys2Proof.Machine
end

