-- ==== Sys2Proof/Machine/Sweep.lean ====
section
/-! DEFINITION. The arithmetic of a native sweep: operands, alignment (03 R47-R56), cell modes (05 R92-R99), check cells, verdicts and
drained values (04 R84, R55; 05 R96). -/

namespace Sys2Proof.Machine

/-! ### Operands -/

/-- A block of 32 bytes of a BIT8 row: stored bytes without exponent (05 R92). -/
def bit8Blk (bs : List Byte) : Blk := ⟨0, bs.map (fun b => (b.toNat : Int)), 0⟩

/-- A block of mantissa 0 with exponent 0, which rows and columns that are not there feed. -/
def zeroBlk : Blk := ⟨0, List.replicate 32 0, 0⟩

/-- Block `b` of row `r` of an array operand. -/
def opBlock (s : State) (m : Mtd) (r b : Nat) : Blk :=
  match m.blk with
  | some f => readBlock s m f r b
  | none => bit8Blk (memBytes s (m.mbase + r * m.mpitch + 32 * b) 32)

/-- The 128 activation rows of a native sweep: their blocks over `[koff, koff + k)`. -/
def actRows (s : State) (m : Mtd) (koff k : Nat) : List (List Blk) :=
  (List.range 128).map (fun i =>
    if i < m.rows then (List.range (k / 32)).map (fun b => opBlock s m i (koff / 32 + b))
    else List.replicate (k / 32) zeroBlk)

/-- The bytes of a weight row in a ring of a format (04 The weight buffer ring). -/
def ringRowBytes (fmt : Nat) : Nat := if fmt = 0 then 64 else if fmt = 2 then 256 else 128
/-- The rows a ring holds. -/
def ringCap (fmt : Nat) : Nat := 262144 / ringRowBytes fmt
/-- The row of a ring that a 32-bit row number names, the nearest to HEAD (04 R70). -/
def ringNo (r : Ring) (x : Nat) : Nat := ((r.head : Int) + signed 32 ((x + 2 ^ 32 - r.head % 2 ^ 32) % 2 ^ 32)).toNat
/-- The address of the mantissas of a row in the window of array `q` (04 R70, R73). -/
def ringRowAddr (q fmt row : Nat) : Nat := wbufBase q + row % ringCap fmt * ringRowBytes fmt

/-- The 128 mantissas of a row in the ring of array `q`, with whether each is a reserved code. -/
def ringRow (s : State) (q fmt row : Nat) : List (Int × Bool) :=
  let bs := memBytes s (ringRowAddr q fmt row) (ringRowBytes fmt)
  match bfmtOf fmt with
  | some .b16 => (chunksOf 2 128 bs).map (fun c => readMant .b16 (bytesNat c))
  | some f => (blockCodes f bs).map (readMant f)
  | none => bs.map (fun b => ((b.toNat : Int), false))

/-- The blocks of the 128 weight columns over 32 ring rows from `row0`. -/
def ringBlocks (s : State) (q : Nat) (r : Ring) (fmt row0 : Nat) : List Blk :=
  let rows := (List.range 32).map (fun i => ringRow s q fmt (row0 + i))
  let es := SMap.getD r.scales (row0 / 32) []
  (List.range 128).map (fun j =>
    let ms := rows.map (fun x => nth x j (0, false))
    ⟨(nth es j 0).toNat, ms.map (·.1), (ms.filter (·.2)).length⟩)

/-- The MWLOAD that brought a row (04 R85). -/
def loadOfRow (r : Ring) (row : Nat) : Option WLoad :=
  (r.loads ++ r.done).find? (fun l => decide (l.first ≤ row) && decide (row < l.first + l.rows))

/-- The blocks of the 128 weight columns over 32 rows that the ring does not hold, from their MWLOAD's source: rows that have been
retired (04 R85), and rows beyond the ring's capacity, which land while a RETIRE sweep streams (04 R72). -/
def sourceBlocks (s : State) (r : Ring) (row0 : Nat) : List Blk :=
  match loadOfRow r row0 with
  | none => List.replicate 128 zeroBlk
  | some l => (List.range 128).map (fun j =>
      if j < l.src.rows then opBlock s l.src j ((l.koff + (row0 - l.first)) / 32) else zeroBlk)

/-- The 128 weight columns over `[start, start + k)` of array `q`'s ring. -/
def weightCols (s : State) (q : Nat) (r : Ring) (fmt start k : Nat) : List (List Blk) :=
  let first := ringNo r start
  let bs := (List.range (k / 32)).map (fun b =>
    let row0 := first + 32 * b
    if row0 < r.head || decide (r.head + ringCap fmt ≤ row0) then sourceBlocks s r row0 else ringBlocks s q r fmt row0)
  (List.range 128).map (fun j => bs.map (fun b => nth b j zeroBlk))

/-! ### Alignment (R47, R48, R93, R94) -/

/-- The largest block exponent other than 0xFF; 0 for all poison. -/
def maxExp (bs : List Blk) : Nat := bs.foldl (fun e b => if b.poison then e else max e b.e) 0

/-- The mantissa that marks an absent element of a mode, if there is one (05 R94). -/
def absentOf (mode : Nat) (f : Option BFmt) : Option Int :=
  match f with
  | none => none
  | some f => if mode = 3 then some f.mmax else if mode = 4 then some (-(f.mmax : Int)) else none

/-- A block aligned to an exponent: none marks an absent element. -/
def alignBlk (f : Option BFmt) (es : Nat) (absent : Option Int) (b : Blk) : List (Option Int) :=
  match f with
  | none => b.ms.map some
  | some f =>
    if b.poison then b.ms.map (fun _ => some 0)
    else b.ms.map (fun m => if some m = absent then none else some (shrRne f m (es - b.e)))

/-- A row or column aligned. -/
def alignRow (f : Option BFmt) (es : Nat) (absent : Option Int) (bs : List Blk) : List (Option Int) :=
  bs.flatMap (alignBlk f es absent)

/-- What aligning a block loses (R52), and its reserved codes and poison; the reserved codes of a poison block are not counted here (DESIGN CHOICE, log
entry 90). -/
def alignBlkEv (f : Option BFmt) (es : Nat) (absent : Option Int) (b : Blk) : NumEv :=
  match f with
  | none => NumEv.none
  | some f =>
    if b.poison then { NumEv.none with flags := nfPoisonIn, poison := 1 }
    else
      let ms := b.ms.filter (fun m => some m != absent)
      let lost := ms.filter (fun m => shrLoses m (es - b.e))
      let zero := lost.filter (fun m => shrRne f m (es - b.e) == 0)
      { flags := (if lost.isEmpty then 0 else nfAlign) ||| (if b.rsvd = 0 then 0 else nfRsvd), alignE := lost.length,
        alignZ := zero.length, alignB := b2n (!lost.isEmpty), rsvd := b.rsvd, sat := 0, poison := 0 }

/-- The events of aligning rows or columns, each to its exponent. -/
def alignEv (f : Option BFmt) (absent : Option Int) (rows : List (List Blk)) (es : List Nat) : NumEv :=
  (rows.zip es).foldl (fun e r => r.1.foldl (fun e b => e.add (alignBlkEv f r.2 absent b)) e) NumEv.none

/-! ### Cells (05 Table 5.1) -/

/-- Set bits of a byte. -/
def popc8 (x : Nat) : Nat := ((List.range 8).filter (fun i => x.testBit i)).length

/-- The term of a mode on two present operands. -/
def cellTerm (mode : Nat) (a b : Int) : Int :=
  match mode with
  | 0 => a * b
  | 1 => (a - b).natAbs
  | 2 => (a - b) * (a - b)
  | 3 | 4 => a + b
  | 5 => popc8 (a.toNat ^^^ b.toNat)
  | _ => if a = b then 1 else 0

/-- The identity of a mode's fold (05 R94). -/
def foldId (mode : Nat) : Int := if mode = 3 then 2 ^ 30 else if mode = 4 then -(2 ^ 30) else 0
/-- The fold of a mode. -/
def cellFold (mode : Nat) (x t : Int) : Int := if mode = 3 then min x t else if mode = 4 then max x t else x + t

/-- A cell's accumulator after a stream of operand pairs. -/
def cellSum (mode : Nat) (as bs : List (Option Int)) : Int :=
  (as.zip bs).foldl (fun x p =>
    match p.1, p.2 with
    | some a, some b => cellFold mode x (cellTerm mode a b)
    | _, _ => x) (foldId mode)

/-- The byte operand of a B16 pass (R54): passes 0 to 3 are high × high, high × low, low × high, low × low. -/
def passPart (high : Bool) (x : Option Int) : Option Int := x.map (fun m => if high then m / 256 else m % 256)
/-- The operands of a pass; all but B16 have one. -/
def passRows (b16 : Bool) (high : Bool) (rows : List (List (Option Int))) : List (List (Option Int)) :=
  if b16 then rows.map (fun r => r.map (passPart high)) else rows

/-- `x mod 7`, in 0 to 6. -/
def res7 (x : Int) : Int := x % 7

/-- The sum of a list. -/
def sumInt (l : List Int) : Int := l.foldl (· + ·) 0
/-- The extremum of a list under a tropical mode's fold. -/
def optInt (mode : Nat) (l : List Int) : Int := l.foldl (cellFold mode) (foldId mode)

/-- Whether a mode is tropical. -/
def tropical (mode : Nat) : Bool := mode = 3 || mode = 4

/-- The operand value of an element that is not absent. -/
def present (x : Option Int) : Int := x.getD 0

/-- The check column of row operands: over K, the sum over all columns of the terms mod 7 (R84, 05 R98; their closed forms in Table 5.3
equal it), or the row's extremum from the extremum of the weights (05 R99). -/
def checkCell (mode : Nat) (row : List (Option Int)) (others : List (List (Option Int))) : Int :=
  let k := List.range row.length
  if tropical mode then
    k.foldl (fun x i =>
      let ws := others.filterMap (fun o => nth o i none)
      match nth row i none with
      | some a => if ws.isEmpty then x else cellFold mode x (a + optInt mode ws)
      | none => x) (foldId mode)
  else
    k.foldl (fun x i => res7 (x + sumInt (others.map (fun o => res7 (cellTerm mode (present (nth row i none)) (present (nth o i none))))))) 0

/-- The check column's cells. -/
def checkCol (mode : Nat) (as ws : List (List (Option Int))) : List Int := as.map (fun a => checkCell mode a ws)
/-- The check row's cells: residues of the columns' sums, or the duplicate of data row `dup` (05 R99). -/
def checkRow (mode dup : Nat) (as ws : List (List (Option Int))) : List Int :=
  if tropical mode then ws.map (fun w => cellSum mode (nth as dup []) w) else ws.map (fun w => checkCell mode w as)

/-! ### One pass into a physical bank -/

/-- The sums of one pass of a native sweep in array `a`, with the events of aligning activations and weights. -/
structure Pass where
  phys : Phys
  actEv : NumEv
  wtEv : NumEv

/-- Format codes as block formats; BIT8 has none. -/
def opFmt (c : Nat) : Option BFmt := bfmtOf c

/-- The operands of a native sweep as they stand: its activations, and the weights of each array it uses. -/
def readStaged (s : State) (n : Nat) (v : Native) : Staged :=
  { acts := actRows s v.act v.koff v.k
    wts := v.banks.map (fun b => weightCols s (2 * n + b / 2) (nth (coreOf s n).rings (b / 2) Ring.reset) v.wfmt v.start v.k) }

/-- Pass `pass` of a native sweep of the operands `o` on array `a` of core `n` for logical bank `bank`. The sweep exponent of the modes other than
MAC is one for all activation rows and all weight columns of the native sweep, of both arrays where it is paired (03 R49, 05 R93); a replay keeps
the one of its native sweep, `es`. -/
def runPass (s : State) (n a bank pass : Nat) (o : Staged) (es : Option Nat) (v : Native) : Pass :=
  let as := o.acts
  let ws := nth o.wts (v.banks.idxOf bank) []
  let fa := opFmt v.afmt
  let fw := opFmt v.wfmt
  let ea := as.map maxExp
  let ew := ws.map maxExp
  let all := es.getD ((ea ++ o.wts.flatMap (fun w => w.map maxExp)).foldl max 0)
  let ea := if v.mode = 0 then ea else ea.map (fun _ => all)
  let ew := if v.mode = 0 then ew else ew.map (fun _ => all)
  let xs := (as.zip ea).map (fun e => alignRow fa e.2 (absentOf v.mode fa) e.1)
  let ys := (ws.zip ew).map (fun e => alignRow fw e.2 (absentOf v.mode fw) e.1)
  let b16 := v.afmt = 2
  let xs := passRows b16 (decide (pass < 2)) xs
  let ys := passRows b16 (pass % 2 == 0) ys
  let dup := (nth (coreOf s n).arrays a Arr.reset).sweeps % 128
  let nan : List (List Blk) → List Bool := fun l => l.map (fun bs => fa.isSome && bs.any Blk.poison)
  { phys :=
      { bank := bank, native := v, pass := pass, replayed := false, injected := false, acc := xs.map (fun x => ys.map (cellSum v.mode x)),
        chkRow := checkRow v.mode dup xs ys, chkCol := checkCol v.mode xs ys, rowE := ea, colE := ew, rowNan := nan as, colNan := nan ws,
        dup := dup, operandBad := false },
    actEv := alignEv fa (absentOf v.mode fa) as ea, wtEv := alignEv fw (absentOf v.mode fw) ws ew }

/-- A cell's accumulator changed; row or column 128 is the check row or column (R84). -/
def upsetCell (p : Phys) (row col : Nat) (d : Int) : Phys :=
  if row < 128 && col < 128 then { p with acc := modAt p.acc row (fun r => modAt r col (· + d)) }
  else if col < 128 then { p with chkRow := modAt p.chkRow col (· + d) }
  else if row < 128 then { p with chkCol := modAt p.chkCol row (· + d) }
  else p

/-! ### The verdict (R84, R85, 05 R99) -/

/-- Where the check of a pass fails: rows and columns, 255 for the check column or row. -/
def failures (p : Phys) : List (Nat × Nat) :=
  let mode := p.native.mode
  let col : Nat → List Int := fun j => p.acc.map (fun r => nth r j 0)
  if tropical mode then
    let dup := (below 128 (fun j => nth (nth p.acc p.dup []) j 0 != nth p.chkRow j 0)).map (fun j => (p.dup, j))
    let ext := below 128 (fun i => optInt mode (nth p.acc i []) != nth p.chkCol i 0 && !(!dup.isEmpty && i == p.dup))
    dup ++ ext.map (fun i => (i, 255))
  else
    let rows := below 128 (fun i => res7 (sumInt (nth p.acc i [])) != res7 (nth p.chkCol i 0))
    let cols := below 128 (fun j => res7 (sumInt (col j)) != res7 (nth p.chkRow j 0))
    match rows, cols with
    | [i], [j] => [(i, j)]
    | _, _ => rows.map (fun i => (i, 255)) ++ cols.map (fun j => (255, j))

/-! ### Drained values (R55, R56, 05 R96) -/

/-- The bias of a format code. -/
def biasOf (c : Nat) : Int := match bfmtOf c with | some f => (f.bias : Int) | none => 0

/-- An exact FP32 value times `2^k` plus an integer, rounded once. -/
def addInt (x : W32) (m : Int) (k : Nat) : FRes := addVal (fval x) (.fin (decide (m < 0)) m.natAbs (k : Int))

/-- The value of a cell of a pass that is not one of B16's first three; `fold` is the B16 fold buffer's sum. -/
def cellValue (p : Phys) (i j : Nat) (acc : Int) (fold : W32) : FRes :=
  let v := p.native
  let ei : Int := (nth p.rowE i 0 : Nat)
  let ej : Int := (nth p.colE j 0 : Nat)
  if nth p.rowNan i false || nth p.colNan j false then ⟨fNaN, 0⟩
  else
    match v.mode with
    | 0 =>
      if v.afmt = 2 then
        let s := (addInt fold acc 0).v
        match fval s with
        | .fin sg m e => roundFp32 sg m (e + (ei + ej - 282))
        | x => ofVal x
      else roundInt acc (ei + ej - biasOf v.afmt - biasOf v.wfmt) false
    | 1 => roundInt acc (ei - biasOf v.afmt) false
    | 2 => roundInt acc (2 * (ei - biasOf v.afmt)) false
    | 3 => if acc = 2 ^ 30 then ⟨fPosInf, 0⟩ else roundInt acc (ei - biasOf v.afmt) false
    | 4 => if acc = -(2 ^ 30) then ⟨fNegInf, 0⟩ else roundInt acc (ei - biasOf v.afmt) false
    | _ => roundInt acc 0 false

/-- The fold buffer after a pass of B16 (R55): each step rounded once. -/
def foldStep (pass : Nat) (old : W32) (acc : Int) : W32 :=
  if pass = 0 then (roundInt acc 16 false).v else (addInt old acc 8).v

/-- Two sweeps' values of an element, or a destination's and the buffer's, combined (R68, 05 R96). -/
def combine (mode : Nat) (x v : W32) : W32 :=
  if mode = 3 then fmin x v else if mode = 4 then fmax x v else (fadd x v).v

/-- A 128 × 128 array of values made from row and column numbers. -/
def grid {α : Type} (f : Nat → Nat → α) : List (List α) := (List.range 128).map (fun i => (List.range 128).map (fun j => f i j))

/-- An element of a grid. -/
def gridAt {α : Type} (g : List (List α)) (i j : Nat) (d : α) : α := nth (nth g i []) j d

end Sys2Proof.Machine
end

