-- ==== Sys2Proof/Machine/Matrix.lean ====
section
/-! DEFINITION. The matrix queue, native sweeps, the fill engine, the drain units and the weight-buffer windows (04). -/

namespace Sys2Proof.Machine

/-! ### Parts of a core -/

/-- Array `a` of core `n`. -/
def arrOf (s : State) (n a : Nat) : Arr := nth (coreOf s n).arrays a Arr.reset
/-- An array changed. -/
def modArr (s : State) (n a : Nat) (f : Arr → Arr) : State := modCore s n (fun c => { c with arrays := modAt (padUp 2 Arr.reset c.arrays) a f })
/-- Logical bank `b` of core `n`. -/
def bankOf (s : State) (n b : Nat) : LBank := nth (coreOf s n).banks b LBank.reset
/-- A logical bank changed. -/
def modBank (s : State) (n b : Nat) (f : LBank → LBank) : State := modCore s n (fun c => { c with banks := modAt (padUp 4 LBank.reset c.banks) b f })
/-- The ring of array `a`. -/
def ringOf (s : State) (n a : Nat) : Ring := nth (coreOf s n).rings a Ring.reset
/-- A ring changed. -/
def modRing (s : State) (n a : Nat) (f : Ring → Ring) : State := modCore s n (fun c => { c with rings := modAt (padUp 2 Ring.reset c.rings) a f })
/-- A MAT counter advanced. -/
def matCount (s : State) (n off amount ctx : Nat) : State := bumpC s .mat n off amount (some ctx)
/-- MAT_CFG. -/
def matCfg (s : State) (n : Nat) : Nat := regGetD s (regAddr .mat n 0) 0x3
/-- Whether an array is enabled. -/
def arrOn (s : State) (n a : Nat) : Bool := (matCfg s n).testBit a

/-- Whether native sweeps of a logical bank are not all read (04 R76). -/
def bankBusy (c : Core) (b : Nat) : Bool :=
  c.stage.todo.any (fun v => v.banks.contains b)
  || c.arrays.any (fun a => a.phys.any (fun p => match p with | some (p : Phys) => p.bank == b | none => false)
      || (match a.replay with | some r => r.bank == b | none => false))

/-! ### Checks at the head of the queue (R74, R77, R456) -/

/-- Whether an address range lies where R74 and R456 allow. -/
def matMay (s : State) (n : Nat) (e : MatEntry) (own : Bool) (p : Perm) (r : Nat × Nat) : Bool :=
  r.2 = 0 ||
  ((match spaceOf s r.1 with
    | .spad c => !own || c == n
    | .edram => true
    | .ddr => true
    | _ => false) && engMay s e.ctx (some e.launch) r.1 r.2 p)

/-- The MTD at an offset of the launch's area, 32-byte aligned (R74). -/
def matMtdAt (s : State) (n : Nat) (e : MatEntry) (off : Nat) : Option Mtd :=
  (groupByAge s n e.age).bind (fun g => if off % 32 = 0 then (spadAt g off 32).map (readMtd s) else none)

/-- The MTD an entry names, within the field rules and of module-local addresses (R74). -/
def matMtd (s : State) (n : Nat) (e : MatEntry) (off : Nat) : Option Mtd := (matMtdAt s n e off).filter (fun m => m.ok && m.isLocal)

/-- The MTD of an MDRAIN; with FUSE its FMT, and what depends on it, is ignored (R74). -/
def drainMtd (s : State) (n : Nat) (e : MatEntry) (fuse : Bool) (off : Nat) : Option Mtd :=
  (matMtdAt s n e off).filter (fun m => if fuse then decide (m.mbase < 2 ^ 48)
    else m.ok && m.isLocal && !(m.trk && m.blk.isSome && decide (4095 < m.tracker)))

/-- What an entry does at the head. -/
inductive Head where
  | fault (cause : Nat)
  | wait
  | go (s : State)

/-- R53, R92: whether the formats may meet in a mode. -/
def pairFormats (mode fa fw : Nat) : Bool :=
  if mode = 0 then (decide (fa < 2) && decide (fw < 2)) || (fa == 2 && fw == 2)
  else if mode = 5 then fa == 5 && fw == 5
  else fa == fw && decide (fa < 2)

/-- The lengths of the native sweeps of a contraction (02 R32, Table 2.6, 03 R51, R68). -/
def splitLens (canon : Bool) (limit : Nat) (kernel : List Byte × Nat × Nat) (pc : Nat) : Nat → Nat → List Nat
  | 0, _ => []
  | fuel + 1, k =>
    if k = 0 then []
    else
      let top := min (if canon then 512 else limit) k
      let len := if canon then top else 32 * (1 + Config.sweepSplit kernel pc k % (top / 32))
      len :: splitLens canon limit kernel pc fuel (k - len)

/-- The native sweeps of a contraction in ascending K order. -/
def nativesOf (v : Native) : Nat → List Nat → List Native
  | _, [] => []
  | at_, k :: ks => { v with koff := v.koff + at_, start := v.start + at_, k := k, serial := v.serial + ks.length + 1 } :: nativesOf v (at_ + k) ks

/-- MSWEEP at the head (R67-R69, R72, R76, R77). Which cause answers where several checks fail, that MAT_ARRAY_OFF is a cause of MSWEEP alone, that
rings of two formats under PAIR answer MAT_PAIR, and that a sweep to a FAILED bank neither checks its rows nor retires them are the model's choices
(DESIGN CHOICE, log entry 91). -/
def headSweep (s : State) (n : Nat) (e : MatEntry) (mtd start koff : Nat) (retire pair : Bool) (mode bank k guard : Nat) : Head :=
  let b := bank % 2
  let banks := if pair then [b, 2 + b] else [bank]
  let lbs := banks.map (bankOf s n)
  let rings := banks.map (fun b => ringOf s n (b / 2))
  let fw := (rings.headD Ring.reset).fmt
  if banks.any (fun b => !arrOn s n (b / 2)) then .fault 0x47
  else if k = 0 || k % 32 != 0 || koff % 32 != 0 || start % 32 != 0 then .fault 0x45
  else
    match matMtd s n e mtd with
    | none => .fault 0x40
    | some m =>
      match fw with
      | none => .fault 0x44
      | some fw =>
        if rings.any (fun r => r.fmt != some fw) || !pairFormats mode m.fmt fw then .fault 0x41
        else if m.rows = 0 || decide (128 < m.rows) || !(m.spans 0 m.rows koff k).all (matMay s n e true .read) then .fault 0x40
        else if lbs.any (fun l => l.st != .empty && l.owner != e.ctx) then .fault 0x43
        else if lbs.any (fun l => l.st == .closing) || !(coreOf s n).stage.todo.isEmpty then .wait
        else if lbs.any (fun l => l.st != (lbs.headD LBank.reset).st) then .fault 0x42
        else if lbs.any (fun l => l.st == .opened && !(l.mode == mode && l.afmt == m.fmt && l.wfmt == fw && l.paired == pair)) then .fault 0x42
        else if lbs.any (fun l => l.st == .failed) then .go s
        else if rings.any (fun r =>
            let off := (start + 2 ^ 32 - r.head % 2 ^ 32) % 2 ^ 32
            decide (r.stop < r.head + off + k) || (retire && off != 0) || (!retire && decide (ringCap fw < off + k))) then .fault 0x44
        else
          let canon := canonOf s e.ctx
          let limit := if guard = 0 then 4096 else min (32 * guard) 4096
          let kernel := ((groupByAge s n e.age).bind (fun g => SMap.get? s.kernels g.kernel)).elim ([], 0, 0) (fun (k : Kernel) => (k.digest, k.dptGen, k.rev))
          let v : Native :=
            { banks := banks, mode := mode, afmt := m.fmt, wfmt := fw, act := m, koff := koff, start := start, k := k, retire := retire,
              ctx := e.ctx, slot := e.slot, age := e.age, serial := (coreOf s n).drainSerial }
          let lens := splitLens canon limit kernel e.pc (k / 32) k
          let vs := nativesOf v 0 lens
          let vs := vs.mapIdx (fun i x => { x with serial := v.serial + i })
          let s := banks.foldl (fun s b => modBank s n b (fun l =>
            { (if l.st == .empty then
                { LBank.reset with st := .opened, owner := e.ctx, mode := mode, afmt := m.fmt, wfmt := fw, paired := pair } else l) with
              acts := (if l.st == .empty then [] else l.acts) ++ [v] })) s
          .go (modCore s n (fun c => { c with stage := { c.stage with todo := vs, pass := 0 }, drainSerial := c.drainSerial + vs.length }))

/-- MZERO at the head (R67, R69, R76). -/
def headZero (s : State) (n : Nat) (e : MatEntry) (bank : Nat) : Head :=
  let l := bankOf s n bank
  if l.st != .empty && l.owner != e.ctx then .fault 0x43
  else if l.st == .closing || bankBusy (coreOf s n) bank then .wait
  else .go (modBank s n bank (fun _ => LBank.reset))

/-- MWLOAD at the head (R70, R71). -/
def headLoad (s : State) (n : Nat) (e : MatEntry) (mtd koff rows a : Nat) : Head :=
  if rows = 0 || rows % 32 != 0 || decide (1048576 < rows) || koff % 32 != 0 then .fault 0x45
  else
    match matMtd s n e mtd with
    | none => .fault 0x40
    | some m =>
      let r := ringOf s n a
      if m.fmt = 3 || m.fmt = 4 || (match r.fmt with | some f => f != m.fmt | none => false) then .fault 0x44
      else if m.rows = 0 || decide (128 < m.rows) || !(m.spans 0 m.rows koff rows).all (matMay s n e false .read) then .fault 0x40
      else
        .go (modRing s n a (fun r =>
          { r with
            fmt := some m.fmt, stop := r.stop + rows, ctxs := insertNat r.ctxs e.ctx,
            loads := r.loads ++ [{ first := r.stop, rows := rows, src := m, koff := koff, scaled := 0, landed := 0, ctx := e.ctx, held := [] }] }))

/-- The FMT a destination needs for an OUT value (R74). -/
def outFmt (out : Nat) : Nat := if out < 2 then 3 else if out = 2 then 4 else if out = 3 then 1 else 2

/-- The sync fault of a virtual ID that a unit of cluster `k` is to signal (10 R226, Table 10.6). -/
def sigFault (s : State) (k ctx vs : Nat) : Option Nat :=
  let e := xlatSeen s k ctx vs
  if xEcc e then some 0x24 else if !xValid e then some 0x20 else if !xSig e then some 0x21 else none

/-- MDRAIN at the head (R67-R69, R74, R77, 06 R124). A FAILED bank delivers nothing (R87). -/
def headDrain (s : State) (n : Nat) (e : MatEntry) (mtd ro co : Nat) (sig : Bool) (vs : Nat) (dead fuse : Bool) (out bank : Nat)
    (bind : Option (Nat × Nat)) : Head :=
  let l := bankOf s n bank
  if l.st != .empty && l.owner != e.ctx then .fault 0x43
  else if l.st == .empty || l.st == .closing || (fuse && out != 1) then .fault 0x42
  else if fuse && bind.isNone then .fault 0x55
  else
    match (if sig then sigFault s (clusterOf n) e.ctx vs else none), drainMtd s n e fuse mtd with
    | some c, _ => .fault c
    | none, none => .fault 0x40
    | none, some m =>
      let t := trackerOk s e.ctx m
      let p : List Perm := if out = 0 then [.read, .write] else [.write]
      if m.rows = 0 || decide (128 < m.rows) || m.cols = 0 || decide (128 < m.cols) then .fault 0x40
      else if !fuse && m.fmt != outFmt out then .fault 0x40
      else if !fuse && decide (m.fmt < 3) && co % 32 != 0 then .fault 0x45
      else if !fuse && decide (m.fmt < 3) && !(t.1 && t.2) then .fault 0x46
      else if !fuse && !p.all (fun p => (m.spans ro m.rows co m.cols).all (matMay s n e false p)) then .fault 0x40
      else if l.st == .failed then .go s
      else
        let d : Drain :=
          { slot := e.slot, age := e.age, ctx := e.ctx, launch := e.launch, pc := e.pc, dst := m, rowOff := ro, colOff := co, sig := sig,
            vs := vs, dead := dead, fuse := fuse, out := out, bind := bind, serial := (coreOf s n).drainSerial }
        .go (modBank s n bank (fun l => { l with st := .closing, drain := some d }))

/-- MCHECK at the head (R75): the residue record read, and its location cleared with CLEAR. -/
def headCheck (s : State) (n : Nat) (e : MatEntry) (clear : Bool) (a d : Nat) (mask : BitVec 32) : Head :=
  let addr := regAddr .mat n (0x030 + 8 * a)
  let v := regGet s addr
  let s := modByAge s n e.age (putResult d mask (BitVec.ofNat 32 v) (some (BitVec.ofNat 32 (v / 2 ^ 32))))
  .go (if clear then regPut s addr (v / 2 ^ 32 * 2 ^ 32) else s)

/-- MWRESET at the head (R75). -/
def headReset (s : State) (n a : Nat) : Head :=
  let c := coreOf s n
  let held := [2 * a, 2 * a + 1].any (fun b => (bankOf s n b).st == .opened || (bankOf s n b).st == .closing)
  if arrBusy c a || fillBusy c a || held then .wait else .go (modRing s n a (fun _ => Ring.reset))

/-- An entry at the head of the matrix queue. -/
def headOp (s : State) (n : Nat) (e : MatEntry) : Head :=
  match e.op with
  | .sweep m st ko rt pr md b k g => headSweep s n e m st ko rt pr md b k g
  | .zero b => headZero s n e b
  | .wload m ko r a => headLoad s n e m ko r a
  | .drain m ro co sg vs dd fu o b bd => headDrain s n e m ro co sg vs dd fu o b bd
  | .check cl a d k => headCheck s n e cl a d k
  | .wreset a => headReset s n a

/-- A failed entry (R77): it and every later entry of its group leave, and the group parks. -/
def matFail (s : State) (n : Nat) (e : MatEntry) (cause : Nat) : State :=
  let removed := ((coreOf s n).matq.filter (fun x => x.age == e.age)).length
  let s := modCore s n (fun c => { c with matq := c.matq.filter (fun x => x.age != e.age), drainSerial := c.drainSerial + 1 })
  settleAge n e.age (deferFault s n e.age cause e.pc 0 0 0 removed false)

/-- Whether an MSWEEP put native sweeps into the staging unit, which it waits for at the head. -/
def sweepWaits (e : MatEntry) (s : State) (n : Nat) : Bool :=
  (match e.op with | .sweep .. => true | _ => false) && !(coreOf s n).stage.todo.isEmpty

/-- MATQ_HEAD (R76, R77): the entry at the head is checked and handed to its unit, waits, or faults. The serial number counts on with each entry
that passes, so that consecutive MDRAINs have consecutive numbers (06 R125). -/
def execMatqHead (n : Fin 48) (s : State) : Out :=
  let k := n.val
  match (coreOf s k).matq with
  | [] => .next s
  | e :: rest =>
    if coreRuns s k && !e.checked then
      match headOp s k e with
      | .fault c => .next (matFail s k e c)
      | .wait => .next s
      | .go s1 =>
        let s1 := modCore s1 k (fun c => { c with drainSerial := c.drainSerial + 1 })
        if sweepWaits e s1 k then .next (modCore s1 k (fun c => { c with matq := { e with checked := true } :: rest }))
        else .next (settleAge k e.age (modCore s1 k (fun c => { c with matq := rest })))
    else .next s

/-! ### The fill engine (R71) -/

/-- A byte of an MWLOAD's source: of the line its fill engine holds, else of memory. -/
def srcByte (s : State) (l : WLoad) (a : Nat) : Byte :=
  match SMap.get? l.held (a / 128) with
  | some x => nth x.bytes (a % 128) 0
  | none => memByte s a

/-- One scale block of an MWLOAD: the exponents of the 128 columns (R71). -/
def scaleBlock (s : State) (l : WLoad) (b : Nat) : List Byte :=
  (List.range 128).map (fun j =>
    if j < l.src.rows then srcByte s l (l.src.sbase + j * l.src.spitch + (l.koff + 32 * b) / 32) else 0)

/-- One mantissa row of an MWLOAD as bytes of the ring: the stored codes of the columns at one K position. -/
def weightRow (s : State) (l : WLoad) (i : Nat) : List Byte :=
  let k := l.koff + i
  let code : Nat → Nat := fun j =>
    if j < l.src.rows then
      let row := l.src.mbase + j * l.src.mpitch
      match l.src.blk with
      | some .b4 => let b := srcByte s l (row + k / 2); if k % 2 = 0 then b.toNat % 16 else b.toNat / 16
      | some .b16 => (srcByte s l (row + 2 * k)).toNat + 256 * (srcByte s l (row + 2 * k + 1)).toNat
      | _ => (srcByte s l (row + k)).toNat
    else 0
  match l.src.blk with
  | some .b4 => (List.range 64).map (fun j => BitVec.ofNat 8 (code (2 * j) + 16 * code (2 * j + 1)))
  | some .b16 => (List.range 128).flatMap (fun j => natBytes 2 (code j))
  | _ => (List.range 128).map (fun j => BitVec.ofNat 8 (code j))

/-- The bytes of the source that one mantissa row needs, as ranges. -/
def weightSpans (l : WLoad) (i : Nat) : List (Nat × Nat) :=
  (List.range l.src.rows).map (fun j => l.src.span j (l.koff + i) 1)
/-- The bytes of the source that one scale block needs. -/
def scaleSpans (l : WLoad) (b : Nat) : List (Nat × Nat) :=
  (List.range l.src.rows).map (fun j => l.src.scaleSpan j (l.koff + 32 * b) 32)

/-- A line of an MWLOAD's source read whole, unless the fill engine holds it (01 R14, R71). -/
def latchLine (st : State × WLoad) (line : Nat) : State × WLoad :=
  if (SMap.get? st.2.held line).isSome then st
  else
    let s := (engRead st.1 st.2.ctx (128 * line) 128).2
    let x : Latch := { bytes := memBytes s (128 * line) 128, bad := s.mem.badCw.filter (fun c => c / 4 == line) }
    (s, { st.2 with held := SMap.put st.2.held line x })
/-- The lines of some ranges read. -/
def latchSpans (s : State) (l : WLoad) (rs : List (Nat × Nat)) : State × WLoad :=
  (rs.flatMap (fun r => linesOf r.1 r.2)).foldl latchLine (s, l)
/-- Whether a range of the lines that an MWLOAD holds was uncorrectable when it was read. -/
def heldBad (l : WLoad) (r : Nat × Nat) : Bool :=
  (linesOf r.1 r.2).any (fun line => match SMap.get? l.held line with
    | some x => x.bad.any (fun c => decide (32 * c < r.1 + r.2) && decide (r.1 < 32 * c + 32))
    | none => false)

/-- The source lines that the next items of an MWLOAD need. -/
def linesKept (l : WLoad) : List Nat :=
  ((if l.landed < l.rows then weightSpans l l.landed else [])
    ++ (if l.src.blk.isSome && decide (l.scaled < l.rows / 32) then scaleSpans l l.scaled else [])).flatMap (fun r => linesOf r.1 r.2)

/-- The MWLOAD at the front of a fill engine after an item has landed: lines it needs no more are let go; a complete one is kept for replays. -/
def loadStep (r : Ring) (l : WLoad) : Ring :=
  if l.landed = l.rows && (l.src.blk.isNone || l.scaled = l.rows / 32) then
    { r with loads := r.loads.drop 1, done := r.done ++ [{ l with held := [] }] }
  else
    let keep := linesKept l
    { r with loads := { l with held := l.held.filter (fun e => keep.contains e.1) } :: r.loads.drop 1 }

/-- The next mantissa row of an MWLOAD lands in its slot. A row read with an uncorrectable error lands as uncorrectable (log entry 42). -/
def landRow (s : State) (n a : Nat) (l : WLoad) : State :=
  let fmt := l.src.fmt
  let spans := weightSpans l l.landed
  let r := latchSpans s l spans
  let l := r.2
  let at_ := ringRowAddr (2 * n + a) fmt (l.first + l.landed)
  let s1 := memPut r.1 at_ (weightRow r.1 l l.landed)
  let cws := (List.range (ringRowBytes fmt / 32)).map (fun i => at_ / 32 + i)
  let bad := if spans.any (heldBad l) then cws else []
  let s1 := { s1 with mem := { s1.mem with
    badCw := bad.foldl insertNat (s1.mem.badCw.filter (fun c => !cws.contains c)) } }
  modRing s1 n a (fun r => loadStep r { l with landed := l.landed + 1 })

/-- The rows before a row number that have not landed land, in order (R72: behind the stream of a RETIRE sweep). -/
def landUpTo (n a upto : Nat) : Nat → State → State
  | 0, s => s
  | fuel + 1, s =>
    match (ringOf s n a).loads with
    | [] => s
    | l :: _ =>
      if decide (l.landed < l.rows) && decide (l.first + l.landed < upto) then landUpTo n a upto fuel (landRow s n a l)
      else s

/-- FILL_ROW_LAND (R71): the fill engine's next item lands: a scale block while the scale ring, 4,096 rows from HEAD, has room, else a
mantissa row whose slot is free. -/
def execFillRowLand (n : Fin 48) (a : Fin 2) (s : State) : Out :=
  let k := n.val
  let r := ringOf s k a.val
  match r.loads with
  | [] => .next s
  | l :: _ =>
    if !coreRuns s k then .next s
    else if (linesKept l).any (fun line => readWaits s (128 * line) 128) then .next s
    else if l.src.blk.isSome && decide (l.scaled < l.rows / 32) && decide (l.first + 32 * l.scaled < r.head / 32 * 32 + 4096) then
      let q := latchSpans s l (scaleSpans l l.scaled)
      let r := { r with scales := SMap.put r.scales (l.first / 32 + l.scaled) (scaleBlock q.1 q.2 l.scaled) }
      .next (modRing q.1 k a.val (fun _ => loadStep r { q.2 with scaled := l.scaled + 1 }))
    else if decide (l.landed < l.rows) && decide (l.first + l.landed < r.head + ringCap l.src.fmt) then .next (landRow s k a.val l)
    else .next s

/-! ### Native sweeps (R65, R66, R80, R81) -/

/-- Whether a sweep may start (R72): its scale blocks that are not retired have landed, and its rows as far as the ring holds them. The
rows beyond, of a RETIRE sweep longer than the ring, land while it streams. -/
def rowsHere (r : Ring) (v : Native) : Bool :=
  let first := ringNo r v.start
  r.loads.all (fun l =>
    let lo := max first l.first
    let hi := min (first + v.k) (l.first + l.rows)
    decide (hi ≤ lo)
      || (decide (min hi (r.head + ringCap v.wfmt) ≤ l.first + l.landed) && (l.src.blk.isNone || decide (hi ≤ l.first + 32 * l.scaled))))

/-- Whether the activations of a native sweep may be read now: no channel holds a read of them (18 R415). -/
def actsHere (s : State) (v : Native) : Bool := (v.act.spans 0 v.act.rows v.koff v.k).all (fun p => !readWaits s p.1 p.2)

/-- The ranges of the weights' source that rows `[lo, hi)` of a ring come from. -/
def sourceSpans (r : Ring) (lo hi : Nat) : List (Nat × Nat) :=
  (r.loads ++ r.done).flatMap (fun l =>
    let lo := max lo l.first
    let hi := min hi (l.first + l.rows)
    if lo < hi then l.src.spans 0 l.src.rows (l.koff + (lo - l.first)) (hi - lo) else [])

/-- The source ranges of the rows of a sweep that the ring does not hold: retired ones, and those beyond its capacity. -/
def streamSource (r : Ring) (v : Native) : List (Nat × Nat) :=
  let first := ringNo r v.start
  sourceSpans r first (min (first + v.k) r.head) ++ sourceSpans r (max first (r.head + ringCap v.wfmt)) (first + v.k)

/-- Whether a stored operand of a native sweep is uncorrectable (R87). -/
def operandsBad (s : State) (n a : Nat) (v : Native) : Bool :=
  (v.act.spans 0 v.act.rows v.koff v.k).any (fun p => rangeBad s p.1 p.2)
  || (let r := ringOf s n a
      let first := ringNo r v.start
      (streamSource r v).any (fun p => rangeBad s p.1 p.2)
      || (List.range v.k).any (fun i => decide (r.head ≤ first + i) && decide (first + i < r.head + ringCap v.wfmt)
        && rangeBad s (ringRowAddr (2 * n + a) v.wfmt (first + i)) (ringRowBytes v.wfmt)))

/-- The upsets of a pass in an array. -/
def applyUpsets (a : Nat) (us : List Upset) (p : Phys) : Phys :=
  us.foldl (fun p u =>
    match u with
    | .cell b r c d => if b.val = a then upsetCell p r.val c.val d else p
    | .operand b => if b.val = a then { p with operandBad := true } else p) p

/-- The fault injection that is armed for an array: row, column, REPEAT (Table 4.13). -/
def injectArmed (s : State) (n a : Nat) : Option (Nat × Nat × Bool) :=
  let v := regGet s (regAddr .mat n 0x048)
  if v.testBit 0 && field v 1 1 = a then some (field v 8 7, field v 16 7, v.testBit 2) else none

/-- The passes of a native sweep. -/
def Native.passes (v : Native) : Nat := if v.afmt = 2 then 4 else 1

/-- A pass written into a physical bank of an array, which then fills the other one next (R66). The last pass completes the sweep. -/
def fillPhys (s : State) (n a p : Nat) (x : Phys) : State :=
  let lastPass := x.pass + 1 = x.native.passes
  let s := modArr s n a (fun r =>
    { r with phys := setAt (padUp 2 none r.phys) p (some x), next := 1 - p, sweeps := if lastPass then r.sweeps + 1 else r.sweeps })
  if lastPass then matCount s n 0x050 1 x.native.ctx else s

/-- MAT_INJECT acts at the end of a native sweep: 1 is added to the cell, ARM is cleared. -/
def injectNow (s : State) (n a : Nat) (x : Phys) : Phys × State :=
  match (if x.pass + 1 = x.native.passes then injectArmed s n a else none) with
  | none => (x, s)
  | some (r, c, _) =>
    ({ upsetCell x r c 1 with injected := true },
     regPut s (regAddr .mat n 0x048) (regGet s (regAddr .mat n 0x048) / 2 * 2))

/-- What holds back the next pass of a native sweep, as the counter of its wait: a physical bank (R66), ring rows or scales (R72), activations. -/
def sweepStall (s : State) (n : Nat) (v : Native) : Option Nat :=
  let arrs := v.banks.map (· / 2)
  if arrs.any (fun a => (nth (arrOf s n a).phys (arrOf s n a).next none).isSome) then some 0x068
  else if arrs.any (fun a => !rowsHere (ringOf s n a) v) then some 0x078
  else if !actsHere s v then some 0x080
  else none

/-- One pass of a native sweep in every array that it uses; the first array reports the activations' events, each its weights' (R52): both
arrays are fed by one aligned stream (R65). -/
def sweepPass (s : State) (n pass : Nat) (o : Staged) (v : Native) (us : List Upset) : State :=
  let go : State × Bool → Nat → State × Bool := fun st b =>
    let a := b / 2
    let r := runPass s n a b pass o none v
    let x := applyUpsets a us { r.phys with operandBad := operandsBad s n a v }
    let i := injectNow st.1 n a x
    let ev := if pass = 0 then (if st.2 then r.actEv.add r.wtEv else r.wtEv) else NumEv.none
    (numEvent (fillPhys i.2 n a (arrOf i.2 n a).next i.1) n v.ctx v.age ev, false)
  (v.banks.foldl go (s, true)).1

/-- The ck of a pass in some arrays: pre-scan and fill, and the stream (R80, R81, 05 R97). -/
def passTimes (s : State) (n pass : Nat) (on : List Nat) (v : Native) : State :=
  let pre := if pass = 0 && v.mode != 5 then v.k / 32 else 0
  modCore (matCount (matCount s n 0x060 (pre + 6) v.ctx) n 0x058 v.k v.ctx) n
    (fun c => { c with stage := { c.stage with left := pre + 6 + v.k, len := v.k, on := on } })

/-- Rows before a row number retired with their scale blocks (R72). -/
def retireRows (r : Ring) (upto : Nat) : Ring :=
  { r with head := upto, scales := r.scales.filter (fun e => decide (upto ≤ 32 * e.1 + 31)) }

/-- The rows of a RETIRE sweep freed as its last stream has passed them; those that the ring could not hold at once land behind it (R72). -/
def retireSweep (s : State) (n a : Nat) (v : Native) : State :=
  let r := ringOf s n a
  let upto := ringNo r v.start + v.k
  modRing (if r.head + ringCap v.wfmt < upto then landUpTo n a upto v.k s else s) n a (fun r => retireRows r upto)

/-- The activation reads of a pass: counted at the home slices (R66). -/
def readActs (s : State) (v : Native) : State :=
  (v.act.spans 0 v.act.rows v.koff v.k).foldl (fun s p => (engRead s v.ctx p.1 p.2).2) s

/-- What a pass finds in memory: the RED lines under its activations and under the weights' source are evicted (08 R180). -/
def settleOperands (s : State) (n : Nat) (v : Native) : State :=
  settleSpans s (v.act.spans 0 v.act.rows v.koff v.k ++ v.banks.flatMap (fun b => streamSource (ringOf s n (b / 2)) v))

/-- The next pass of the native sweep at the staging unit (R65, R80, R81). -/
def stagePass (s : State) (n : Nat) (us : List Upset) : Option State :=
  let c := coreOf s n
  match c.stage.todo with
  | [] => none
  | v :: rest =>
    let arrays := v.banks.map (· / 2)
    if (sweepStall s n v).isNone then
      let pass := c.stage.pass
      let s := if pass = 0 then
          match c.matq with
          | e :: q => if e.checked then modCore s n (fun c => { c with matq := q }) else s
          | [] => s
        else s
      let s := settleOperands (if pass = 0 then readActs s v else s) n v
      let o := if pass = 0 then readStaged s n v else c.stage.held
      let s := passTimes (sweepPass s n pass o v us) n pass arrays v
      if pass + 1 = v.passes then
        let s := modCore s n (fun c => { c with stage := { c.stage with todo := rest, pass := 0, held := Staged.none } })
        let s := if v.retire then arrays.foldl (fun s a => retireSweep s n a v) s else s
        some (settleAge n v.age s)
      else some (modCore s n (fun c => { c with stage := { c.stage with pass := pass + 1, held := o } }))
    else none

/-- The physical bank for the next pass of a replay (R66, R85): the one that the failed read freed, and then in turn, but that one only while
the other holds sums whose read waits for the replay (R86). -/
def replayBank (r : Arr) (y : Replay) : Nat :=
  let other := 1 - y.start
  let waits := match nth r.phys other none with
    | some p => p.native.serial != y.native.serial
    | none => false
  if waits || y.pass % 2 = 0 then y.start else other

/-- The next pass of a replay that array `a` waits for (R85). -/
def replayPass (s : State) (n a : Nat) (us : List Upset) : Option State :=
  let r := arrOf s n a
  match r.replay with
  | none => none
  | some y =>
    let v := y.native
    if y.pass < v.passes then
      let p := replayBank r y
      if (nth r.phys p none).isNone && actsHere s v then
        let s := settleOperands (if y.pass = 0 then readActs s v else s) n v
        let o := if y.pass = 0 then readStaged s n v else y.held
        let x := { (runPass s n a y.bank y.pass o (some y.es) v).phys with replayed := true, operandBad := operandsBad s n a v }
        let x := match (if y.pass + 1 = v.passes then y.again else none) with
          | some (i, j) => upsetCell x i j 1
          | none => x
        let s := fillPhys s n a p (applyUpsets a us x)
        let s := if y.pass = 0 then matCount s n 0x088 1 v.ctx else s
        some (passTimes (modArr s n a (fun r => { r with replay := some { y with
          pass := y.pass + 1, held := if y.pass + 1 < v.passes then o else Staged.none } })) n y.pass [a] v)
      else none
    else none

/-- Whether a replay waits whose native sweep is not the one at the staging unit. -/
def replayDue (s : State) (n : Nat) : Bool :=
  (List.range 2).any (fun a => match (arrOf s n a).replay with
    | some y => decide (y.pass < y.native.passes) && ((coreOf s n).stage.todo.head?).map (·.serial) != some y.native.serial
    | none => false)

/-- SWEEP_START (R80, R81, R85): the staging unit starts its next pass once its physical banks are free, its rows have landed and its
activations may be read. A replay comes before the next native sweep, and before the next pass of a later B16 sweep, whose sums may have to wait
for it (R86); the rest of the failed B16 sweep itself, whose reads are discarded, comes before its replay. `upsets` are what strikes the cells and
operands meanwhile. -/
def execSweepStart (n : Fin 48) (upsets : List Upset) (s : State) : Out :=
  let k := n.val
  if !coreRuns s k then .next s
  else if (coreOf s k).stage.pass != 0 && !replayDue s k then .next ((stagePass s k upsets).getD s)
  else
    match (replayPass s k 0 upsets).orElse (fun _ => replayPass s k 1 upsets) with
    | some s1 => .next s1
    | none =>
      let waits : Bool := match (coreOf s k).stage.todo with
        | [] => false
        | v :: _ => v.banks.any (fun b =>
            match (arrOf s k (b / 2)).replay with
            | some y => decide (y.pass < y.native.passes)
            | none => false)
      if waits then .next s else .next ((stagePass s k upsets).getD s)

/-! ### Drain reads (R66, R84-R87) -/

/-- Whether the drain unit holds the read of a physical bank (R86): its logical bank waits for an earlier sweep's replay. -/
def readHeld (r : Arr) (p : Phys) : Bool :=
  match r.replay with
  | some y => y.bank == p.bank && p.native.serial != y.native.serial
  | none => false

/-- The physical bank the drain unit reads next: the one filled first of those not held. -/
def readNext (r : Arr) : Option (Nat × Phys) :=
  let cand := [r.next, 1 - r.next].filterMap (fun i => (nth r.phys i none).map (fun p => (i, p)))
  (cand.filter (fun e => !readHeld r e.2)).head?

/-- The residue record after a mismatch (R85, 05 R99, Table 4.12): the location where one row and one column failed, else with MULTI. A lone failure
names its check row or column; where more failed, the location is a free value, in the tropical modes that of one of the failures, of the duplicated
row where it failed. -/
def checkRecord (s : State) (n a : Nat) (p : Phys) (fs : List (Nat × Nat)) : State :=
  let addr := regAddr .mat n (0x030 + 8 * a)
  let v := regGet s addr
  let trop := tropical p.native.mode
  let many := decide (1 < fs.length)
  let multi := many || (!trop && fs.any (fun f => f.1 == 255 || f.2 == 255))
  let d := if many then drawNat s else (0, s)
  let dup := fs.filter (fun f => f.2 != 255)
  let cand := if dup.isEmpty then fs else dup
  let at_ : Nat × Nat → Nat := fun f => f.1 * 256 + f.2
  let loc := if !many then at_ (fs.headD (0, 0)) else if trop then at_ (nth cand (d.1 % cand.length) (0, 0)) else d.1 % 65536
  regPut d.2 addr (v / 2 ^ 32 * 2 ^ 32 + 2 ^ 31 + b2n (multi || v.testBit 31) * 2 ^ 30 + p.bank * 2 ^ 28
    + (if p.native.afmt = 2 then p.pass else 0) * 2 ^ 26 + loc * 256)

/-- A count of the residue record advanced: CORRECTED in [63:48], CONTAINED in [47:40], each holding at all ones. -/
def checkCount (s : State) (n a : Nat) (corrected : Bool) : State :=
  let addr := regAddr .mat n (0x030 + 8 * a)
  let v := regGet s addr
  if corrected then regPut s addr (setField v 48 16 (min (field v 48 16 + 1) 0xFFFF))
  else regPut s addr (setField v 40 8 (min (field v 40 8 + 1) 0xFF))

/-- An error record of a matrix array. -/
def matErr (s : State) (n a : Nat) (sev : Fin 4) (ctx : Nat) (injected : Bool) : State :=
  unitErr s sev (dieOf n) 1 (2 * (n % 12) + a) 1 ctx 0 0 injected

/-- A logical bank turned FAILED (R87): its MDRAIN, if it has one, delivers nothing and does not signal. -/
def failBank (s : State) (n a : Nat) (p : Phys) : State :=
  let s := matErr (checkCount s n a false) n a 1 p.native.ctx p.injected
  let age := ((bankOf s n p.bank).drain.map (·.age))
  let s := modBank s n p.bank (fun l => { l with st := .failed, drain := none, buf := none, fold := none })
  match age with
  | some g => settleAge n g s
  | none => s

/-- The values of a pass taken into the drain buffer, or into the fold buffer for the first three passes of B16 (R55, R68). FP_OVF is set where the
rounding of v overflows, not where the combining add does (03 Table 3.9 says neither; DESIGN CHOICE, log entry 90). -/
def takeValues (s : State) (n : Nat) (p : Phys) : State :=
  let l := bankOf s n p.bank
  let fold := l.fold.getD (grid (fun _ _ => (0 : W32)))
  if p.native.afmt = 2 && decide (p.pass < 3) then
    modBank s n p.bank (fun l => { l with fold := some (grid (fun i j => foldStep p.pass (gridAt fold i j 0) (gridAt p.acc i j 0))) })
  else
    let vs := grid (fun i j => cellValue p i j (gridAt p.acc i j 0) (gridAt fold i j 0))
    let ovf := vs.any (fun r => r.any (fun x => x.fl &&& flOverflow != 0))
    let buf := match l.buf with
      | none => vs.map (fun r => r.map (·.v))
      | some b => grid (fun i j => combine p.native.mode (gridAt b i j 0) (gridAt vs i j ⟨0, 0⟩).v)
    let s := modBank s n p.bank (fun l => { l with fold := none, buf := some buf })
    if ovf then numFlags s n p.native.age nfFpOvf else s

/-- DRAIN_READ (R66, R84-R87): the drain unit reads a physical bank. A pass of a sweep to be replayed is discarded; a mismatch asks for
a replay, a second one, or an operand error, fails the bank. -/
def execDrainRead (n : Fin 48) (a : Fin 2) (s : State) : Out :=
  let k := n.val
  let r := arrOf s k a.val
  if !coreRuns s k then .next s
  else
    match readNext r with
    | none => .next s
    | some (i, p) =>
      let s := modArr s k a.val (fun r => { r with phys := setAt r.phys i none })
      let mine := match r.replay with | some y => y.native.serial == p.native.serial && y.bank == p.bank | none => false
      if (bankOf s k p.bank).st == .failed || (mine && !p.replayed) then .next s
      else if p.operandBad then .next (failBank (modArr s k a.val (fun r => { r with replay := if mine then none else r.replay })) k a.val p)
      else
        match failures p with
        | [] =>
          let s := takeValues s k p
          if p.replayed && p.pass + 1 = p.native.passes then
            let inj := match r.replay with | some y => y.injected | none => false
            let s := modArr s k a.val (fun r => { r with replay := none })
            .next (matErr (checkCount s k a.val true) k a.val 0 p.native.ctx inj)
          else .next s
        | fs =>
          let s := checkRecord s k a.val p fs
          if p.replayed then
            let inj := p.injected || (match r.replay with | some y => y.injected | none => false)
            .next (failBank (modArr s k a.val (fun r => { r with replay := none })) k a.val { p with injected := inj })
          else
            let reg := regGet s (regAddr .mat k 0x048)
            let again := if p.injected && reg.testBit 2 then some (field reg 8 7, field reg 16 7) else none
            let y : Replay := { native := { p.native with banks := [p.bank] }, bank := p.bank, start := i, pass := 0,
                                injected := p.injected, again := again, es := nth p.rowE 0 0, held := Staged.none }
            .next (modBank (modArr s k a.val (fun r => { r with replay := some y })) k p.bank (fun l => { l with fold := none }))

/-! ### Delivery (R68, R78, R79) -/

/-- The drain buffer; a bank without a read sweep holds zeros. -/
def bankBuf (l : LBank) : List (List W32) := l.buf.getD (grid (fun _ _ => (0 : W32)))

/-- The logical bank of array `a` whose delivery comes next: the CLOSING one whose MDRAIN came first. -/
def deliverNext (s : State) (n a : Nat) : Option (Nat × Drain) :=
  let cand := [2 * a, 2 * a + 1].filterMap (fun b => (bankOf s n b).drain.map (fun d => (b, d)))
  match cand with
  | [x, y] => if x.2.serial < y.2.serial then some x else some y
  | [x] => some x
  | _ => none

/-- The DEAD hint on the activation lines of a contraction in eDRAM and DDR5 (R79). -/
def deadActs (s : State) (l : LBank) (ctx : Nat) : State :=
  let lines := l.acts.foldl (fun ls v => (v.act.spans 0 v.act.rows v.koff v.k).foldl (fun ls p => (linesOf p.1 p.2).foldl insertNat ls) ls) []
  (lines.filter (fun line => cacheable s (128 * line))).foldl (fun s line => deadHint s line ctx) s

/-- A delivery has ended: DEAD hints, the signal, the bank EMPTY (R67, R78, R79). -/
def closeBank (s : State) (n b : Nat) (d : Drain) : State :=
  let s := if d.dead then deadActs s (bankOf s n b) d.ctx else s
  let s := if d.sig then hwSignal s (clusterOf n) d.ctx d.vs 1 else s
  settleAge n d.age (modBank s n b (fun _ => LBank.reset))

/-- A row of a delivery written: added to the destination, or converted (R68). -/
def deliverRow (l : LBank) (d : Drain) (st : State × NumEv) (r : Nat) : State × NumEv :=
  let vs := ((nth (bankBuf l) r []).take d.dst.cols)
  let row := d.rowOff + r
  let s := if d.out = 0 then (engRead st.1 d.ctx (d.dst.span row d.colOff d.dst.cols).1 (d.dst.span row d.colOff d.dst.cols).2).2 else st.1
  let vs := if d.out = 0 then ((readRow s d.dst row d.colOff d.dst.cols).1.zip vs).map (fun e => combine l.mode e.1 e.2) else vs
  let w := writeRow s d.ctx d.dst row d.colOff vs false
  (w.1, st.2.add w.2)

/-- Whether a delivery to memory may be made: its sweeps are read, and no PENDING block holds its destination (15 R348). -/
def deliverReady (s : State) (n b : Nat) (d : Drain) : Bool :=
  !bankBusy (coreOf s n) b
  && !(!d.fuse && (d.dst.spans d.rowOff d.dst.rows d.colOff d.dst.cols).any (fun p => rangeHeld s p.1 p.2))

/-- DRAIN_DELIVERY (R68, R78): the delivery of a drain buffer to memory. -/
def execDrainDelivery (n : Fin 48) (a : Fin 2) (s : State) : Out :=
  let k := n.val
  match deliverNext s k a.val with
  | none => .next s
  | some (b, d) =>
    if coreRuns s k && !d.fuse && deliverReady s k b d then
      let l := bankOf s k b
      let w := (List.range d.dst.rows).foldl (deliverRow l d) (s, NumEv.none)
      .next (closeBank (numEvent w.1 k d.ctx d.age w.2) k b d)
    else .next s

/-! ### The instructions (Table 4.2) -/

/-- The matrix queue has room (R76). -/
def matRoom (c : Core) : Bool := decide (c.matq.length < 32)

/-- A matrix instruction entered with the register values of its lowest active thread (R75, R76). -/
def matEnter (o : LOp) (op : Iss → Nat → Nat → Nat → MatOp) (u : Issue) (w : Lpk) (s : State) : Out :=
  plainOp o u w matRoom (fun x s1 =>
    if x.act = 0 then issueEnd x Flow.next s1
    else
      let r : BitVec 6 → Nat := fun f => (gReg x.g (leadOf x) f.toNat).toNat
      let e : MatEntry := { slot := x.i, age := x.g.age, ctx := x.g.ctx, launch := x.g.launch, pc := x.pc,
                            op := op x (r w.d) (r w.a) (r w.b), checked := false }
      issueEnd x Flow.next (modCore s1 x.n (fun c => { c with matq := c.matq ++ [e] }))) s

/-- MSWEEP. -/
def execMsweep (u : Issue) (w : Lpk) (s : State) : Out :=
  matEnter .msweep (fun _ d a b =>
    .sweep d a b (modF w 6 1 == 1) (modF w 2 1 == 1) (modF w 3 3) (modF w 0 2) (field w.ext.toNat 0 21) (field w.ext.toNat 21 8)) u w s
/-- MZERO. -/
def execMzero (u : Issue) (w : Lpk) (s : State) : Out := matEnter .mzero (fun _ _ _ _ => .zero (modF w 0 2)) u w s
/-- MWLOAD. -/
def execMwload (u : Issue) (w : Lpk) (s : State) : Out := matEnter .mwload (fun _ d a b => .wload d a b (modF w 0 1)) u w s
/-- MDRAIN: the group's chain binding is recorded at issue (06 R124). -/
def execMdrain (u : Issue) (w : Lpk) (s : State) : Out :=
  matEnter .mdrain (fun x d a b =>
    .drain d (a % 65536) (a / 65536) (b.testBit 31) (b % 65536) (modF w 9 1 == 1) (modF w 8 1 == 1) (modF w 2 3) (modF w 0 2) x.g.bind) u w s
/-- MCHECK. -/
def execMcheck (u : Issue) (w : Lpk) (s : State) : Out :=
  matEnter .mcheck (fun x _ _ _ => .check (modF w 1 1 == 1) (modF w 0 1) w.d.toNat x.act) u w s
/-- MWRESET. -/
def execMwreset (u : Issue) (w : Lpk) (s : State) : Out := matEnter .mwreset (fun _ _ _ _ => .wreset (modF w 0 1)) u w s

/-! ### Weight-buffer windows (R73) -/

/-- WBUF_WINDOW_ACCESS (R73): an access of a thread to a weight-buffer window is performed; while the array or its fill engine works,
stores are discarded, loads give 0 and WIN_CONFLICT is set. -/
def execWbufWindowAccess (n : Fin 48) (id : Nat) (s : State) : Out :=
  let k := n.val
  match SMap.get? (coreOf s k).accs id with
  | none => .next s
  | some a =>
    match a.place with
    | .wbuf q =>
      if mayPerform s k id a && coreRuns s (q / 2) then
        let c := coreOf s (q / 2)
        if arrBusy c (q % 2) || fillBusy c (q % 2) then
          let addr := regAddr .mat (q / 2) 0x008
          let s := regPut s addr (setField (regGet s addr) 40 1 1)
          .next (retireAcc s k id { a with st := .done, lanes := a.lanes.map (fun (l : Lane) => { l with old := 0 }) })
        else
          let s := if a.op.writes then ckptMark s (128 * a.line) else s
          let bad := badLanes s a
          let r := performPlain s { a with bad := bad, badCause := if bad = 0 then 0 else 0x03 }
          .next (lockFailed (retireAcc r.2.1 k id r.1) k a.age r.2.2)
      else .next s
    | _ => .next s

/-! ### The MAT block (R90, R91) -/

/-- MAT_CTRL: CLR_COUNTS, which also clears WIN_CONFLICT, and CLR_CHECKa. -/
def matCtrl (w : RegWr) (s : State) : Out :=
  ctlWrite w .mat (fun off => off == 0x040) fwOnly (fun u _ v s =>
    let s := clearIf v 0 .mat (0x008 :: offs 0x050 0x088) u s
    (List.range 2).foldl (fun s a =>
      let addr := regAddr .mat u (0x030 + 8 * a)
      if v.testBit (1 + a) then regPut s addr (regGet s addr / 2 ^ 32 * 2 ^ 32) else s) s) s

/-- MAT_CLR_COUNTS (R90). -/
def execMatClrCounts (w : RegWr) (s : State) : Out := matCtrl w s
/-- MAT_CLR_CHECK (R90). -/
def execMatClrCheck (w : RegWr) (s : State) : Out := matCtrl w s

/-- NUM_CLR_COUNTS (03 R64). -/
def execNumClrCounts (w : RegWr) (s : State) : Out :=
  ctlWrite w .num (fun off => off == 0x08) fwOnly (fun u _ v s => clearIf v 0 .num (offs 0x10 0x38) u s) s

end Sys2Proof.Machine
end

