-- ==== Sys2Proof/Machine/Frames.lean ====
section
/-! DEFINITION. Frames of a link (11 R250, R251): the control field and five flits, the self-synchronising scrambler, two RS(544,514) codewords over
GF(2^10), the symbols of each lane; which flits overlap a codeword that could not be corrected. -/

namespace Sys2Proof.Machine

/-! ### GF(2^10) and RS(544,514) (IEEE 802.3 clause 91; log entry 95) -/

/-- An element times x, modulo x^10 + x^3 + 1. -/
def gfX (a : Nat) : Nat := if a < 512 then 2 * a else (2 * a) ^^^ 0x409
/-- A product; `n` bits of the second factor are left. -/
def gfMul : Nat → Nat → Nat → Nat
  | 0, _, _ => 0
  | n + 1, a, b => (if b % 2 = 1 then a else 0) ^^^ gfMul n (gfX a) (b / 2)
/-- A polynomial, highest power first, times x - r. -/
def polyRoot (p : List Nat) (r : Nat) : List Nat := (List.zip (p ++ [0]) (0 :: p)).map (fun e => e.1 ^^^ gfMul 10 e.2 r)
/-- The product of x - a^j over `n` powers from `r` on. -/
def rsRoots : Nat → Nat → List Nat → List Nat
  | 0, _, p => p
  | n + 1, r, p => rsRoots n (gfX r) (polyRoot p r)
/-- The generator polynomial after its leading 1. -/
def rsGen : List Nat := (rsRoots 30 1 [1]).drop 1
/-- The remainder register after one message symbol. -/
def rsStep (g reg : List Nat) (m : Nat) : List Nat :=
  let f := m ^^^ reg.headD 0
  (List.zip (reg.drop 1 ++ [0]) g).map (fun e => e.1 ^^^ gfMul 10 f e.2)
/-- A codeword: 514 message symbols and 30 of parity. -/
def rsEncode (ms : List Nat) : List Nat :=
  let g := rsGen
  ms ++ ms.foldl (rsStep g) (List.replicate 30 0)

/-! ### A frame -/

/-- The bits of a message: 0x5A, the frame count, zeros, then five flits, each byte from its bit 0 on. -/
def frameBits (count : Nat) (flits : List (List Byte)) : List Bool :=
  let num : Nat → Nat → List Bool := fun n v => (List.range n).map (fun i => v.testBit i)
  num 40 (0x5A + count % 2 ^ 24 * 256) ++ flits.flatMap (fun bs => bs.flatMap (fun b => num 8 b.toNat))

/-- The scrambler x^58 + x^39 + 1: its last 58 output bits, the newest in bit 0. -/
def scramble : Nat → List Bool → List Bool × Nat
  | st, [] => ([], st)
  | st, b :: bs =>
    let o := b ^^ (st.testBit 38 ^^ st.testBit 57)
    let r := scramble ((2 * st + b2n o) % 2 ^ 58) bs
    (o :: r.1, r.2)

/-- Ten bits, the first the lowest, as a symbol. -/
def bitsNat (l : List Bool) : Nat := l.foldr (fun b n => 2 * n + b2n b) 0
/-- The symbols of a message. -/
def symbols : Nat → List Bool → List Nat
  | 0, _ => []
  | n + 1, l => bitsNat (l.take 10) :: symbols n (l.drop 10)

/-- Two codewords' symbols in turn. -/
def interleave (a b : List Nat) : List Nat := (a.zip b).flatMap (fun e => [e.1, e.2])
/-- The symbols of lane `i` of `w`: those whose place modulo `w` is `i`. -/
def laneSymbols (w i : Nat) (l : List Nat) : List Nat := (((List.range l.length).zip l).filter (fun e => e.1 % w == i)).map (·.2)

/-- A frame as each active lane carries it, and the scrambler after it (R250). -/
def frameLanes (w count st : Nat) (flits : List (List Byte)) : List (List Nat) × Nat :=
  let r := scramble st (frameBits count flits)
  let ms := symbols 1028 r.1
  let all := interleave (rsEncode (ms.take 514)) (rsEncode (ms.drop 514))
  ((List.range w).map (fun i => laneSymbols w i all), r.2)

/-! ### What the FEC leaves of a frame (R251) -/

/-- Whether flit `k` of a frame overlaps a codeword: message bits 40 + 2,048 k and on, against 5,140 bits a codeword. -/
def flitIn (k cw : Nat) : Bool := decide (40 + 2048 * k < 5140 * (cw + 1)) && decide (5140 * cw < 40 + 2048 * (k + 1))
/-- Whether a codeword with some symbol errors was corrected: up to 15. -/
def fecFixed (n : Nat) : Bool := decide (1 ≤ n) && decide (n ≤ 15)

end Sys2Proof.Machine
end

