-- ==== Sys2Proof/Machine/Dma.lean ====
section
/-! DEFINITION. DMA and gather engines (08 R189-R197; 16 R373). -/

namespace Sys2Proof.Machine

/-! ### Fields of a descriptor (Tables 8.5, 8.7) -/

/-- A field of a job's descriptor. -/
def EngJob.fld (j : EngJob) (off n : Nat) : Nat := bytesNat ((j.bytes.drop off).take n)
/-- Whether a job is a gather. -/
def EngJob.isGather (j : EngJob) : Bool := j.engine != 0
/-- SHAPE and CTRL of a DMA descriptor. -/
def EngJob.shape (j : EngJob) : Nat := j.fld 0x10 8
/-- CTRL. -/
def EngJob.ctrl (j : EngJob) : Nat := j.fld 0x18 8
/-- N0. -/
def EngJob.n0 (j : EngJob) : Nat := field j.shape 0 20 + 1
/-- SFMT. -/
def EngJob.sfmt (j : EngJob) : Nat := if j.isGather then 5 else field j.shape 20 4
/-- DFMT. -/
def EngJob.dfmt (j : EngJob) : Nat := if j.isGather then 5 else field j.shape 24 4
/-- N1 to N4. -/
def EngJob.dim (j : EngJob) (k : Nat) : Nat :=
  match k with
  | 0 => j.n0
  | 1 => field j.shape 28 12 + 1
  | 2 => field j.shape 40 12 + 1
  | 3 => field j.shape 52 12 + 1
  | _ => field j.ctrl 0 12 + 1
/-- OP. -/
def EngJob.op (j : EngJob) : Nat := if j.isGather then 0 else field j.ctrl 59 2
/-- AOP. -/
def EngJob.aop (j : EngJob) : Nat := field j.ctrl 61 2
/-- TOKBASE. -/
def EngJob.tokbase (j : EngJob) : Nat := if j.isGather then 0 else field j.ctrl 12 22
/-- CKIND. -/
def EngJob.ckind (j : EngJob) : Nat := if j.isGather then field (j.fld 0x30 4) 2 2 else field j.ctrl 57 2
/-- CTARGET. -/
def EngJob.ctarget (j : EngJob) : Nat := if j.isGather then field (j.fld 0x34 4) 0 20 else field j.ctrl 37 20
/-- The DST word. -/
def EngJob.dstw (j : EngJob) : Nat := if j.isGather then j.fld 0x10 8 else j.fld 0x08 8
/-- FLAG. -/
def EngJob.flag (j : EngJob) : Bool := j.dstw.testBit 60
/-- NOALLOC of the destination. -/
def EngJob.noalloc (j : EngJob) : Bool := !j.isGather && j.dstw.testBit 61
/-- The stride of dimension `k` of a side. -/
def EngJob.stride (j : EngJob) (off k : Nat) : Int := if k = 0 then 0 else signed 32 (j.fld (off + 4 * (k - 1)) 4)
/-- Bytes of a plain element of a format code (Table 8.5). -/
def dmaSize (f : Nat) : Nat := if f = 3 || f = 6 then 4 else if f = 4 then 2 else 1
/-- The engine's TAG (12 Table 12.2). -/
def EngJob.tag (j : EngJob) : Nat := if j.engine = 0 then 64 + j.cluster else 80 + 2 * j.cluster + (j.engine - 1)

/-! ### Checks at dispatch (R190-R195) -/

/-- Whether a side is in a block format. -/
def blockFmt (f : Nat) : Bool := decide (f < 3)

/-- Whether a block side's MTD is legal for its format code (R74, R192). -/
def sideOk (f : Nat) (m : Option Mtd) : Bool :=
  !blockFmt f || (match m with | some m => m.ok && m.isLocal && m.fmt == f | none => false)

/-- R192, R193: whether the format pair and the ACCUM kind are allowed. -/
def pairOk (j : EngJob) : Bool :=
  let a := j.sfmt
  let b := j.dfmt
  let conv := (a == b && !blockFmt a) || (a == 3 && b == 4) || (a == 4 && b == 3) || ((a == 3 || a == 4) && blockFmt b)
    || (blockFmt a && (b == 3 || b == 4))
  if j.op = 2 then true
  else if j.op = 1 then conv && ((b == 3 && j.aop == 0) || b == 6)
  else conv

/-- Whether every element of a plain side is aligned to its size. -/
def alignOk (j : EngJob) (f base off : Nat) : Bool :=
  blockFmt f || (base % dmaSize f == 0 && (List.range 4).all (fun k => j.dim (k + 1) == 1 || (j.stride off (k + 1)) % (dmaSize f : Int) == 0))

/-- Whether the completion target is the context's (DMA_TARGET). -/
def targetOk (s : State) (j : EngJob) : Bool :=
  if j.ckind = 1 then
    let e := xlatSeen s j.cluster j.ctx (j.ctarget % 65536)
    xValid e && xSig e
  else if j.ckind = 2 then
    match descOf s j.ctarget with
    | some d => d.owner == j.ctx && (d.ty == 2 || d.ty == 3)
    | none => false
  else true

/-- The first check of a DMA descriptor that fails (log entry 17). -/
def dmaCheck (s : State) (j : EngJob) : Option Nat :=
  let td := field j.ctrl 34 3
  let warm := j.op == 2
  if decide (6 < j.sfmt) || (!warm && decide (6 < j.dfmt)) || j.ckind = 3 || j.op = 3 || j.aop = 3 || td = 5 || td = 6 then some 0x30
  else if !sideOk j.sfmt j.src || (!warm && !sideOk j.dfmt j.dst) then some 0x30
  else if (blockFmt j.sfmt || (!warm && blockFmt j.dfmt)) && (j.dim 2 != 1 || j.dim 3 != 1 || j.dim 4 != 1) then some 0x30
  else if !warm && blockFmt j.dfmt && (match j.dst with | some m => let t := trackerOk s j.ctx m; !(t.1 && t.2) | none => true) then some 0x30
  else if !pairOk j then some 0x32
  else if !alignOk j j.sfmt (j.fld 0 8 % 2 ^ 60) 0x20 || (!warm && !alignOk j j.dfmt (j.dstw % 2 ^ 60) 0x30) then some 0x38
  else if td < 5 && decide (4194303 < j.tokbase + j.dim td - 1) then some 0x36
  else if !targetOk s j then some 0x39
  else none

/-- Bytes of an index of a gather's list. -/
def idxBytes (j : EngJob) : Nat := if field (j.fld 0x18 4) 24 4 = 2 then 2 else 4
/-- The address of the index list. -/
def idxAddr (j : EngJob) : Nat := j.fld 0 8 % 2 ^ 48
/-- The first check of a gather descriptor that fails; the indices of the list are elements that must be aligned (R191, R197). -/
def gatherCheck (s : State) (j : EngJob) : Option Nat :=
  let rb := j.fld 0x1C 4
  if decide (2 < field (j.fld 0x18 4) 24 4) || decide (rb < 4) || decide (65536 < rb) || rb % 4 != 0 || field (j.fld 0x30 4) 0 2 = 3
      || j.ckind = 3 then some 0x30
  else if idxAddr j % idxBytes j ≠ 0 then some 0x38
  else if !targetOk s j then some 0x39
  else none

/-! ### Gather indices -/

/-- The number of indices. -/
def idxCount (j : EngJob) : Nat := field (j.fld 0x18 4) 0 24 + 1

/-- The index list with IDXOFF added. -/
def readIdx (s : State) (j : EngJob) : List Int :=
  let off := signed 32 (j.fld 0x38 4)
  let s := winView s [(idxAddr j, idxCount j * idxBytes j)]
  (List.range (idxCount j)).map (fun i =>
    let v := memNat s (idxAddr j + idxBytes j * i) (idxBytes j)
    (if field (j.fld 0x18 4) 24 4 = 0 then signed 32 v else (v : Int)) + off)

/-- Whether an index is out of bound. -/
def idxOut (j : EngJob) (x : Int) : Bool := decide (x < 0) || decide ((j.fld 0x28 4 : Int) ≤ x)

/-! ### Moves -/

/-- An address with a signed displacement. -/
def dispAddr (a : Nat) (d : Int) : Nat := unsigned 60 ((a : Int) + d)

/-- The moves of a DMA descriptor in element order (R191). -/
def dmaMoves (j : EngJob) : List Move :=
  (List.range (j.dim 4)).flatMap (fun (d4 : Nat) => (List.range (j.dim 3)).flatMap (fun (d3 : Nat) =>
    (List.range (j.dim 2)).flatMap (fun (d2 : Nat) => (List.range (j.dim 1)).map (fun (d1 : Nat) =>
      let at_ : Nat → Int := fun off =>
        (d1 : Int) * j.stride off 1 + (d2 : Int) * j.stride off 2 + (d3 : Int) * j.stride off 3 + (d4 : Int) * j.stride off 4
      { src := some (dispAddr (j.fld 0 8 % 2 ^ 60) (at_ 0x20)), dst := dispAddr (j.dstw % 2 ^ 60) (at_ 0x30), row := d1, c := 0,
        n := j.n0, oob := false, ix := 0, fin := true, last := false }))))

/-- The moves of a gather (R197). -/
def gatherMoves (j : EngJob) : List Move :=
  let oob := field (j.fld 0x30 4) 0 2
  let mv : Nat × Int → Option Move := fun e =>
    let m : Move :=
      { src := none, dst := dispAddr (j.dstw % 2 ^ 60) (e.1 * j.fld 0x2C 4 : Nat), row := e.1, c := 0, n := j.fld 0x1C 4, oob := false,
        ix := 0, fin := true, last := false }
    if idxOut j e.2 then (if oob = 2 then none else some { m with oob := oob == 0 })
    else some { m with src := some (dispAddr (j.fld 0x08 8 % 2 ^ 60) (e.2 * signed 48 (j.fld 0x20 8))) }
  ((List.range j.idx.length).zip j.idx).filterMap mv

/-- The moves of a job. -/
def EngJob.moves (j : EngJob) : List Move := if j.isGather then gatherMoves j else dmaMoves j

/-- The ranges a move reads. -/
def srcRanges (j : EngJob) (m : Move) : List (Nat × Nat) :=
  match m.src, (if blockFmt j.sfmt then j.src else none) with
  | some _, some d => [d.span m.row m.c m.n, d.scaleSpan m.row m.c m.n]
  | some a, none => [(a, m.n * dmaSize j.sfmt)]
  | none, _ => []

/-- The ranges a move writes. -/
def dstRanges (j : EngJob) (m : Move) : List (Nat × Nat) :=
  if j.op = 2 || m.oob then []
  else
    match (if blockFmt j.dfmt then j.dst else none) with
    | some d => [d.span m.row m.c m.n, d.scaleSpan m.row m.c m.n]
    | none => [(m.dst, m.n * dmaSize j.dfmt)]

/-- Whether a peer is unreachable (12 R297). -/
def peerGone (s : State) (a : Nat) : Bool := decide (2 ^ 48 ≤ a) && (connOf s (globModule s a).toNat).st == .unreachable

/-- The fault of a range that is read: DMA_ADDR, or DMA_TIMEOUT for an unreachable peer. -/
def readFault (s : State) (j : EngJob) (r : Nat × Nat) : Option (Nat × Nat) :=
  if r.2 = 0 then none
  else if !anyMay s j.ctx j.launch r.1 r.2 .read then some (0x31, r.1)
  else if peerGone s r.1 then some (0x35, r.1)
  else none

/-- The fault of a range that is written. -/
def writeFault (s : State) (j : EngJob) (r : Nat × Nat) : Option (Nat × Nat) :=
  if r.2 = 0 then none
  else if !anyMay s j.ctx j.launch r.1 r.2 (if j.op = 1 then .accum else .write) then some (0x31, r.1)
  else if peerGone s r.1 then some (0x35, r.1)
  else none

/-- The fault of a move. -/
def moveFault (s : State) (j : EngJob) (m : Move) : Option (Nat × Nat) :=
  if m.oob then some (0x37, 0)
  else ((srcRanges j m).findSome? (readFault s j)).orElse (fun _ => (dstRanges j m).findSome? (writeFault s j))

/-! ### Pieces -/

/-- Elements from an address or a column up to the end of what one access takes: a line, a block, of a remote address 512 bytes (12 R273), which a
gather takes by lines too (R197). -/
def sideLen (j : EngJob) (f a c : Nat) : Nat :=
  let grain := if 2 ^ 48 ≤ a && !j.isGather then 512 else 128
  if blockFmt f then 32 - c % 32 else (grain - a % grain) / dmaSize f

/-- The elements of the next piece of a run (09 R206): up to the next end of its source or its destination; the lines of a block that is
converted are taken together. -/
def pieceLen (j : EngJob) (m : Move) : Nat :=
  let d := if j.op = 2 then m.n else sideLen j j.dfmt m.dst m.c
  if m.oob then m.n
  else match m.src with
    | none => min m.n d
    | some a => if j.op != 2 && blockFmt j.dfmt then min m.n d else min m.n (min d (sideLen j j.sfmt a m.c))

/-- A run cut into pieces. -/
def runPieces (j : EngJob) : Nat → Move → List Move
  | 0, _ => []
  | fuel + 1, m =>
    let k := pieceLen j m
    if k = 0 || m.n ≤ k then [m]
    else
      { m with n := k, fin := false } :: runPieces j fuel
        { m with src := m.src.map (fun a => dispAddr a (k * dmaSize j.sfmt : Nat)), dst := dispAddr m.dst (k * dmaSize j.dfmt : Nat), c := m.c + k,
                 n := m.n - k }

/-- The pieces of a job in element order. -/
def plan (j : EngJob) : List Move :=
  let l := j.moves.flatMap (fun m => runPieces j m.n m)
  ((List.range l.length).zip l).map (fun e => { e.2 with ix := e.1, last := e.1 + 1 == l.length })

/-- The first uncorrectable codeword among the source bytes that a piece has read (R196). -/
def pieceBad (j : EngJob) (p : EngPiece) : Option Nat :=
  (p.got.flatMap (fun (e : Nat × Latch) => e.2.bad)).find? (fun c =>
    (srcRanges j p.mv).any (fun r => decide (32 * c < r.1 + r.2) && decide (r.1 < 32 * c + 32)))

/-- The fault of a piece that its engine has begun: DMA_ECC, or of the range it still writes. -/
def goingFault (s : State) (j : EngJob) (p : EngPiece) : Option (Nat × Nat) :=
  if p.written then none
  else match pieceBad j p with
    | some c => some (0x33, 32 * c)
    | none => (dstRanges j p.mv).findSome? (writeFault s j)

/-- A job's first fault: its cause, its address, and whether a write meets it. -/
def jobFault (s : State) (j : EngJob) : Option (Nat × Nat × Bool) :=
  match j.going.findSome? (goingFault s j) with
  | some f => some (f.1, f.2, f.1 != 0x33)
  | none =>
    match j.left.find? (fun m => (moveFault s j m).isSome) with
    | some m => (moveFault s j m).map (fun f => (f.1, f.2, ((srcRanges j m).findSome? (readFault s j)).isNone))
    | none => none

/-! ### The values of a move -/

/-- A byte that a remote read returned. -/
def gotByte (d : List (Nat × List Byte)) (a : Nat) : Byte :=
  match d.find? (fun e => decide (e.1 ≤ a) && decide (a < e.1 + e.2.length)) with
  | some e => nth e.2 (a - e.1) 0
  | none => 0

/-- The source bytes of a plain range. -/
def srcBytes (s : State) (p : EngPiece) (a n : Nat) : List Byte :=
  if a < 2 ^ 48 then memBytes s a n else (List.range n).map (fun i => gotByte p.far (a + i))

/-- Plain elements as 32-bit values: BF16 is widened, others are their bits. -/
def elemVals (f : Nat) (bs : List Byte) : List W32 :=
  (chunksOf (dmaSize f) bs.length bs).map (fun c =>
    if f = 4 then bf16ToFp32 (BitVec.ofNat 16 (bytesNat c)) else BitVec.ofNat 32 (bytesNat c))

/-- Memory with the lines that a piece has read. -/
def pieceView (s : State) (p : EngPiece) : State := p.got.foldl (fun s e => memPut s (128 * e.1) e.2.bytes) s

/-- The values of a piece's source with the events of reading it. -/
def moveVals (s : State) (j : EngJob) (p : EngPiece) : List W32 × NumEv :=
  match (if blockFmt j.sfmt then j.src else none) with
  | some d => readRow s d p.mv.row p.mv.c p.mv.n
  | none => (elemVals j.sfmt (srcBytes s p (p.mv.src.getD 0) (p.mv.n * dmaSize j.sfmt)), NumEv.none)

/-- What a piece writes to a plain destination. -/
def moveOut (s : State) (j : EngJob) (p : EngPiece) : List Byte × NumEv :=
  match p.mv.src with
  | none => (List.replicate (p.mv.n * dmaSize j.dfmt) 0, NumEv.none)
  | some a =>
    if j.sfmt = j.dfmt then (srcBytes s p a (p.mv.n * dmaSize j.sfmt), NumEv.none)
    else let v := moveVals s j p; (plainBytes j.dfmt v.1, v.2)

/-- The RED kind of an ACCUM descriptor. -/
def accumKind (j : EngJob) : Nat := if j.dfmt = 3 then 3 else j.aop
/-- The fabric OP of an ACCUM descriptor (12 Table 12.1). -/
def accumFab (j : EngJob) : Nat := if j.dfmt = 3 then 0 else j.aop + 1

/-- ACCUM of the elements of a byte string at a module-local address. -/
def accumBytes (s : State) (j : EngJob) (a : Nat) (bs : List Byte) : State :=
  (linesOf a bs.length).foldl (fun s line =>
    let p := linePart a bs line
    let es := ((List.range (p.2.length / 4)).map (fun i => (p.1 + 4 * i, BitVec.ofNat 32 (bytesNat ((p.2.drop (4 * i)).take 4)))))
    accumLine s j.ctx (accumKind j) (canonOf s j.ctx) (j.dstw.testBit 62) line es) s

/-! ### Order of a job's accesses (09 R203, R204) -/

/-- The lines of some ranges, by their global numbers. -/
def sideLines (rs : List (Nat × Nat)) : List Nat := rs.flatMap (fun r => linesOf r.1 r.2)
/-- The lines a piece reads. -/
def readLns (j : EngJob) (m : Move) : List Nat := sideLines (srcRanges j m)
/-- The lines a piece writes. -/
def writeLns (j : EngJob) (m : Move) : List Nat := sideLines (dstRanges j m)
/-- Whether a line is of another module, by its global number. -/
def farLn (line : Nat) : Bool := decide (2 ^ 41 ≤ line)
/-- Whether two lists have no common member. -/
def apart (xs ys : List Nat) : Bool := xs.all (fun x => !ys.contains x)

/-- The remote lines that a piece begun has still to read. -/
def unreadFar (j : EngJob) (p : EngPiece) : List Nat := if p.wantR.isEmpty then [] else (readLns j p.mv).filter farLn
/-- The lines that a job has still to read, of pieces that satisfy a test. -/
def unread (j : EngJob) (q : Move → Bool) : List Nat :=
  (j.left.filter q).flatMap (readLns j) ++ (j.going.filter (fun p => q p.mv)).flatMap (fun p => p.want ++ unreadFar j p)
/-- The lines that a job has still to write, of pieces that satisfy a test. -/
def unwritten (j : EngJob) (q : Move → Bool) : List Nat :=
  (j.left.filter q).flatMap (writeLns j) ++ (j.going.filter (fun p => q p.mv && !p.written)).flatMap (fun p => writeLns j p.mv)

/-- The jobs before a job: those of the same engine from the same core's DMA queue (R203). -/
def jobsBefore (s : State) (id : Nat) (j : EngJob) : List EngJob :=
  match j.origin with
  | .queue _ _ => []
  | .group _ _ _ _ =>
    (s.jobs.filter (fun (e : Nat × EngJob) => decide (e.1 < id) && e.2.cluster == j.cluster && e.2.engine == j.engine && e.2.core == j.core
      && (match e.2.origin with | .group _ _ _ _ => true | .queue _ _ => false))).map (·.2)

/-- The remote lines to which a write of the engine is not acknowledged (R204). -/
def unackedLns (s : State) (j : EngJob) : List Nat :=
  s.jobs.flatMap (fun (e : Nat × EngJob) => if e.2.cluster = j.cluster && e.2.engine = j.engine then
    (e.2.going.flatMap (fun p => p.acks.flatMap (fun r => linesOf r.2.1 r.2.2))).filter farLn else [])

/-- Whether a piece may read its lines now: those that go before it have written theirs, and read them or wait for the same fill. -/
def readOrder (s : State) (id : Nat) (j : EngJob) (m : Move) : Bool :=
  let before : Move → Bool := fun x => decide (x.ix < m.ix)
  let all : Move → Bool := fun _ => true
  let ls := readLns j m
  apart ls (unwritten j before) && apart ls (unackedLns s j) && apart ls ((j.left.filter before).flatMap (readLns j))
    && apart ls ((j.going.filter (fun p => before p.mv)).flatMap (unreadFar j))
    && (jobsBefore s id j).all (fun i => apart ls (unread i all) && apart ls (unwritten i all))

/-- Whether a piece may write its lines now. -/
def writeOrder (s : State) (id : Nat) (j : EngJob) (m : Move) : Bool :=
  let before : Move → Bool := fun x => decide (x.ix < m.ix)
  let all : Move → Bool := fun _ => true
  let ls := writeLns j m
  apart ls (unwritten j before) && apart ls (unread j before) && apart ls (unackedLns s j)
    && (jobsBefore s id j).all (fun i => apart ls (unread i all) && apart ls (unwritten i all))

/-! ### Tags (R186) -/

/-- The tags of an engine. -/
def engPool (j : EngJob) : Nat := if j.isGather then 512 else 1024
/-- Whether an engine's pool has tags for some lines. -/
def poolFree (s : State) (j : EngJob) (ks : List CapKey) : Bool := decide ((engTags s j.cluster j.engine).length + ks.length ≤ engPool j)
/-- Whether no cap, a quarter of the pool, stops some lines. -/
def capsFree (s : State) (j : EngJob) (ks : List CapKey) : Bool :=
  let held := engTags s j.cluster j.engine ++ ks
  ks.all (fun k => decide ((held.filter (fun x => x == k)).length ≤ engPool j / 4))
/-- The tags that a piece's reads take: none for a line that the descriptor waits for already. -/
def readKeys (s : State) (j : EngJob) (m : Move) : List CapKey :=
  (readLns j m).filterMap (fun line =>
    if farLn line then some (.peer (line / 2 ^ 41))
    else if cacheable s (128 * line) && !j.lines.contains line then some (lineCap line) else none)
/-- The tags that a piece's writes take: a write at home is performed at once. -/
def writeKeys (j : EngJob) (m : Move) : List CapKey :=
  (writeLns j m).filterMap (fun line => if farLn line then some (.peer (line / 2 ^ 41)) else none)

/-! ### Reading -/

/-- Whether a piece may begin, tags apart. -/
def beginReady (s : State) (id : Nat) (j : EngJob) (m : Move) : Bool :=
  (moveFault s j m).isNone && !(srcRanges j m ++ dstRanges j m).any (fun r => decide (r.1 < 2 ^ 48) && sleeps s r.1)
    && (j.op = 2 || readOrder s id j m)

/-- What an engine's reads of module lines have come to: the lines that wait for a fill, those that have been read. -/
structure JobReads where
  s : State
  j : EngJob
  want : List Nat
  got : SMap Latch

/-- An engine reads one module line for a descriptor (R175: as NOALLOC): counted, the filter asked; a fill that the descriptor waits for serves
this read too. -/
def jobReadLine (id : Nat) (r : JobReads) (line : Nat) : JobReads :=
  let s := r.s
  let ctx := r.j.ctx
  let take : State → JobReads := fun t =>
    let l : Latch := { bytes := seenBytes t (128 * line) 128, bad := t.mem.badCw.filter (fun c => c / 4 == line) }
    { r with s := t, got := SMap.put r.got line l }
  if r.j.failed != 0 || r.want.contains line || (SMap.get? r.got line).isSome then r
  else if cacheable s (128 * line) then
    if r.j.lines.contains line then { r with want := line :: r.want }
    else
      let h := homeSlice (128 * line)
      let q := weevilRead (evictRed s line) h line ctx
      if q.1 && deadchkOf s ctx then { r with s := q.2, j := { r.j with failed := 0x3A, failAddr := 128 * line } }
      else
        let s := lateCheck q.2 h line
        match findLine s h (isHome line) with
        | some _ => take (demandRead (bump (touchLine s h (isHome line)) .slc h 0x080 ctx) h (isHome line))
        | none =>
          { r with s := startFill (bump s .slc h 0x088 ctx) line (.job id ctx), j := { r.j with lines := line :: r.j.lines }, want := line :: r.want }
  else match winHit s (128 * line) with
    | some n => take (winRefuse s n)
    | none => take s

/-- The pieces that begin with a piece: rows of a gather that share its line are read as one request (R197). -/
def batchOf (s : State) (j : EngJob) (m : Move) : List Move :=
  let ls := readLns j m
  if j.isGather && ls.length = 1 then
    m :: (j.left.filter (fun x => decide (m.ix < x.ix) && readLns j x == ls && (moveFault s j x).isNone
      && apart ls (unwritten j (fun y => decide (y.ix < x.ix)))))
  else [m]

/-- The remote span that a request of some pieces names, in whole words (12 R273). -/
def remoteSpan (j : EngJob) (ms : List Move) : List (Nat × Nat) :=
  let rs := (ms.flatMap (srcRanges j)).filter (fun r => decide (2 ^ 48 ≤ r.1))
  match rs with
  | [] => []
  | r :: _ =>
    let lo := (rs.foldl (fun k x => min k x.1) r.1) / 4 * 4
    let hi := (rs.foldl (fun k x => max k (x.1 + x.2)) lo + 3) / 4 * 4
    pieces lo (hi - lo)

/-- WARM of a piece: its module lines are prefetched (R193, R198). -/
def warmPiece (s : State) (id : Nat) (j : EngJob) (m : Move) : State :=
  let s := ((readLns j m).filter (fun line => !farLn line)).foldl (fun s line =>
    if cacheable s (128 * line) then prefetchHome s j.ctx line else s) s
  { s with jobs := SMap.put s.jobs id { j with left := j.left.filter (fun x => x.ix != m.ix) } }

/-- A piece begins: its lines are read or their fills requested, its remote bytes are asked for (R190, R191). -/
def beginPiece (s : State) (id : Nat) (j : EngJob) (m : Move) : State :=
  if j.op = 2 then warmPiece s id j m
  else
    let batch := batchOf s j m
    let r := ((readLns j m).filter (fun line => !farLn line)).foldl (jobReadLine id) { s := s, j := j, want := [], got := [] }
    if r.j.failed != 0 then { r.s with jobs := SMap.put r.s.jobs id r.j }
    else
      let rs := remoteSpan j batch
      let ks := (List.range rs.length).map (fun i => j.parts + i)
      let noalloc := (j.fld (if j.isGather then 8 else 0) 8).testBit 61
      let new : List EngPiece := batch.map (fun x =>
        { mv := x, want := r.want, wantR := ks, got := r.got, far := [], written := false, acks := [] })
      let s := fabEnter r.s ((ks.zip rs).map (fun e =>
        { t := engTxn r.s j.ctx j.tag 1 0 e.2.1 e.2.2 false noalloc [] .read, who := .engine id e.1 }))
      { s with jobs := SMap.put s.jobs id { r.j with
          left := j.left.filter (fun x => !batch.any (fun y => y.ix == x.ix)), going := j.going ++ new, parts := j.parts + ks.length
          reads := j.reads ++ (ks.zip rs).map (fun e => (e.1, e.2.1, e.2.2)) } }

/-! ### Writing -/

/-- The module lines that a piece of an ACCUM combines into. -/
def accumLns (j : EngJob) (m : Move) : List Nat := if j.op = 1 then (writeLns j m).filter (fun line => !farLn line) else []

/-- Whether a piece that has read its data may be written, tags and RED evictions apart: its place in the order has come, no PENDING block and no
fill holds its lines, and the last write of a FLAG descriptor goes last (R191, 09 R213). -/
def writeReady (s : State) (id : Nat) (j : EngJob) (p : EngPiece) : Bool :=
  !p.written && p.want.isEmpty && p.wantR.isEmpty && (goingFault s j p).isNone
    && !(dstRanges j p.mv).any (fun r => decide (r.1 < 2 ^ 48) && (rangeHeld s r.1 r.2 || sleeps s r.1))
    && writeOrder s id j p.mv
    && !(j.flag && p.mv.last && !(j.left.isEmpty && j.going.all (fun q => q.written || q.mv.ix == p.mv.ix)))

/-- Whether a piece that may be written has an ACCUM to enter behind a RED eviction, or no eviction and no earlier ACCUM in its way (R180). -/
def redReady (s : State) (id : Nat) (j : EngJob) (m : Move) : Bool :=
  let ls := accumLns j m
  if ls.any (redLeaving s) then ls.any (fun line => redLeaving s line && !(redWaiters s line).contains (.job id))
  else ls.all (fun line => redTurn s line (.job id))

/-- The DEAD hint of a piece (R181): on each source line that no other piece still has to read or write from; of a fabric address on the
module's far lines. -/
def deadPiece (s : State) (j : EngJob) (p : EngPiece) : State :=
  if !j.isGather && (j.fld 0 8).testBit 60 then
    let other : Move → Bool := fun x => x.ix != p.mv.ix
    let needed := (j.left.filter other).flatMap (readLns j)
      ++ (j.going.filter (fun q => other q.mv && !q.written)).flatMap (fun q => readLns j q.mv)
    ((readLns j p.mv).filter (fun line => !needed.contains line)).foldl (fun s line =>
      if farLn line then engFarDrop s (128 * line) 128
      else if cacheable s (128 * line) then deadHint s line j.ctx else s) s
  else s

/-- The cluster-wide XFR counters of an engine's job. -/
def xfr (s : State) (j : EngJob) (off amount : Nat) : State := bumpC s .xfr j.cluster off amount (some j.ctx)

/-- The counts of a piece that is written: its bytes, and of a gather the row that it ends (Table 8.11). -/
def countPiece (s : State) (j : EngJob) (p : EngPiece) (n : Nat) : State :=
  if j.isGather then xfr (if p.mv.fin then xfr s j 0x20 1 else s) j 0x28 n else xfr s j 0x18 n

/-- A piece leaves its job, or stays until its writes are acknowledged. -/
def putPiece (j : EngJob) (p : EngPiece) : EngJob :=
  { j with going := if p.acks.isEmpty then j.going.filter (fun q => q.mv.ix != p.mv.ix)
                    else j.going.map (fun q => if q.mv.ix = p.mv.ix then p else q) }

/-- A piece is written (R191-R193): blocks with their tracker, bytes or ACCUMs at home, transactions to a remote place. -/
def performPiece (s : State) (id : Nat) (j : EngJob) (p : EngPiece) : State :=
  let v := pieceView s p
  let done : State → EngJob → EngPiece → Nat → State := fun s j p n =>
    let s := (accumLns j p.mv).foldl (fun s line => redLeave s line (.job id)) s
    let s := deadPiece (countPiece s j p n) j p
    { s with jobs := SMap.put s.jobs id (putPiece j { p with written := true }) }
  match (if blockFmt j.dfmt then j.dst else none) with
  | some d =>
    let x := moveVals v j p
    let r := writeRow s j.ctx d p.mv.row p.mv.c x.1 j.noalloc
    let per := match d.blk with | some f => f.blockBytes + 1 | none => 0
    done r.1 { j with flags := j.flags ||| r.2.flags ||| x.2.flags } p ((p.mv.n + 31) / 32 * per)
  | none =>
    let x := moveOut v j p
    let j := { j with flags := j.flags ||| x.2.flags }
    if p.mv.dst < 2 ^ 48 then
      done (if j.op = 1 then accumBytes s j p.mv.dst x.1 else engWrite s j.ctx p.mv.dst x.1 j.noalloc) j p x.1.length
    else
      let ps := writeParts p.mv.dst x.1
      let ts := ((List.range ps.length).zip ps).map (fun e =>
        ({ t := { engTxn s j.ctx j.tag (if j.op = 1 then 3 else 2) (if j.op = 1 then accumFab j else 0) e.2.1 e.2.2.1.length
                    (j.flag && p.mv.last && e.1 + 1 == ps.length) j.noalloc e.2.2.1 (if j.op = 1 then .accum else .write) with part := e.2.2.2 },
           who := .engine id (j.parts + e.1) } : OutTxn))
      let s := fabEnter (ts.foldl (fun s (o : OutTxn) => farSent s o.t) s) ts
      done s { j with parts := j.parts + ps.length } { p with acks := ((List.range ps.length).zip ps).map (fun e => (j.parts + e.1, e.2.1, e.2.2.1.length)) }
        x.1.length

/-- A piece that may be written is written, or its ACCUMs enter behind the evictions in their way. -/
def writePiece (s : State) (id : Nat) (j : EngJob) (p : EngPiece) : State :=
  let busy := (accumLns j p.mv).filter (redLeaving s)
  if busy.isEmpty then performPiece s id j p else busy.foldl (fun s line => redJoin s line j.ctx (.job id)) s

/-! ### What an engine may do next (R190, 09 R206) -/

/-- The next things a job could do: write the pieces that it has begun, begin those that are left, each by its place. -/
def jobActs (j : EngJob) : List (Bool × Nat) :=
  (j.going.filter (fun p => !p.written)).map (fun p => (true, p.mv.ix)) ++ j.left.map (fun m => (false, m.ix))

/-- Whether a job may do a thing, with the tags that it takes. -/
def actReady (s : State) (id : Nat) (j : EngJob) (a : Bool × Nat) : Bool × List CapKey :=
  if j.failed != 0 then (false, [])
  else if a.1 then
    match j.going.find? (fun p => p.mv.ix == a.2) with
    | some p => (writeReady s id j p && redReady s id j p.mv, writeKeys j p.mv)
    | none => (false, [])
  else
    match j.left.find? (fun m => m.ix == a.2) with
    | some m => (beginReady s id j m, if j.op = 2 then [] else readKeys s j m)
    | none => (false, [])

/-- Whether a job does a thing now. -/
def actOk (s : State) (id : Nat) (j : EngJob) (a : Bool × Nat) : Bool :=
  let r := actReady s id j a
  r.1 && poolFree s j r.2 && capsFree s j r.2

/-- A job does a thing. -/
def doAct (s : State) (id : Nat) (j : EngJob) (a : Bool × Nat) : State :=
  if a.1 then
    match j.going.find? (fun p => p.mv.ix == a.2) with
    | some p => writePiece s id j p
    | none => s
  else
    match j.left.find? (fun m => m.ix == a.2) with
    | some m => beginPiece s id j m
    | none => s

/-- A job does what it can, up to a number of things. -/
def advance (id : Nat) : Nat → State → State
  | 0, s => s
  | fuel + 1, s =>
    match SMap.get? s.jobs id with
    | none => s
    | some j =>
      match (jobActs j).find? (actOk s id j) with
      | none => s
      | some a => advance id fuel (doAct s id j a)

/-- One ck of an engine of a running cluster: one thing that one of its descriptors can do, the choice being a free value (R190, log entry 94); or a
ck in which a request waits on a cap alone (Table 8.11). -/
def engineCk (cluster engine : Nat) (s : State) : State :=
  let mine := s.jobs.filter (fun (e : Nat × EngJob) => e.2.cluster == cluster && e.2.engine == engine)
  let acts := mine.flatMap (fun (e : Nat × EngJob) => (jobActs e.2).map (fun a => (e.1, e.2, a)))
  match acts.filter (fun e => actOk s e.1 e.2.1 e.2.2) with
  | [] =>
    match acts.find? (fun e => let r := actReady s e.1 e.2.1 e.2.2; r.1 && poolFree s e.2.1 r.2) with
    | some e => xfr s e.2.1 0x30 1
    | none => s
  | [e] => doAct s e.1 e.2.1 e.2.2
  | es =>
    let r := drawNat s
    match es[r.1 % es.length]? with
    | some e => doAct r.2 e.1 e.2.1 e.2.2
    | none => s

/-- The engines of a cluster through some ck. -/
def engineTick (cluster : Nat) : Nat → State → State
  | 0, s => s
  | n + 1, s => engineTick cluster n ((List.range 3).foldl (fun s e => engineCk cluster e s) s)

/-! ### Starting a job -/

/-- The bytes of the index list are read (R197); a list that may not be read is a fault of the descriptor. -/
def readList (s : State) (j : EngJob) : State × EngJob :=
  let r := (idxAddr j, idxCount j * idxBytes j)
  match readFault s j r with
  | some f => (if f.1 = 0x31 then engRefuse s j.ctx f.2 false else s, { j with failed := f.1, failAddr := f.2 })
  | none =>
    let q := engRead (settleReds s r.1 r.2) j.ctx r.1 r.2
    if q.1 && deadchkOf s j.ctx then (q.2, { j with failed := 0x3A, failAddr := r.1 })
    else if rangeBad s r.1 r.2 then (q.2, { j with failed := 0x33, failAddr := r.1 })
    else (q.2, { j with idx := readIdx q.2 j })

/-- A job entered in an engine, which reads a gather's index list. -/
def startJob (s : State) (j : EngJob) : State :=
  let r := if j.isGather then readList s j else (s, j)
  let j := { r.2 with left := plan r.2 }
  { r.1 with jobs := SMap.put r.1.jobs r.1.nextJob j, nextJob := r.1.nextJob + 1 }

/-- The MTD a block side names: at a 32-byte-aligned offset of the launch's area. -/
def sideMtd (s : State) (g : Option Group) (f off : Nat) : Option Mtd :=
  if blockFmt f then
    match g with
    | some g => if off % 32 = 0 then (spadAt g off 32).map (readMtd s) else none
    | none => none
  else none

/-- A job from the bytes of a descriptor. -/
def mkJob (s : State) (g : Option Group) (cluster engine core ctx addr : Nat) (o : DescFrom) (bs : List Byte) : EngJob :=
  let j : EngJob :=
    { cluster := cluster, engine := engine, ctx := ctx, origin := o, launch := g.map (·.launch), core := core, addr := addr, bytes := bs,
      src := none, dst := none, idx := [], left := [], going := [], lines := [], reads := [], parts := 0, flags := 0, failed := 0, failAddr := 0,
      failStatus := 0 }
  if engine = 0 then
    { j with src := sideMtd s g j.sfmt (j.fld 0 8 % 2 ^ 32), dst := sideMtd s g j.dfmt (j.dstw % 2 ^ 32) }
  else j

/-- The check of a job's descriptor. -/
def jobCheck (s : State) (j : EngJob) : Option Nat := if j.isGather then gatherCheck s j else dmaCheck s j

/-- A failed check of a DMA-queue entry (R190): it and every later entry of its group leave, and the group parks. -/
def dmaqFail (s : State) (n : Nat) (e : DmaEntry) (cause : Nat) : State :=
  let removed := ((coreOf s n).dmaq.filter (fun x => x.age == e.age)).length
  let s := modCore s n (fun c => { c with dmaq := c.dmaq.filter (fun x => x.age != e.age) })
  let s := bumpC s .xfr (clusterOf n) 0x38 1 (some e.ctx)
  settleAge n e.age (deferFault s n e.age cause e.pc 0 0 0 removed false)

/-- DMAQ_DISPATCH (R190): the oldest entry of a core's DMA queue goes to its engine, which reads and checks the descriptor. -/
def execDmaqDispatch (n : Fin 48) (s : State) : Out :=
  let k := n.val
  match (coreOf s k).dmaq with
  | [] => .next s
  | e :: rest =>
    if coreRuns s k then
      let g := groupByAge s k e.age
      match g.bind (fun g => if e.off % 64 = 0 then spadAt g e.off 64 else none) with
      | none => .next (dmaqFail s k e 0x30)
      | some a =>
        let j := mkJob s g (clusterOf k) e.engine k e.ctx a (.group k e.slot e.age e.pc) (memBytes s a 64)
        match jobCheck s j with
        | some c => .next (dmaqFail s k e c)
        | none => .next (startJob (modCore s k (fun c => { c with dmaq := rest })) j)
    else .next s

/-! ### Ends -/

/-- The BIND value of an engine (16 Table 16.13). -/
def engBind (j : EngJob) : Nat := j.cluster + 16 * j.engine

/-- The queue completion of a descriptor (R194, 16 R380); byte 2 carries the STATUS of a NAK (12 R296). -/
def dmaEntry (j : EngJob) (cause flags ftime : Nat) : List Byte :=
  [BitVec.ofNat 8 cause, 2, BitVec.ofNat 8 j.failStatus, 0] ++ natBytes 4 flags ++ natBytes 8 j.addr ++ natBytes 4 j.tokbase ++ natBytes 4 0 ++ natBytes 8 ftime

/-- The completion queue told, where the descriptor names one. -/
def tellQueue (s : State) (j : EngJob) (cause : Nat) : State :=
  if j.ckind = 2 then
    match descOf s j.ctarget with
    | some d => if d.owner = j.ctx then deliverEntry s j.ctarget (dmaEntry j cause j.flags s.ftime) none else s
    | none => s
  else s

/-- The issuer told that a job is over: the group may end, the queue's entry is finished (R194, 16 R371). -/
def jobOver (s : State) (id : Nat) (j : EngJob) : State :=
  let s := { s with jobs := SMap.del s.jobs id }
  match j.origin with
  | .group n _ age _ => settleAge n age s
  | .queue qid i => entryDone s qid (BitVec.ofNat 32 i)

/-- A job's numeric flags set in NUM_STICKY and sNUMF (R194). -/
def jobFlags (s : State) (j : EngJob) : State :=
  match j.origin with
  | .group n _ age _ => numFlags s n age j.flags
  | .queue _ _ => s

/-- A job completed (R194). -/
def finishJob (s : State) (id : Nat) (j : EngJob) : State :=
  let s := xfr s j 0x10 1
  let s := jobFlags s j
  let s := if j.ckind = 1 then hwSignal s j.cluster j.ctx (j.ctarget % 65536) 1 else s
  jobOver (tellQueue s j 0) id j

/-- Things that a job can still do, at most: each piece is begun, enters behind an eviction at each of two lines, and is written. -/
def actsLeft (j : EngJob) : Nat := 4 * (j.left.length + j.going.length)

/-- DESCRIPTOR_COMPLETE (R194): a job does what it still can; once its writes are visible and acknowledged it completes. -/
def execDescriptorComplete (_e : Fin 48) (id : Nat) (s : State) : Out :=
  match SMap.get? s.jobs id with
  | none => .next s
  | some j =>
    let s := advance id (actsLeft j) s
    match SMap.get? s.jobs id with
    | none => .next s
    | some j => if j.failed = 0 && j.left.isEmpty && j.going.isEmpty then .next (finishJob s id j) else .next s

/-- A job stopped by a fault (R196): what it had written remains, DMA_FAULT is posted, a queue completion carries the cause, and a live
group parks. -/
def failJob (s : State) (id : Nat) (j : EngJob) (cause at_ : Nat) : State :=
  let s := jobFlags (xfr s j 0x38 1) j
  let s := { s with fab := { s.fab with waiting := s.fab.waiting.filter (fun o => match o.who with | .engine k _ => k != id | _ => true) } }
  let s := postEvent s j.ctx 0x02 cause 0 (engBind j) j.addr at_ none
  let s := tellQueue s j cause
  let s := match j.origin with
    | .group n _ age pc => deferFault s n age cause pc 0 at_ 0 0 (causeContained cause || cause = 0x33)
    | .queue _ _ => s
  jobOver s id j

/-- The instance of an engine's records: the DMA engine's number in its die, c, or a gather engine's, 2c + e (00 R9, 15 Table 15.2). -/
def engInst (j : EngJob) : Nat := if j.engine = 0 then j.cluster % 4 else 2 * (j.cluster % 4) + (j.engine - 1)

/-- Whether a job has still to use the bytes at an address. -/
def jobNeeds (j : EngJob) (a : Nat) : Bool :=
  let has : Move → Bool := fun m => (srcRanges j m).any (fun r => decide (r.1 ≤ a) && decide (a < r.1 + r.2))
  j.left.any has || j.going.any (fun p => !p.written && has p.mv)

/-- The fault that a job which goes on no further has met: with its cause and address. -/
def meetFault (s : State) (id : Nat) (j : EngJob) (ecc : Option Nat) : Out :=
  if j.failed != 0 then .next (failJob s id j j.failed j.failAddr)
  else
    match ecc.filter (jobNeeds j) with
    | some a => .next (failJob (unitErr s 1 (j.cluster / 4) 0xE (engInst j) 2 j.ctx 0x33 a false) id j 0x33 a)
    | none =>
      match jobFault s j with
      | some f => .next (failJob (if f.1 = 0x31 then engRefuse s j.ctx f.2.1 f.2.2 else s) id j f.1 f.2.1)
      | none => .next s

/-- DESCRIPTOR_FAULT (R196): the job meets its first fault: of a remote transaction, of a re-read that DEADCHK refuses, of an uncorrectable SRAM
error at the address `ecc` (15 R337), or of a part it may not access. How much it does before that is a free value. -/
def execDescriptorFault (_e : Fin 48) (id : Nat) (ecc : Option Nat) (s : State) : Out :=
  match SMap.get? s.jobs id with
  | none => .next s
  | some j =>
    if j.failed != 0 then meetFault s id j ecc
    else
      let r := drawNat s
      let s := advance id (r.1 % (actsLeft j + 1)) r.2
      match SMap.get? s.jobs id with
      | none => .next s
      | some j => meetFault s id j ecc

/-! ### The instructions (Table 8.4) -/

/-- The DMA queue has room. -/
def dmaRoom (c : Core) : Bool := decide (c.dmaq.length < 32)

/-- A descriptor entered in the core's DMA queue. -/
def dmaEnter (o : LOp) (engine : Nat) (u : Issue) (w : Lpk) (s : State) : Out :=
  plainOp o u w dmaRoom (fun x s1 =>
    if x.act = 0 then issueEnd x Flow.next s1
    else
      let e : DmaEntry := { slot := x.i, age := x.g.age, ctx := x.g.ctx, pc := x.pc, engine := engine,
                            off := (gReg x.g (leadOf x) w.a.toNat).toNat }
      issueEnd x Flow.next (modCore s1 x.n (fun c => { c with dmaq := c.dmaq ++ [e] }))) s

/-- DMA. -/
def execDma (u : Issue) (w : Lpk) (s : State) : Out := dmaEnter .dma 0 u w s
/-- GATHER: MOD[0] is the engine. -/
def execGather (u : Issue) (w : Lpk) (s : State) : Out := dmaEnter .gather (1 + modF w 0 1) u w s

/-- Whether a group's DMA and gather descriptors have all completed. -/
def dmaDone (s : State) (n age : Nat) : Bool :=
  (coreOf s n).dmaq.all (fun e => e.age != age)
  && s.jobs.all (fun j => match j.2.origin with | .group k _ a _ => !(k == n && a == age) | .queue _ _ => true)

/-- DMAFENCE. -/
def execDmafence (u : Issue) (w : Lpk) (s : State) : Out :=
  plainOp .dmafence u w anyRoom (fun x s1 =>
    let s2 := issueEnd x Flow.next s1
    if x.act = 0 then s2 else modGroup s2 x.n x.i (fun g => { g with wait := .dmafence })) s

/-- DMAFENCE_COMPLETE (R189). -/
def execDmafenceComplete (u : Slot) (s : State) : Out :=
  let n := u.core.val
  match groupOf s n u.slot.val with
  | none => .next s
  | some g =>
    if g.wait == .dmafence && dmaDone s n g.age then
      .next (modGroup s n u.slot.val (fun g => { g with wait := .none }))
    else .next s

/-! ### DMA-type hardware queues (R190, 16 R373, R378) -/

/-- DMA_QUEUE_TAKE (R190): an engine takes the next descriptor of a DMA queue; one that fails its check ends with its cause. -/
def execDmaQueueTake (qid : Nat) (s : State) : Out :=
  match descOf s qid with
  | none => .next s
  | some d =>
    if d.ty = 1 && d.take != d.prod && !isPreempted s d.owner && !isQuiesced s d.owner && field d.bind 4 2 != 3
        && (clusterAt s (field d.bind 0 4)).st == .run then
      let i := d.take
      let a := qSlot d i
      let s := touchDesc (engRead s d.owner a 64).2 qid
      let s := modDesc s qid (fun d => { d with take := d.take + 1 })
      let j := mkJob s none (field d.bind 0 4) (field d.bind 4 2) 0 d.owner a (.queue qid i.toNat) (seenBytes s a 64)
      match jobCheck s j with
      | some c => .next (failJob s s.nextJob j c 0)
      | none => .next (startJob s j)
    else .next s

/-- XFR_CLR_COUNTS (R201). -/
def execXfrClrCounts (w : RegWr) (s : State) : Out :=
  ctlWrite w .xfr (fun off => off == 0x008) fwOnly (fun u _ v s => clearIf v 0 .xfr (offs 0x010 0x038) u s) s

end Sys2Proof.Machine
end

