-- ==== Sys2Proof/Machine/Reduce.lean ====
section
/-! DEFINITION. Gradient reduction (13): arming buckets, decisions, the up phase, delivery, comets, pass 2, failures. -/

namespace Sys2Proof.Machine

/-! ### Fields of the bucket header (Table 13.1) -/

/-- TAG. -/
def Bucket.tag (k : Bucket) : Nat := k.fld 0 2
/-- FMT as the header has it. -/
def Bucket.fmt1 (k : Bucket) : Bool := (k.fld 0 4).testBit 16
/-- POLICY = CARRY. -/
def Bucket.carries (k : Bucket) : Bool := (k.fld 0 4).testBit 17
/-- DIVIDE. -/
def Bucket.divide (k : Bucket) : Bool := (k.fld 0 4).testBit 18
/-- STEP. -/
def Bucket.stepNo (k : Bucket) : Nat := k.fld 4 4
/-- The tree. -/
def Bucket.tree (k : Bucket) : Tree := { n := k.fld 8 2, rbase := k.fld 0xA 2, rstride := k.fld 0xC 2, rrot := k.fld 0xE 2 }
/-- DEADLINE. -/
def Bucket.deadline (k : Bucket) : Nat := k.fld 0x10 8
/-- BYTES. -/
def Bucket.size (k : Bucket) : Nat := k.fld 0x18 4
/-- SLACK in ns. -/
def Bucket.slack (k : Bucket) : Nat := 1000 * k.fld 0x1C 2
/-- SLOTS. -/
def Bucket.slots (k : Bucket) : Nat := k.fld 0x1E 1
/-- DATA. -/
def Bucket.data (k : Bucket) : Nat := k.fld 0x20 8
/-- SUM. -/
def Bucket.sum (k : Bucket) : Nat := k.fld 0x28 8
/-- XMIT. -/
def Bucket.xmit (k : Bucket) : Nat := k.fld 0x30 8
/-- RESULT. -/
def Bucket.resultA (k : Bucket) : Nat := k.fld 0x38 8
/-- SLOT. -/
def Bucket.slotA (k : Bucket) : Nat := k.fld 0x40 8
/-- CTL. -/
def Bucket.ctl (k : Bucket) : Nat := k.fld 0x48 8
/-- CARRY. -/
def Bucket.carryA (k : Bucket) : Nat := k.fld 0x50 8
/-- START_VALUE. -/
def Bucket.startV (k : Bucket) : Nat := k.fld 0x58 4
/-- START_VSYNC. -/
def Bucket.startVs (k : Bucket) : Nat := k.fld 0x5C 2
/-- DONE_VSYNC. -/
def Bucket.doneVs (k : Bucket) : Nat := k.fld 0x5E 2
/-- IMP_PARENT, IMP_LEFT, IMP_RIGHT. -/
def Bucket.imp (k : Bucket) (i : Nat) : Nat := k.fld (0x60 + 2 * i) 2 % 4096
/-- TRACKER. -/
def Bucket.trackerI (k : Bucket) : Nat := k.fld 0x78 2
/-- The number of chunks (R303). -/
def Bucket.chunks (k : Bucket) : Nat := (k.size + 65535) / 65536
/-- FP32 bytes of chunk `c`. -/
def Bucket.len (k : Bucket) (c : Nat) : Nat := min 65536 (k.size - 65536 * c)
/-- Bytes of the XMIT area. -/
def Bucket.xmitBytes (k : Bucket) : Nat := 33280 * k.chunks
/-- HCHK (R303): the bytes of the tree-wide fields in order. -/
def Bucket.hchk (k : Bucket) : Nat :=
  crc32 (k.bytes.take 0x1F ++ (k.bytes.drop 0x28).take 24 ++ (k.bytes.drop 0x48).take 8)
/-- The number of the header's left or right child. -/
def Bucket.kid (k : Bucket) (right : Bool) : BKid := if right then k.kids.2 else k.kids.1
/-- A child changed. -/
def Bucket.modKid (k : Bucket) (right : Bool) (f : BKid → BKid) : Bucket :=
  { k with kids := if right then (k.kids.1, f k.kids.2) else (f k.kids.1, k.kids.2) }
/-- The two sides. -/
def sides : List Bool := [false, true]

/-! ### Areas and ranges -/

/-- The ranges of a chunk that travel: of an FP32 area, or the mantissas and exponents of XMIT (Table 13.2), in whole words. -/
def Bucket.wireRanges (k : Bucket) (wire : Bool) (fp : Nat) (c : Nat) : List (Nat × Nat) :=
  if wire then
    let n := k.len c / 128
    [(k.xmit + 33280 * c, 64 * n), (k.xmit + 33280 * c + 32768, (n + 3) / 4 * 4)]
  else [(fp + 65536 * c, k.len c)]

/-- The slot address of a child's chunk. -/
def Bucket.slotOf (k : Bucket) (right : Bool) (c : Nat) : Nat :=
  k.slotA + 65536 * ((if right then k.slots else 0) + c % k.slots)

/-- Whether the bucket pulls XMIT from a child: its wire is B16 and the child's is too (R314). -/
def Bucket.pullsWire (k : Bucket) (right : Bool) : Bool := k.wire && !(k.kid right).canon

/-! ### Fabric transactions of a bucket -/

/-- A transaction to a parent or child through an IMPORT entry of the header. -/
def bucketTxn (s : State) (k : Bucket) (imp peer ty a n : Nat) (flag : Bool) (payload : List Byte) : Txn :=
  let r := regionAt s imp
  { ty := ty, op := 0, flag := flag, noalloc := true, retx := false, dst := BitVec.ofNat 12 peer, src := selfId s,
    tag := BitVec.ofNat 12 (112 + k.cluster), ridx := r.ridx, addr := BitVec.ofNat 48 a, len := n,
    sctx := BitVec.ofNat 8 k.ctx, key := r.key, seq := 0, arg0 := 0, arg1 := 0, payload := payload }

/-- Transactions of a bucket entered, each with the part it is. -/
def bucketSend (b : Nat) : State → Bucket → List (SeqPart × Txn) → State × Bucket
  | s, k, [] => (s, k)
  | s, k, (p, t) :: rest =>
    let id := s.nextJob
    let s := fabEnter (farSent { s with nextJob := id + 1 } t) [{ t := t, who := .reduction b id }]
    bucketSend b s { k with parts := SMap.put k.parts id p } rest

/-- A control record (Table 13.4). -/
def ctlBytes (k : Bucket) (chunks count flags ftime : Nat) : List Byte :=
  natBytes 4 k.stepNo ++ natBytes 2 chunks ++ natBytes 2 count ++ natBytes 4 flags ++ natBytes 4 k.hchk ++ natBytes 8 ftime
    ++ natBytes 8 0

/-- The offset of a record in the receiver's control area: 0 from the left child, 1 from the right child, 2 from the parent. -/
def Bucket.recOffset (k : Bucket) (who : Nat) : Nat := 0x40 * who + 32 * (k.stepNo % 2)

/-- A ready record to the parent (R309, R311). -/
def sendReady (s : State) (b : Nat) (k : Bucket) (chunks count flags : Nat) : State × Bucket :=
  if k.idx = 0 then (s, k)
  else
    let a := k.ctl + k.recOffset (if k.idx % 2 = 1 then 0 else 1)
    bucketSend b s k
      [(.write, bucketTxn s k (k.imp 0) k.parent 2 a 32 true (ctlBytes k chunks count flags s.ftime))]

/-- A down record to a child (R312). -/
def sendDown (s : State) (b : Nat) (k : Bucket) (right : Bool) (chunks count flags : Nat) : State × Bucket :=
  if (k.kid right).present then
    bucketSend b s k
      [(.write, bucketTxn s k (k.kid right).imp (k.kid right).peer 2 (k.ctl + k.recOffset 2) 32 true
          (ctlBytes k chunks count flags s.ftime))]
  else (s, k)

/-! ### Flags of records -/

/-- Whether contributors in different modes met in this subtree (R35, R314). -/
def Bucket.mixed (k : Bucket) : Bool :=
  sides.any (fun r => (k.kid r).inc && ((k.kid r).mixed || (k.kid r).canon != k.canon))

/-- OVF of the subtree. -/
def Bucket.ovfAll (k : Bucket) : Bool := k.ovf || sides.any (fun r => (k.kid r).inc && (k.kid r).ovf)

/-- OBS of the subtree. -/
def Bucket.obsAll (k : Bucket) : Nat :=
  sides.foldl (fun m r => if (k.kid r).inc then max m (k.kid r).obs else m) k.obs

/-- The WIRE_E field. -/
def Bucket.wireField (k : Bucket) : Nat := if k.fmt1 && !k.canon then k.wireE else 0

/-- The flags of a ready record (Table 13.4). -/
def Bucket.readyFlags (k : Bucket) (empty failed : Bool) : Nat :=
  b2n empty + 2 * b2n k.ovfAll + 4 * b2n k.canon + 8 * b2n k.mixed + 16 * b2n failed + 32 * b2n k.pass2
    + 256 * k.wireField + 65536 * k.obsAll

/-- NONCANONICAL as the root decides it (R34, R35), or as the parent said; a canonical member that is told of a missing contributor adds it (R34). -/
def Bucket.noncanonical (k : Bucket) : Bool :=
  if k.idx = 0 then k.mixed || (k.canon && decide (k.count < k.tree.n)) else k.nonc || (k.canon && k.missing)

/-- The count delivered. -/
def Bucket.delivered (k : Bucket) : Nat := if k.idx = 0 then k.count else k.dcount

/-- The flags of a down record (Table 13.4). -/
def Bucket.downFlags (k : Bucket) (right redo fin : Bool) : Nat :=
  let miss := if k.idx = 0 then decide (k.count < k.tree.n) else k.missing
  b2n (k.kid right).inc + 2 * b2n (redo || k.pass2) + 4 * b2n fin + 8 * b2n k.noncanonical + 16 * b2n (fin && miss)
    + 256 * k.wireField + 65536 * (if k.idx = 0 then k.obsAll else k.dobs)

/-! ### Failure (R317) -/

/-- A CONTAINED record of a reduction sequencer. -/
def bucketErr (s : State) (k : Bucket) (cls cause : Nat) : State :=
  unitErr s 1 (k.cluster / 4) 0xC (k.cluster % 4) cls k.ctx cause k.hdr false

/-- The class of a bucket cause's record; none for a cause that R317 does not log. -/
def bucketClass (cause : Nat) : Option Nat :=
  match cause with
  | 1 => some 7
  | 2 => some 6
  | 3 => some 3
  | 5 => some 7
  | _ => none

/-- A bucket FAILED: the record, FAILED to parent and children, DONE_VSYNC, the slot released. A DELIVERED bucket stays delivered. -/
def failBucket (s : State) (b cause : Nat) (log : Bool) : State :=
  match bucketAt s b with
  | none => s
  | some k =>
    if k.st = 3 then s
    else
      let s := match (if log then bucketClass cause else none) with | some c => bucketErr s k c cause | none => s
      let k := { k with st := 4, cause := cause }
      let s := bump0 (bucketStatus (dropBucketTxns s b) k) .rdx 0 0x060
      let reach : Nat → Bool := fun p => (connOf s p).st != .unreachable
      let r := if reach k.parent then sendReady s b k k.summed k.count (k.readyFlags false true) else (s, k)
      let r := if reach k.kids.1.peer then sendDown r.1 b r.2 false k.result 0 (k.downFlags false false false ||| 32) else r
      let r := if reach k.kids.2.peer then sendDown r.1 b r.2 true k.result 0 (k.downFlags true false false ||| 32) else r
      releaseBucket (seqSignal r.1 k.cluster k.ctx k.doneVs) b

/-! ### The order of the adds (R309) -/

/-- FP32 ACCUMs of bytes into memory at the home channel adders, element by element. -/
def accumWords : State → Nat → List Byte → State
  | s, a, b0 :: b1 :: b2 :: b3 :: bs => accumWords (accumAt s 3 a (BitVec.ofNat 32 (bytesNat [b0, b1, b2, b3]))) (a + 4) bs
  | s, _, _ => s

/-- ACCUMs counted in lines. -/
def accumBytesR (s : State) (a : Nat) (bs : List Byte) : State :=
  bumpC (accumWords s a bs) .rdx 0 0x078 ((bs.length + 127) / 128) none

/-- The FP32 bytes of B16 blocks whose mantissas and exponents lie at two addresses. -/
def wireBytes (s : State) (m e n : Nat) : List Byte :=
  (List.range n).flatMap (fun i =>
    let k := readBlk .b16 (bytesNat (seenBytes s (e + i) 1)) (seenBytes s (m + 64 * i) 64)
    k.ms.flatMap (fun x => natBytes 4 (blkFp32 .b16 k.e x).toNat))

/-- The FP32 bytes of a child's landed chunk. -/
def Bucket.slotBytes (k : Bucket) (s : State) (right : Bool) (c : Nat) : List Byte :=
  let a := k.slotOf right c
  if k.pullsWire right then wireBytes s a (a + 32768) (k.len c / 128) else seenBytes s a (k.len c)

/-- Whether CARRY is added (R309): under POLICY CARRY, with the own gradient. -/
def Bucket.addsCarry (k : Bucket) : Bool := k.own && k.carries && k.carryIn != 0

/-- A range read by the sequencer: whether data was uncorrectable. -/
def bucketRead (s : State) (k : Bucket) (a n : Nat) : Bool × State := engRead s k.ctx a n

/-- SUM[c] formed: whether an uncorrectable read was met, and the state. -/
def sumChunk (s : State) (k : Bucket) (c : Nat) : Bool × State :=
  let off := 65536 * c
  let n := k.len c
  let r0 : Bool × State :=
    if k.own then
      let r := bucketRead s k (k.data + off) n
      (r.1, if k.sum = k.data then r.2 else engWrite r.2 k.ctx (k.sum + off) (seenBytes r.2 (k.data + off) n) true)
    else (false, engWrite s k.ctx (k.sum + off) (List.replicate n 0) true)
  let r1 : Bool × State :=
    if k.addsCarry then
      let r := bucketRead r0.2 k (k.carryA + off) n
      (r0.1 || r.1, accumBytesR r.2 (k.sum + off) (seenBytes r.2 (k.carryA + off) n))
    else r0
  sides.foldl (fun (r : Bool × State) side =>
    if (k.kid side).inc then
      let s := settleReds r.2 (k.slotOf side c) 65536
      (r.1, accumBytesR s (k.sum + off) (k.slotBytes s side c))
    else r) r1

/-- FP32 values converted to B16 blocks in an XMIT chunk under the tracker (R45, R314): the blocks as read back, saturated conversions, the
largest just-in-time exponent. -/
def xmitBlocks (k : Bucket) : State → Nat → Nat → List (List W32) → State × Nat × Nat × List W32
  | s, _, _, [] => (s, 0, 0, [])
  | s, m, e, xs :: rest =>
    let o := convBlock s .b16 (some k.trackerI) xs
    let s := engWrite (engWrite o.2.1 k.ctx m (blockBytesOf .b16 o.1.ms) true) k.ctx e [BitVec.ofNat 8 o.1.e] true
    let t := xmitBlocks k s (m + 64) (e + 1) rest
    (t.1, t.2.1 + b2n (o.1.sat != 0), max (o.1.jit.getD 0) t.2.2.1, o.1.ms.map (blkFp32 .b16 o.1.e) ++ t.2.2.2)

/-- 32-bit words of bytes. -/
def wordsOf : List Byte → List W32
  | b0 :: b1 :: b2 :: b3 :: bs => BitVec.ofNat 32 (bytesNat [b0, b1, b2, b3]) :: wordsOf bs
  | _ => []

/-- A chunk of values put into XMIT: the state, the bucket with OVF and OBS, the exact values. -/
def xmitChunk (s : State) (k : Bucket) (c : Nat) (xs : List W32) : State × Bucket × List W32 :=
  let t := xmitBlocks k s (k.xmit + 33280 * c) (k.xmit + 33280 * c + 32768) (chunksOf 32 xs.length xs)
  (bumpC t.1 .rdx 0 0x058 t.2.1 none, { k with ovf := k.ovf || t.2.1 != 0, obs := max k.obs t.2.2.1 }, t.2.2.2)

/-! ### Pulls (R310) -/

/-- The next pulls of a child: chunks its records say are final, into slots whose chunk has been added. -/
def pullSide (b : Nat) (right : Bool) : Nat → State → Bucket → State × Bucket
  | 0, s, k => (s, k)
  | fuel + 1, s, k =>
    let d := k.kid right
    if d.inc && d.asked < min d.chunks k.chunks && d.asked < k.summed + k.slots then
      let c := d.asked
      let rs := k.wireRanges (k.pullsWire right) k.sum c
      let base := (rs.headD (0, 0)).1
      let ps := rs.flatMap (fun r => pieces r.1 r.2)
      let r := bucketSend b s (k.modKid right (fun d => { d with asked := c + 1 }))
        (ps.map (fun p => (.pull right c (p.1 - base) p.2, bucketTxn s k d.imp d.peer 1 p.1 p.2 false [])))
      pullSide b right fuel r.1 r.2
    else (s, k)

/-- The pulls of both children. -/
def pullAll (b : Nat) (s : State) (k : Bucket) : State × Bucket :=
  let r := pullSide b false 16 s k
  pullSide b true 16 r.1 r.2

/-! ### The down phase (R312) -/

/-- A chunk that is final in RESULT or XMIT written to a child, with its down record. -/
def forwardSide (b c : Nat) (fin right : Bool) (s : State) (k : Bucket) : State × Bucket :=
  let d := k.kid right
  if d.present then
    let rs := k.wireRanges k.wire k.resultA c
    let ps := rs.flatMap (fun r => pieces r.1 r.2)
    let s := settleSpans s rs
    let r := bucketSend b s k (ps.map (fun p => (.write, bucketTxn s k d.imp d.peer 2 p.1 p.2 false (seenBytes s p.1 p.2))))
    let s := bumpC r.1 .rdx 0 0x070 (rs.foldl (fun t x => t + x.2) 0) none
    sendDown s b r.2 right (c + 1) (if fin then k.delivered else 0) (k.downFlags right false fin)
  else (s, k)

/-- A chunk forwarded to both children. -/
def forwardChunk (b c : Nat) (fin : Bool) (s : State) (k : Bucket) : State × Bucket :=
  let r := forwardSide b c fin false s k
  forwardSide b c fin true r.1 r.2

/-- The root's result chunk (R312): the sum, divided where DIVIDE is set. A root that includes nothing forms no sum, so its result is free. -/
def rootValues (s : State) (k : Bucket) (c : Nat) : List W32 × State :=
  if k.count = 0 then
    let r := drawBytes (k.len c) s
    (wordsOf r.1, r.2)
  else
    let s := settleReds s (k.sum + 65536 * c) (k.len c)
    let xs := wordsOf (seenBytes s (k.sum + 65536 * c) (k.len c))
    (if k.divide then xs.map (fun x => (fdiv x (natToFp32 k.count)).v) else xs, s)

/-- Result chunk `c` formed at the root. -/
def rootChunk (s : State) (k : Bucket) (c : Nat) : State × Bucket :=
  let v := rootValues s k c
  let put : State → List W32 → State := fun s xs =>
    engWrite s k.ctx (k.resultA + 65536 * c) (xs.flatMap (fun x => natBytes 4 x.toNat)) true
  if k.wire then
    let r := xmitChunk v.2 k c v.1
    (put r.1 r.2.2, r.2.1)
  else (put v.2 v.1, k)

/-- A received XMIT chunk converted into RESULT. -/
def unwireChunk (s : State) (k : Bucket) (c : Nat) : State :=
  if k.wire then
    engWrite s k.ctx (k.resultA + 65536 * c)
      (wireBytes s (k.xmit + 33280 * c) (k.xmit + 33280 * c + 32768) (k.len c / 128)) true
  else s

/-! ### Pass 2 (R315) -/

/-- A member joins pass 2: its decisions stay, its tracker rises by 2 where it holds WIRE_E, SUM is formed again in FP32, and OVF, which
speaks of a pass (R314), starts anew. -/
def joinPass2 (s : State) (k : Bucket) : State × Bucket :=
  let s := bump0 s .rdx 0 0x050
  let t := SMap.getD s.trackers k.trackerI Tracker.off
  let s := if k.fmt1 && !k.canon && t.e = k.wireE then
      { s with trackers := SMap.setD s.trackers k.trackerI Tracker.off { t with e := min (t.e + 2) 254 } }
    else s
  let again : BKid → BKid := fun d => { d with chunks := 0, asked := 0, landed := 0, ovf := false }
  (s, { k with pass2 := true, wire := false, ovf := false, summed := 0, result := 0, kids := (again k.kids.1, again k.kids.2),
               parts := k.parts.filter (fun p => p.2 == .write), got := [] })

/-- REDO sent to both children. -/
def sendRedo (b : Nat) (s : State) (k : Bucket) : State × Bucket :=
  let r := sendDown s b k false 0 0 (k.downFlags false true false)
  sendDown r.1 b r.2 true 0 0 (k.downFlags true true false)

/-- Whether the root must start pass 2: OVF, its own saturation, or modes that met while a member may have converted (R315). -/
def Bucket.mustRedo (k : Bucket) : Bool := k.fmt1 && !k.pass2 && k.idx = 0 && (k.ovfAll || k.mixed)

/-! ### Progress -/

/-- The ranges that the next chunk's work writes. -/
def Bucket.writesNext (k : Bucket) (c : Nat) : List (Nat × Nat) :=
  (k.sum + 65536 * c, k.len c) ::
    ((if k.wire then [(k.xmit + 33280 * c, 33280)] else []) ++ (if k.idx = 0 then [(k.resultA + 65536 * c, k.len c)] else []))

/-- Whether chunk `c` can be formed: every included child's chunk has landed and no write would meet a PENDING block. -/
def Bucket.canSum (k : Bucket) (s : State) (c : Nat) : Bool :=
  decide (c < k.chunks) && (decide (0 < k.count) || k.idx == 0)
  && sides.all (fun r => !(k.kid r).inc || decide (c < (k.kid r).landed))
  && (k.writesNext c).all (fun r => !rangeHeld s r.1 r.2)

/-- After the last chunk CARRY_COUNT becomes 0 where CARRY was added (R313). -/
def endUp (s : State) (k : Bucket) : State × Bucket :=
  if k.summed = k.chunks && k.addsCarry && k.carry = k.carryIn && !k.pass2 then
    (seqWrite s k.ctx (k.hdr + 0x66) (natBytes 2 0), { k with carry := 0 })
  else (s, k)

/-- The chunks that can be formed are formed in order: SUM, then XMIT and the ready record, or at the root the result and the down phase. -/
def advanceUp (b : Nat) : Nat → State → Bucket → Bool × State × Bucket
  | 0, s, k => (false, s, k)
  | fuel + 1, s, k =>
    let c := k.summed
    if k.mustRedo then
      let r := sendRedo b s k
      let j := joinPass2 r.1 r.2
      advanceUp b fuel j.1 j.2
    else if !k.canSum s c then (false, s, k)
    else
      let r := if k.count = 0 then (false, s) else sumChunk s k c
      if r.1 then (true, r.2, k)
      else if k.idx = 0 then
        let t := rootChunk r.2 k c
        let k := { t.2 with summed := c + 1 }
        if k.mustRedo then advanceUp b fuel t.1 k
        else
          let f := forwardChunk b c (c + 1 == k.chunks) t.1 { k with result := c + 1 }
          let e := endUp f.1 f.2
          advanceUp b fuel e.1 e.2
      else
        let t : State × Bucket :=
          if k.wire then
            let x := xmitChunk r.2 k c (wordsOf (seenBytes r.2 (k.sum + 65536 * c) (k.len c)))
            (x.1, x.2.1)
          else (r.2, k)
        let k := { t.2 with summed := c + 1 }
        let f := sendReady t.1 b k (c + 1) k.count (k.readyFlags false false)
        let e := endUp f.1 f.2
        advanceUp b fuel e.1 e.2

/-- A bucket that RUNs makes all the progress it can. -/
def pump (s : State) (b : Nat) (k : Bucket) : State :=
  let r := advanceUp b (2 * k.chunks + 3) s k
  if r.1 then failBucket (setBucket r.2.1 b r.2.2) b 3 true
  else
    let p := pullAll b r.2.1 r.2.2
    setBucket p.1 b p.2

/-- Every bucket that RUNs makes progress, after blocks were taken (15 R348). -/
def pumpBuckets (s : State) : State :=
  s.buckets.foldl (fun s e => match bucketAt s e.1 with
    | some k => if k.st = 2 then pump s e.1 k else s
    | none => s) s

/-! ### Arming (R303-R306) -/

/-- Whether GE holds now on a context's object (R304), by the translation of cluster `k`. -/
def startHolds (s : State) (k ctx vs value : Nat) : Bool :=
  let e := xlatSeen s k ctx vs
  match SMap.get? s.sync.objs (xObj e) with
  | some o => xValid e && condHolds 0 o.cnt (BitVec.ofNat 32 value)
  | none => false

/-- The areas of a bucket with the permission each needs (Table 13.2); SLOT only of a member with children, XMIT only with FMT = 1, CARRY
only under POLICY CARRY. -/
def Bucket.areas (k : Bucket) : List (Nat × Nat × Nat × Bool) :=
  [(0, k.data, k.size, false), (1, k.sum, k.size, true), (2, k.resultA, k.size, true), (3, k.ctl, 256, true)]
  ++ (if k.wire then [(4, k.xmit, k.xmitBytes, true)] else [])
  ++ (if k.carries then [(5, k.carryA, k.size, true)] else [])
  ++ (if k.kids.1.present then [(6, k.slotA, 2 * k.slots * 65536, true)] else [])

/-- Whether two areas may overlap as they do (Table 13.2, R304). -/
def Bucket.overlapOk (k : Bucket) (s : State) (x y : Nat × Nat × Nat × Bool) : Bool :=
  decide (x.2.1 + x.2.2.1 ≤ y.2.1) || decide (y.2.1 + y.2.2.1 ≤ x.2.1)
  || (x.2.1 == y.2.1 && !k.wire && startHolds s k.cluster k.ctx k.startVs k.startV
      && ((x.1 == 0 && y.1 == 1) || (x.1 == 0 && y.1 == 2 && !k.carries && k.sum != k.resultA)))

/-- Whether one LOCAL region of a context grants READ and WRITE, each where asked, over a range. -/
def ownPerm (s : State) (ctx a n : Nat) (read write : Bool) : Bool :=
  s.regions.any (fun e => e.2.valid && !e.2.kind && e.2.owner == ctx && (!read || e.2.read) && (!write || e.2.write) && e.2.covers a n)
  && oneSpace s a n

/-- Whether one LOCAL region of a context grants READ, and WRITE where asked, over a range. -/
def ownRange (s : State) (ctx a n : Nat) (write : Bool) : Bool := ownPerm s ctx a n true write

/-- Every area is aligned, inside the context's regions, and apart from the others. -/
def Bucket.areasOk (k : Bucket) (s : State) : Bool :=
  k.areas.all (fun x => x.2.1 % 128 == 0 && decide (x.2.1 < 2 ^ 48) && ownRange s k.ctx x.2.1 x.2.2.1 x.2.2.2)
  && k.areas.all (fun x => k.areas.all (fun y => decide (y.1 ≤ x.1) || k.overlapOk s x y))

/-- R305: an IMPORT entry of the header. -/
def Bucket.importOk (k : Bucket) (s : State) (imp peer : Nat) : Bool :=
  let r := regionAt s imp
  let rd := if k.wire then [(k.xmit, k.xmitBytes)] else [(k.sum, k.size)]
  let wr := if k.wire then [(k.xmit, k.xmitBytes)] else [(k.resultA, k.size)]
  r.valid && r.kind && r.owner == k.ctx && r.peer == BitVec.ofNat 12 peer && r.read && r.write
  && (rd ++ wr ++ [(k.ctl, 256)]).all (fun x => r.covers x.1 x.2)

/-- Every present parent's and child's entry is as R305 requires. -/
def Bucket.importsOk (k : Bucket) (s : State) : Bool :=
  (k.idx == 0 || k.importOk s (k.imp 0) k.parent)
  && sides.all (fun r => !(k.kid r).present || k.importOk s (k.kid r).imp (k.kid r).peer)

/-- The field checks of BAD_HEADER besides the tree. -/
def Bucket.fieldsOk (k : Bucket) : Bool :=
  k.fld 0 4 < 2 ^ 19 && k.tree.ok && k.size % 128 == 0 && decide (128 ≤ k.size) && decide (k.size ≤ 67108864)
  && decide (1 ≤ k.fld 0x1C 2) && decide (2 ≤ k.slots) && decide (k.slots ≤ 16) && k.fld 0x1F 1 == 0 && k.fld 0x7A 2 == 0
  && decide (k.fld 0x66 2 < 8192) && decide (k.fld 0x60 2 < 4096) && decide (k.fld 0x62 2 < 4096) && decide (k.fld 0x64 2 < 4096)

/-- Whether a sync ID is mapped with a right (10 R226). -/
def vsOk (s : State) (k ctx vs : Nat) (right : Nat → Bool) : Bool := xValid (xlatSeen s k ctx vs) && right (xlatSeen s k ctx vs)

/-- A child of the tree at arm. -/
def mkKid (s : State) (k : Bucket) (i imp : Nat) : BKid :=
  if i < k.tree.n then { BKid.none with present := true, peer := k.tree.peer s k.ctx i, imp := imp } else BKid.none

/-- The bucket that a header describes. -/
def mkBucket (s : State) (ctx hdr : Nat) : Bucket :=
  let k : Bucket :=
    { ctx := ctx, hdr := hdr, bytes := seenBytes s hdr 128, idx := 0, wire := false, canon := isCanonical s ctx, wireE := 0, st := 1,
      cause := 0, mark := false, met := false, own := false, carryIn := 0, carry := 0, parent := 0, kids := (BKid.none, BKid.none),
      count := 0, summed := 0, result := 0, ovf := false, obs := 0, downSeen := false, inc := false, fin := false, nonc := false,
      missing := false, dcount := 0, dobs := 0, pass2 := false, settled := false, excl := false, comet := false, parts := [],
      got := [] }
  let k := { k with wire := k.fmt1 && !k.canon }
  let k := { k with wireE := if k.wire then (SMap.getD s.trackers k.trackerI Tracker.off).e else 0,
                    carryIn := if k.carries then k.fld 0x66 2 % 8192 else 0, carry := k.fld 0x66 2 % 8192 }
  if k.tree.ok then
    match k.tree.index s ctx with
    | none => k
    | some i =>
      { k with idx := i, parent := if i = 0 then 0 else k.tree.peer s ctx ((i - 1) / 2),
               kids := (mkKid s k (2 * i + 1) (k.imp 1), mkKid s k (2 * i + 2) (k.imp 2)) }
  else k

/-- The first check of an arm that fails, in the order of Table 13.3. -/
def armCheck (s : State) (k : Bucket) : Option Nat :=
  let mine := s.buckets.filter (fun e => e.2.ctx == k.ctx)
  let t := SMap.getD s.trackers k.trackerI Tracker.off
  if s.buckets.length ≥ 256 || mine.length ≥ regGetD s (regAddr .rdx 0 8) 0x100 % 512 then some 0x10
  else if mine.any (fun e => e.2.tag == k.tag) then some 0x11
  else if !k.fieldsOk || !k.tree.mapped s k.ctx || (k.tree.index s k.ctx).isNone then some 0x12
  else if !k.areasOk s then some 0x13
  else if !k.importsOk s then some 0x14
  else if k.wire && !(decide (k.trackerI < 4096) && t.enabled && t.owner == k.ctx && t.fmt == 2) then some 0x15
  else if !vsOk s k.cluster k.ctx k.startVs xWait || !vsOk s k.cluster k.ctx k.doneVs xSig then some 0x16
  else none

/-- A bucket armed or refused (R306): STATUS and HCHK are written either way. -/
def armBucket (s : State) (ctx hdr : Nat) : State :=
  let s := (engRead s ctx hdr 128).2
  let k := mkBucket s ctx hdr
  let hchk : State → State := fun s => seqWrite s ctx (hdr + 0x7C) (natBytes 4 k.hchk)
  match armCheck s k with
  | some code => bump0 (seqWrite (hchk s) ctx (hdr + 0x68) (natBytes 4 code)) .rdx 0 0x028
  | none =>
    let b := SMap.freeKey s.buckets 256 0
    let s := seqWatch s k.cluster ctx k.startVs k.startV (.bucket b)
    bump0 (setBucket (bucketStatus (hchk s) k) b k) .rdx 0 0x020

/-- RDX_ARM (R303, R306): a context's store of a header address; a misaligned header, or one outside the context's regions, counts as a
refused store. -/
def execRdxArm (w : RegWr) (s : State) : Out :=
  ctlReq w .rdx (fun off => off == 0) (fun _ q _ _ => q.thread) (fun q _ _ s =>
    let hdr := q.value % 2 ^ 48
    if ownRange s q.ctx hdr 128 true && hdr % 128 == 0 then armBucket s q.ctx hdr else refuse q true s) s

/-! ### Records received (R311) -/

/-- A control record as it lies in memory. -/
structure CtlRec where
  stepNo : Nat
  chunks : Nat
  count : Nat
  flags : Nat
  hchk : Nat
  deriving DecidableEq, Repr

/-- The record in the bucket's control area from the left child, the right child or the parent. -/
def Bucket.record (k : Bucket) (s : State) (who : Nat) : CtlRec :=
  let a := k.ctl + k.recOffset who
  { stepNo := memNat s a 4, chunks := memNat s (a + 4) 2, count := memNat s (a + 6) 2 % 8192, flags := memNat s (a + 8) 4,
    hchk := memNat s (a + 0xC) 4 }

/-- Whether a record's HCHK or WIRE_E differs (R311). WIRE_E is compared where both sides use the wire format. -/
def Bucket.differs (k : Bucket) (r : CtlRec) (plain : Bool) : Bool :=
  r.hchk != k.hchk || (k.fmt1 && !k.canon && !plain && field r.flags 8 8 != k.wireE)

/-- What taking a record gives: nothing, a failure with its cause and whether this member logs it, or the bucket with the record used. -/
inductive Took where
  | nothing
  | fails (cause : Option Nat)
  | used (k : Bucket)
  deriving DecidableEq, Repr

/-- A child's ready record used (R308, R311, R315): a FAILED record brings a cause that the record does not say. Records that first arrive after the
decision are ignored. -/
def takeReady (s : State) (k : Bucket) (right : Bool) : Took :=
  let r := k.record s (b2n right)
  let d := k.kid right
  if !d.present || r.stepNo != k.stepNo || (k.st = 2 && !d.seen) || r.hchk = 0 && r.flags = 0 && r.chunks = 0 then .nothing
  else if k.differs r (r.flags.testBit 2) then .fails (some 4)
  else if r.flags.testBit 4 then .fails none
  else if r.flags.testBit 5 != k.pass2 then .nothing
  else
    let d' : BKid := { d with
      seen := true, count := if r.flags.testBit 0 then 0 else r.count, chunks := max d.chunks (min r.chunks k.chunks), obs := field r.flags 16 8,
      ovf := d.ovf || r.flags.testBit 1, canon := r.flags.testBit 2, mixed := d.mixed || r.flags.testBit 3 }
    if d' = d then .nothing else .used (k.modKid right (fun _ => d'))

/-- The outcome of a failure that a record brings: a cause it does not carry is free among the causes of Table 13.3. -/
def failTook (s : State) (b : Nat) (cause : Option Nat) : State :=
  match cause with
  | some c => failBucket s b c true
  | none =>
    let r := drawNat s
    failBucket r.2 b (r.1 % 5 + 1) false

/-- READY_RECORD (R311): a child's record is checked and used. -/
def execReadyRecord (b : Fin 256) (side : Side) (s : State) : Out :=
  match bucketAt s b.val with
  | none => .next s
  | some k =>
    if k.st = 1 || k.st = 2 then
      match takeReady s k (side == .right) with
      | .nothing => .next s
      | .fails c => .next (failTook s b.val c)
      | .used k => .next (if k.st = 2 then pump s b.val k else setBucket s b.val k)
    else .next s

/-! ### Decisions (R308) -/

/-- BUCKET_START_MET (R308): the start condition has held. -/
def execBucketStartMet (b : Fin 256) (s : State) : Out :=
  match bucketAt s b.val with
  | none => .next s
  | some k => if k.mark && !k.met then .next (setBucket s b.val { k with met := true }) else .next s

/-- T(i). -/
def Bucket.decideAt (k : Bucket) : Nat := k.deadline - treeDepth k.idx * k.slack

/-- Whether every present input qualifies. -/
def Bucket.allIn (k : Bucket) : Bool :=
  (k.met || k.mark) && sides.all (fun r => !(k.kid r).present || (k.kid r).seen)

/-- The decision taken. An included child whose COUNT is 0 is treated as not included (R309). -/
def decideBucket (s : State) (b : Nat) (k : Bucket) (late : Bool) : State :=
  let own := k.met || k.mark
  let inc : BKid → BKid := fun d => { d with inc := d.present && d.seen && d.count != 0 }
  let k := { k with own := own, met := own, settled := own, st := 2, kids := (inc k.kids.1, inc k.kids.2) }
  let count : Nat := (if own then 1 + (if k.addsCarry then k.carryIn else 0) else 0)
    + sides.foldl (fun t r => if (k.kid r).inc then t + (k.kid r).count else t) 0
  let k := { k with count := count }
  let s := bucketStatus (if late then bump0 s .rdx 0 0x080 else s) k
  let r := if count = 0 then sendReady s b k 0 0 (k.readyFlags true false) else (s, k)
  pump r.1 b r.2

/-- BUCKET_DECISION (R308): all present inputs qualify, or T(i) has come. Records that lie in the control area by then count. -/
def execBucketDecision (b : Fin 256) (s : State) : Out :=
  match bucketAt s b.val with
  | none => .next s
  | some k =>
    if k.st = 1 && !clStopped (clusterAt s k.cluster).st then
      let late := k.deadline != 0 && decide (k.decideAt ≤ s.ftime)
      match takeReady s k false with
      | .fails c => .next (failTook s b.val c)
      | l =>
        let k := match l with | .used k => k | _ => k
        match takeReady s k true with
        | .fails c => .next (failTook s b.val c)
        | r =>
          let k := match r with | .used k => k | _ => k
          if k.allIn then .next (decideBucket s b.val k false)
          else if late then .next (decideBucket s b.val k true)
          else .next s
    else .next s

/-! ### Landing pulls (R309, R310) -/

/-- Whether chunk `c` of a side has been asked for and every piece has come. -/
def Bucket.chunkHere (k : Bucket) (right : Bool) (c : Nat) : Bool :=
  decide (c < (k.kid right).asked)
  && k.parts.all (fun p => match p.2 with | .pull r c' _ _ => !(r == right && c' == c) | .write => true)

/-- CHUNK_PULL_LAND (R309): a child's next chunk lands in its slot; adds and pulls go on. -/
def execChunkPullLand (b : Fin 256) (side : Side) (s : State) : Out :=
  match bucketAt s b.val with
  | none => .next s
  | some k =>
    let right := side == .right
    let c := (k.kid right).landed
    let slot := k.slotOf right c
    if k.st = 2 && k.chunkHere right c && !rangeHeld s slot 65536 then
      let here := k.got.filter (fun g => g.1 == right && g.2.1 == c)
      let s := here.foldl (fun s g => engWrite s k.ctx (slot + g.2.2.1) g.2.2.2 true) s
      let k := { k with got := k.got.filter (fun g => !(g.1 == right && g.2.1 == c)) }
      .next (pump s b.val (k.modKid right (fun d => { d with landed := c + 1 })))
    else .next s

/-! ### Down records (R312) -/

/-- Chunks that came from the parent are converted and forwarded in order. -/
def takeChunks (b : Nat) (fin : Bool) (upto : Nat) : Nat → State → Bucket → State × Bucket
  | 0, s, k => (s, k)
  | fuel + 1, s, k =>
    if k.result < upto then
      let c := k.result
      let s := unwireChunk s k c
      let r := forwardChunk b c (fin && c + 1 == k.chunks) s { k with result := c + 1 }
      takeChunks b fin upto fuel r.1 r.2
    else (s, k)

/-- DOWN_RECORD (R311, R312, R315): the parent's record is checked; REDO starts pass 2; new chunks go on to the children. -/
def execDownRecord (b : Fin 256) (s : State) : Out :=
  match bucketAt s b.val with
  | none => .next s
  | some k =>
    let r := k.record s 2
    if k.idx = 0 || r.stepNo != k.stepNo || !(k.st = 1 || k.st = 2) || (r.flags = 0 && r.hchk = 0 && r.chunks = 0) then .next s
    else if k.differs r (r.flags.testBit 3) then .next (failBucket s b.val 4 true)
    else if r.flags.testBit 5 then .next (failTook s b.val none)
    else if k.st = 1 then .next s
    else if k.pass2 && !r.flags.testBit 1 then .next s
    else
      let first := !k.downSeen
      let k := { k with downSeen := true, inc := r.flags.testBit 0, excl := k.excl || (first && !r.flags.testBit 0 && k.count != 0),
                        nonc := r.flags.testBit 3, missing := k.missing || r.flags.testBit 4 }
      let redo := r.flags.testBit 1 && !k.pass2
      let j : State × Bucket :=
        if redo then
          let t := joinPass2 s k
          sendRedo b.val t.1 t.2
        else (s, k)
      let k := { j.2 with dobs := field r.flags 16 8,
                          fin := j.2.fin || r.flags.testBit 2,
                          dcount := if r.flags.testBit 2 then r.count else j.2.dcount }
      let upto := min r.chunks k.chunks
      if (List.range upto).any (fun c => decide (k.result ≤ c) && k.wire && rangeHeld s (k.resultA + 65536 * c) (k.len c)) then .next s
      else
        let t := takeChunks b.val k.fin upto upto j.1 k
        .next (if redo then pump t.1 b.val t.2 else setBucket t.1 b.val t.2)

/-! ### Delivery (R312) -/

/-- RESULT_INFO (Table 13.5). -/
def Bucket.info (k : Bucket) : Nat :=
  let miss := if k.idx = 0 then decide (k.count < k.tree.n) else k.missing
  k.delivered % 8192 + 2 ^ 14 * b2n miss + 2 ^ 15 * b2n k.noncanonical + 2 ^ 16 * b2n k.pass2
    + 2 ^ 17 * b2n (k.idx != 0 && !k.inc) + 2 ^ 18 * b2n k.addsCarry + 2 ^ 19 * b2n k.comet + 2 ^ 20 * b2n (!k.settled)
    + 2 ^ 24 * k.wireField

/-- The tracker of a wire-format member takes the delivered OBS and advances (R316). -/
def deliverTracker (s : State) (k : Bucket) : State :=
  if k.fmt1 && !k.canon then
    let t := SMap.getD s.trackers k.trackerI Tracker.off
    let obs := if k.idx = 0 then k.obsAll else k.dobs
    { s with trackers := SMap.setD s.trackers k.trackerI Tracker.off (trackerAdvance { t with obs := obs, obsValid := true }) }
  else s

/-- BUCKET_DELIVER (R312): RESULT is complete and the own adds are acknowledged. -/
def execBucketDeliver (b : Fin 256) (s : State) : Out :=
  match bucketAt s b.val with
  | none => .next s
  | some k =>
    if k.st = 2 && k.result = k.chunks && (k.idx = 0 || k.fin) && !k.excl && (k.summed = k.chunks || k.count = 0) then
      let miss := if k.idx = 0 then decide (k.count < k.tree.n) else k.missing
      let s := deliverTracker s k
      let s := seqWrite s k.ctx (k.hdr + 0x6C) (natBytes 4 k.info)
      let s := seqWrite s k.ctx (k.hdr + 0x70) (natBytes 8 s.ftime)
      let k := { k with st := 3 }
      let s := bumpC (bump0 (bucketStatus s k) .rdx 0 0x030) .rdx 0 0x038 (b2n miss) none
      let s := seqSignal s k.cluster k.ctx k.doneVs
      .next (if k.settled then releaseBucket s b.val else setBucket s b.val k)
    else .next s

/-! ### Comets (R313) -/

/-- A comet of `n` contributors in an area: discarded, or added into CARRY chunk by chunk; a CARRY that counts nobody is written over. -/
def cometTake (s : State) (k : Bucket) (src n : Nat) : State × Bucket :=
  if !k.carries || k.carry + n > 8191 then (bump0 s .rdx 0 0x040, { k with comet := true })
  else
    let s := settleReds s src k.size
    let bs := seenBytes s src k.size
    let s := if k.carry = 0 then engWrite s k.ctx k.carryA bs true else accumBytesR s k.carryA bs
    let k := { k with carry := k.carry + n, comet := true }
    (bump0 (seqWrite s k.ctx (k.hdr + 0x66) (natBytes 2 k.carry)) .rdx 0 0x048, k)

/-- The late own gradient handled; a delivered bucket's RESULT_INFO is brought up to date and its slot released (R307). -/
def settleOwn (s : State) (b : Nat) (k : Bucket) : State :=
  let r := cometTake s k k.data 1
  let k : Bucket := { r.2 with settled := true }
  if k.st = 3 then releaseBucket (seqWrite r.1 k.ctx (k.hdr + 0x6C) (natBytes 4 k.info)) b else setBucket r.1 b k

/-- An excluded subtree handled: its SUM is complete for the decisions made, or is no longer needed under DROP. -/
def settleExcl (s : State) (b : Nat) (k : Bucket) : State :=
  let r := cometTake s k k.sum k.count
  setBucket r.1 b { r.2 with excl := false, summed := k.chunks }

/-- COMET (R313): a late own gradient or an excluded subtree is dropped or carried. -/
def execComet (b : Fin 256) (s : State) : Out :=
  match bucketAt s b.val with
  | none => .next s
  | some k =>
    let held := k.carries && rangeHeld s k.carryA k.size
    if held then .next s
    else if (k.st = 2 || k.st = 3) && !k.own && (k.met || k.mark) && !k.settled then
      let r := engRead s k.ctx k.data k.size
      if r.1 && k.carries then .next (failBucket r.2 b.val 3 true) else .next (settleOwn (if k.carries then r.2 else s) b.val k)
    else if k.st = 2 && k.excl && (!k.carries || k.summed = k.chunks) then .next (settleExcl s b.val k)
    else .next s

/-! ### NO_RESULT and registers (R317, R319) -/

/-- The limit by which the FINAL down record must have come (R317). -/
def Bucket.limit (k : Bucket) : Nat := k.deadline + 2 * (treeDepth k.idx + 1) * k.slack + 1000000

/-- BUCKET_NO_RESULT (R317): no FINAL down record by the limit; the root's own result counts as its record. -/
def execBucketNoResult (b : Fin 256) (s : State) : Out :=
  match bucketAt s b.val with
  | none => .next s
  | some k =>
    if (k.st = 1 || k.st = 2) && k.deadline != 0 && decide (k.limit ≤ s.ftime)
        && (if k.idx = 0 then decide (k.result < k.chunks) else !k.fin) then
      .next (failBucket s b.val 5 true)
    else .next s

/-- The end of a transaction of a bucket: data for a pull, an acknowledgement of a write, or a failure with its cause. -/
def bucketPart (s : State) (b id : Nat) (o : Except Nat (List Byte)) : State :=
  match bucketAt s b with
  | none => s
  | some k =>
    match SMap.get? k.parts id, o with
    | none, _ => s
    | some _, .error cause => failBucket s b cause true
    | some .write, .ok _ => setBucket s b { k with parts := SMap.del k.parts id }
    | some (.pull right c off n), .ok bs =>
      bumpC (setBucket s b { k with parts := SMap.del k.parts id, got := k.got ++ [(right, c, off, bs)] }) .rdx 0 0x068 n none

/-- RDX_CTRL.CLR_COUNTS (R319). -/
def execRdxClrCounts (w : RegWr) (s : State) : Out :=
  ctlWrite w .rdx (fun off => off == 0x018) fwOnly (fun u _ v s => clearIf v 0 .rdx (offs 0x020 0x080) u s) s

end Sys2Proof.Machine
end

