-- ==== Sys2Proof/Machine/Update.lean ====
section
/-! DEFINITION. Parameter update (14): the recurrence, the master and its remainder, XSUM, runs, pass 1, the norm tree, pass 2, digests. -/

namespace Sys2Proof.Machine

/-! ### The recurrence (R320) -/

/-- `sign` of R320: `+0.0` of a zero, NaN of a NaN. -/
def fsign (x : W32) : W32 :=
  match fval x with
  | .nan => fNaN
  | .inf n => if n then 0xBF800000 else fOne
  | .fin n m _ => if m = 0 then fZero else if n then 0xBF800000 else fOne

/-- The selector f. -/
def selF (sel : Nat) (g : W32) : W32 :=
  match sel with
  | 0 => g
  | 1 => (fmul g g).v
  | 2 => g &&& 0x7FFFFFFF
  | _ => fsign g

/-- An Update Group Table entry (Tables 14.1, 14.2). -/
structure Group14 where
  alpha1 : W32
  beta1 : W32
  alpha2 : W32
  beta2 : W32
  gamma1 : W32
  gamma2 : W32
  eps : W32
  lambda : W32
  eta : W32
  sel : Nat
  curve : Nat
  deriving DecidableEq, Repr

/-- Entry `q` of a table. -/
def groupEntry (table : List Byte) (q : Nat) : Group14 :=
  let e := (table.drop (64 * q)).take 64
  let w : Nat → W32 := fun o => BitVec.ofNat 32 (bytesNat ((e.drop o).take 4))
  { alpha1 := w 0, beta1 := w 4, alpha2 := w 8, beta2 := w 0xC, gamma1 := w 0x10, gamma2 := w 0x14, eps := w 0x18,
    lambda := w 0x1C, eta := w 0x20, sel := (w 0x24).toNat, curve := bytesNat ((e.drop 0x28).take 8) % 2 ^ 48 }

/-- VALID. -/
def Group14.valid (u : Group14) : Bool := u.sel.testBit 31
/-- CLIP. -/
def Group14.clips (u : Group14) : Bool := u.sel.testBit 6
/-- M1_EN. -/
def Group14.m1 (u : Group14) : Bool := u.sel.testBit 7
/-- M2_EN. -/
def Group14.m2 (u : Group14) : Bool := u.sel.testBit 8

/-- What the recurrence gives for one element: Δ, m1n, m2n. -/
structure Step14 where
  delta : W32
  m1n : W32
  m2n : W32
  deriving DecidableEq, Repr

/-- R320, rounding after every multiply and every add in the order written. -/
def element (u : Group14) (etaS lambdaS clip grad w m1 m2 : W32) : Step14 :=
  let g := (fmul grad clip).v
  let m1n := (fadd (fmul u.alpha1 m1).v (fmul u.beta1 (selF (field u.sel 0 2) g)).v).v
  let m2n := (fadd (fmul u.alpha2 m2).v (fmul u.beta2 (selF (field u.sel 2 2) g)).v).v
  let d := (fadd (fmul u.gamma1 m1n).v (fmul u.gamma2 m2n).v).v
  let d := if u.sel.testBit 4 then (fmul d (fdiv fOne (fadd (fsqrt m2n).v u.eps).v).v).v else d
  let d := if u.sel.testBit 5 then fsign d else d
  { delta := (fadd (fmul lambdaS w).v (fmul etaS d).v).v ^^^ 0x80000000, m1n := m1n, m2n := m2n }

/-! ### Schedule curves (R322) -/

/-- A knot's STEP. -/
def knotStep (s : State) (c i : Nat) : Nat := memNat s (c + 0x10 + 8 * i) 4
/-- A knot's VALUE. -/
def knotVal (s : State) (c i : Nat) : W32 := memW32 s (c + 0x14 + 8 * i)

/-- curve_value. -/
def curveValue (s : State) (c st : Nat) : W32 :=
  let n := memNat s (c + 4) 4
  if memNat s c 1 = 1 then
    let s0 := memNat s (c + 8) 4
    memW32 s (c + 0x10 + 4 * min (st - min st s0) (n - 1))
  else if st ≤ knotStep s c 0 then knotVal s c 0
  else if knotStep s c (n - 1) ≤ st then knotVal s c (n - 1)
  else
    let j := ((List.range n).filter (fun i => decide (knotStep s c i ≤ st))).length - 1
    let t := (fdiv (natToFp32 (st - knotStep s c j)) (natToFp32 (knotStep s c (j + 1) - knotStep s c j))).v
    (fadd (knotVal s c j) (fmul t (fsub (knotVal s c (j + 1)) (knotVal s c j)).v).v).v

/-- Whether a curve obeys R322: in eDRAM, in a region of the context with read permission, KIND and COUNT in range, steps rising. -/
def curveOk (s : State) (ctx c : Nat) : Bool :=
  let kind := memNat s c 1
  let n := memNat s (c + 4) 4
  let len := 16 + (if kind = 1 then 4 else 8) * n
  spaceOf s c == .edram && ownRange s ctx c 16 false && decide (kind ≤ 1) && decide (1 ≤ n)
  && decide (n ≤ if kind = 1 then 16777216 else 64) && ownRange s ctx c len false
  && (kind = 1 || (List.range (n - 1)).all (fun i => decide (knotStep s c i < knotStep s c (i + 1))))

/-- The RED lines of a curve evicted, as its read finds them (08 R180). -/
def settleCurve (s : State) (c : Nat) : State :=
  if c = 0 then s
  else
    let s := settleReds s c 16
    settleReds s c (16 + 8 * min (memNat s (c + 4) 4) 16777216)

/-- η and λ of a group for a step. -/
def schedule (s : State) (u : Group14) (st : Nat) : W32 × W32 :=
  if u.curve = 0 then (u.eta, u.lambda)
  else
    let v := curveValue s u.curve st
    ((fmul u.eta v).v, if u.sel.testBit 9 then (fmul u.lambda v).v else u.lambda)

/-! ### XSUM (R327) -/

/-- MANT. -/
def xMant (x : W64) : Nat := x.toNat % 2 ^ 48
/-- EXP. -/
def xExp (x : W64) : Nat := field x.toNat 48 15
/-- NF. -/
def xNf (x : W64) : Bool := x.toNat.testBit 63

/-- The XSUM of `m × 2^e`, rounded once to 48 bits, ties to even. -/
def xRound (nf : Bool) (m : Nat) (e : Int) : W64 :=
  if m = 0 then BitVec.ofNat 64 (2 ^ 63 * b2n nf)
  else
    let sh : Int := (m.log2 : Int) - 47
    let q := if sh ≤ 0 then m <<< (-sh).toNat else shiftRne m sh.toNat
    let r : Nat × Int := if q = 2 ^ 48 then (2 ^ 47, sh + 1) else (q, sh)
    BitVec.ofNat 64 (2 ^ 63 * b2n nf + 2 ^ 48 * (e + r.2 + 16431).toNat + r.1)

/-- An XSUM add: the exact sum rounded once, NF bits ORed. -/
def xAdd (x y : W64) : W64 :=
  let nf := xNf x || xNf y
  if xMant x = 0 then BitVec.ofNat 64 (y.toNat % 2 ^ 63 + 2 ^ 63 * b2n nf)
  else if xMant y = 0 then BitVec.ofNat 64 (x.toNat % 2 ^ 63 + 2 ^ 63 * b2n nf)
  else
    let e := min (xExp x) (xExp y)
    xRound nf (xMant x <<< (xExp x - e) + xMant y <<< (xExp y - e)) ((e : Int) - 16431)

/-- The exact square of a finite value. -/
def xSquare (g : W32) : W64 :=
  match fval g with
  | .fin _ m e => xRound false (m * m) (2 * e)
  | _ => BitVec.ofNat 64 (2 ^ 63)

/-- Sums of XSUMs in order. -/
def xSum (l : List W64) : W64 := l.foldl xAdd 0

/-- An XSUM with NF set whose value the spec does not state. -/
def xFree (s : State) : W64 × State :=
  let r := drawW64 s
  (BitVec.ofNat 64 (2 ^ 63 + r.1.toNat % 2 ^ 63 / 2 ^ 48 * 2 ^ 48 + 2 ^ 47 + r.1.toNat % 2 ^ 47), r.2)

/-- NORM (R328): the square root of S, correctly rounded. -/
def xNorm (x : W64) : W32 :=
  if xMant x = 0 then fZero
  else
    let e : Int := (xExp x : Int) - 16431
    let odd := e % 2 ≠ 0
    let m := if odd then 2 * xMant x else xMant x
    let e2 := if odd then e - 1 else e
    let r := isqrt (m <<< 80)
    (if r * r = m <<< 80 then roundFp32 false r ((e2 - 80) / 2) else roundSticky false r ((e2 - 80) / 2)).v

/-! ### The commit (R332) -/

/-- A master block: exponent, mantissas, remainders. -/
structure Master where
  e : Nat
  m : List Int
  r : List Nat
  deriving DecidableEq, Repr

/-- b16_val. -/
def b16Val (m : Int) (r E : Nat) : W32 := (roundInt (m * 256 + r) ((E : Int) - 149) false).v

/-- A finite FP32 value in units of 2^-149. -/
def unitsOf (x : W32) : Option Int :=
  match fval x with
  | .fin n m e => some (sgnInt n (m <<< (e + 149).toNat))
  | _ => none

/-- An integer divided by 2^d, rounded to nearest even. -/
def rneShift (x : Int) (d : Nat) : Int := sgnInt (decide (x < 0)) (shiftRne x.natAbs d)

/-- The loop of R332 for the block exponent, in units of 2^-149: the q of each element, or none where the exponent would rise beyond
254. A sum of 2^128 or more starts it at 255 (log entry 84). -/
def commitExp (xs : List Int) : Nat → Nat → Option (Nat × List Int)
  | 0, _ => none
  | fuel + 1, e =>
    let qs := xs.map (fun x => rneShift x e)
    if qs.all (fun q => decide (-(32767 * 256 : Int) ≤ q) && decide (q ≤ 32767 * 256 + 255)) then some (e, qs)
    else if e + 1 > 254 then none
    else commitExp xs fuel (e + 1)

/-- commit: none where the block is held. -/
def commit (ws deltas : List W32) : Option Master :=
  let us := (ws.zip deltas).map (fun p => (unitsOf p.1).bind (fun a => (unitsOf p.2).map (fun b => a + b)))
  if us.any (fun u => u.isNone) then none
  else
    let xs := us.map (fun u => u.getD 0)
    let top := xs.foldl (fun a x => max a x.natAbs) 0
    if top = 0 then some { e := 0, m := xs.map (fun _ => 0), r := xs.map (fun _ => 0) }
    else
      let e0 : Int := max ((top.log2 : Int) - 149 + 127) 0
      (commitExp xs 256 e0.toNat).map (fun p =>
        { e := p.1, m := p.2.map (fun q => q / 256), r := p.2.map (fun q => (q % 256).toNat) })

/-! ### Segments (R323, R324) -/

/-- A field of a segment list entry. -/
def USeg.fld (g : USeg) (off n : Nat) : Nat := bytesNat ((g.bytes.drop off).take n)
/-- ROWS. -/
def USeg.rows (g : USeg) : Nat := g.fld 0 4
/-- COLS. -/
def USeg.cols (g : USeg) : Nat := g.fld 4 4
/-- GROUP. -/
def USeg.group (g : USeg) : Nat := g.fld 8 2 % 1024
/-- FCOPY. -/
def USeg.fcopy (g : USeg) : Bool := (g.fld 8 2).testBit 10
/-- TCOPY. -/
def USeg.tcopy (g : USeg) : Bool := (g.fld 8 2).testBit 11
/-- DIGEST. -/
def USeg.digest (g : USeg) : Bool := (g.fld 8 2).testBit 12
/-- START_VSYNC and START_VALUE. -/
def USeg.start (g : USeg) : Nat × Nat := (g.fld 0xA 2, g.fld 0x10 4)
/-- DONE_VSYNC. -/
def USeg.doneVs (g : USeg) : Nat := g.fld 0xC 2
/-- Cb. -/
def USeg.cb (g : USeg) : Nat := (g.cols + 31) / 32
/-- Rb. -/
def USeg.rb (g : USeg) : Nat := (g.rows + 31) / 32
/-- Tiles along a row. -/
def USeg.tcols (g : USeg) : Nat := (g.cols + 127) / 128
/-- Tiles of the segment. -/
def USeg.tiles (g : USeg) : Nat := g.tcols * ((g.rows + 127) / 128)
/-- The planes and their bytes, in the order of the digests (R333), with whether the segment writes each. -/
def USeg.planes (g : USeg) : List (Nat × Nat × Bool) :=
  [(g.fld 0x20 8, 64 * g.cb * g.rows, true), (g.fld 0x20 8 + 64 * g.cb * g.rows, g.cb * g.rows, true),
   (g.fld 0x40 8, 32 * g.cb * g.rows, g.fcopy), (g.fld 0x40 8 + 32 * g.cb * g.rows, g.cb * g.rows, g.fcopy),
   (g.fld 0x48 8, 32 * g.rb * g.cols, g.tcopy), (g.fld 0x48 8 + 32 * g.rb * g.cols, g.rb * g.cols, g.tcopy)]
/-- Digests of a plane. -/
def planeDigests (n : Nat) : Nat := (n + 65535) / 65536
/-- Bytes of the digest area. -/
def USeg.digestBytes (g : USeg) : Nat := g.planes.foldl (fun t p => t + 32 * planeDigests p.2.1) 0

/-- Whether a segment's fields are in range and its areas in the context's regions with the permission their use needs: the copies and digests are
only written (Tables 14.3, 14.4). -/
def USeg.ok (g : USeg) (s : State) (ctx : Nat) (u : Group14) : Bool :=
  let mom := 65 * g.cb * g.rows
  decide (1 ≤ g.rows) && decide (g.rows ≤ 1048576) && decide (1 ≤ g.cols) && decide (g.cols ≤ 1048576)
  && [(g.fld 0x18 8, 4 * g.cols * g.rows, true, false, true), (g.fld 0x20 8, mom, true, true, true),
      (g.fld 0x28 8, 32 * g.cb * g.rows, true, true, true), (g.fld 0x30 8, mom, true, true, u.m1), (g.fld 0x38 8, mom, true, true, u.m2),
      (g.fld 0x40 8, 33 * g.cb * g.rows, false, true, g.fcopy), (g.fld 0x48 8, 33 * g.rb * g.cols, false, true, g.tcopy),
      (g.fld 0x50 8, g.digestBytes, false, true, g.digest)].all
      (fun (a : Nat × Nat × Bool × Bool × Bool) => !a.2.2.2.2 || (decide (a.1 < 2 ^ 48) && ownPerm s ctx a.1 a.2.1 a.2.2.1 a.2.2.2.1))
  && ownRange s ctx g.addr 128 true

/-! ### Run descriptors (Table 14.5) -/

/-- EARLY. -/
def URun.early (u : URun) : Bool := (u.fld 0 4).testBit 0
/-- STEP. -/
def URun.stepNo (u : URun) : Nat := u.fld 4 4
/-- MAXNORM. -/
def URun.maxnorm (u : URun) : W32 := BitVec.ofNat 32 (u.fld 0x14 4)
/-- TREE. -/
def URun.tree (u : URun) : Tree :=
  let t := u.fld 0x18 8
  { n := field t 0 13, rbase := field t 16 12, rstride := field t 32 12, rrot := field t 48 12 }
/-- CTL. -/
def URun.ctl (u : URun) : Nat := u.fld 0x20 8
/-- IMP_PARENT, IMP_LEFT, IMP_RIGHT. -/
def URun.imp (u : URun) (i : Nat) : Nat := u.fld (0x30 + 2 * i) 2 % 4096
/-- HCHK: the T fields in offset order. -/
def URun.hchk (u : URun) : Nat := crc32 (u.bytes.take 8 ++ (u.bytes.drop 0x14).take 20)
/-- The group of a segment. -/
def URun.groupOf (u : URun) (g : USeg) : Group14 := groupEntry u.table g.group
/-- η and λ of a segment. -/
def URun.schedOf (u : URun) (g : USeg) : W32 × W32 := ((u.sched.find? (fun e => e.1 == g.group)).map (·.2)).getD (0, 0)
/-- A segment of the run changed. -/
def URun.modSeg (u : URun) (j : Nat) (f : USeg → USeg) : URun := { u with segs := modAt u.segs j f }
/-- Whether the start pair of a segment has been met. -/
def URun.pairMet (u : URun) (g : USeg) : Bool := u.pairs.any (fun p => p.1 == g.start.1 && p.2.1 == g.start.2 && p.2.2)

/-- The cluster whose sequencer serves virtual sequencer `v` (R329). -/
def servesV (s : State) (v : Nat) : Nat :=
  ((List.range 16).map (fun i => (v + i) % 16)).find? (fun k => (clusterAt s k).st != .disabled) |>.getD v

/-! ### Fabric records (R328, Table 14.7) -/

/-- A write of a norm record through an IMPORT entry. -/
def runSend (s : State) (r : Nat) (u : URun) (imp peer off : Nat) (payload : List Byte) : State × URun :=
  let e := regionAt s imp
  let id := s.nextJob
  let t : Txn :=
    { ty := 2, op := 0, flag := true, noalloc := true, retx := false, dst := BitVec.ofNat 12 peer, src := selfId s,
      tag := BitVec.ofNat 12 (112 + servesV s 0), ridx := e.ridx, addr := BitVec.ofNat 48 (u.ctl + off + 32 * (u.stepNo % 2)), len := 32,
      sctx := BitVec.ofNat 8 u.ctx, key := e.key, seq := 0, arg0 := 0, arg1 := 0, payload := payload }
  (fabEnter (farSent { s with nextJob := id + 1 } t) [{ t := t, who := .update r id }], { u with parts := SMap.put u.parts id .write })

/-- A norm record's bytes. -/
def normBytes (u : URun) (x : W64) (flags : Nat) (clip : W32) (ftime : Nat) : List Byte :=
  natBytes 4 u.stepNo ++ natBytes 4 u.hchk ++ natBytes 8 x.toNat ++ natBytes 4 flags ++ natBytes 4 clip.toNat ++ natBytes 8 ftime

/-- The ready record to the parent. -/
def sendNormReady (s : State) (r : Nat) (u : URun) (x : W64) (failed : Bool) : State × URun :=
  if u.idx = 0 then (s, u)
  else runSend s r u (u.imp 0) u.parent (if u.idx % 2 = 1 then 0 else 0x40) (normBytes u x (b2n failed) 0 s.ftime)

/-- The down records to the children. -/
def sendNormDown (s : State) (r : Nat) (u : URun) (failed : Bool) : State × URun :=
  ((List.range u.kids.length).zip u.kids).foldl (fun (p : State × URun) e =>
    runSend p.1 r p.2 (u.imp (e.1 + 1)) e.2.1 0x80 (normBytes u u.s (b2n failed + 2 * b2n u.nonfin) u.clip p.1.ftime)) (s, u)

/-! ### Ends of runs (R330, R335) -/

/-- SEG_STATUS, SEG_XSUM and HELD_BLOCKS written (Table 14.3). -/
def writeSeg (s : State) (u : URun) (g : USeg) : State :=
  let st := b2n g.done1 + 2 * b2n g.done2 + 4 * b2n g.nonfin + 8 * b2n g.skipped
  let s := seqWrite s u.ctx (g.addr + 0x14) (natBytes 4 st)
  seqWrite s u.ctx (g.addr + 0x58) (natBytes 8 g.xsum.toNat ++ natBytes 4 g.held)

/-- A CONTAINED record of an update sequencer. -/
def runErr (s : State) (u : URun) (cls cause : Nat) : State :=
  let k := servesV s 0
  unitErr s 1 (k / 4) 0xB (k % 4) cls u.ctx cause u.addr false

/-- The class of a run cause's record. -/
def runClass (cause : Nat) : Option Nat :=
  match cause with
  | 1 => some 7
  | 2 => some 6
  | 3 => some 3
  | _ => none

/-- A run FAILED (R335). -/
def failRun (s : State) (r cause : Nat) (log : Bool) : State :=
  match runAt s r with
  | none => s
  | some u =>
    let s := match (if log then runClass cause else none) with | some c => runErr s u c cause | none => s
    let u := { u with st := 7, cause := cause }
    let s := bump0 (runStatus (dropRunTxns s r) u) .upd 0 0x038
    let p := sendNormReady s r u 0 true
    let p := sendNormDown p.1 r p.2 true
    let s := u.segs.foldl (fun s g => if g.done2 then s else seqSignal s (servesV s 0) u.ctx g.doneVs) p.1
    releaseRun (seqSignal s (servesV s 0) u.ctx (u.fld 0x36 2)) r

/-- Whether no segment has work left and the clip factor is known. -/
def URun.over (u : URun) : Bool := u.known && u.segs.all (fun g => g.done2 || g.skipped)

/-- The last context state a checkpoint engine needs: the segments of the last completed run (15 R351). -/
def noteRun (s : State) (u : URun) : State :=
  { s with ckpts := SMap.mod s.ckpts u.ctx (fun (c : Ckpt) => { c with segs := u.segs.map (fun g => (g.addr, g.bytes)) }) }

/-- A run that is over ends DONE, or SKIPPED where a segment was skipped or NONFINITE came down (R328, R330, R331). -/
def endRun (s : State) (r : Nat) (u : URun) : State :=
  let skipped := u.nonfin || u.segs.any (fun g => g.skipped)
  let u := { u with st := if skipped then 6 else 5 }
  let s := u.segs.foldl (fun s g => if g.skipped then seqSignal (writeSeg s u g) (servesV s 0) u.ctx g.doneVs else s) s
  let held := u.segs.foldl (fun t g => t + g.held) 0
  let s := seqWrite s u.ctx (u.addr + 0x3C)
    (natBytes 4 u.clip.toNat ++ natBytes 4 (xNorm u.s).toNat ++ natBytes 4 held ++ natBytes 8 u.s.toNat ++ natBytes 8 s.ftime)
  let s := runStatus (if skipped then bump0 s .upd 0 0x030 else noteRun s u) u
  releaseRun (seqSignal s (servesV s 0) u.ctx (u.fld 0x36 2)) r

/-- A run written back, or ended where it is over. -/
def putRun (s : State) (r : Nat) (u : URun) : State := if u.over then endRun s r u else setRun s r u

/-! ### Arming (R325) -/

/-- The run that a descriptor describes. -/
def mkRun (s : State) (ctx addr : Nat) : URun :=
  let bs := seenBytes s addr 128
  let u : URun :=
    { ctx := ctx, addr := addr, bytes := bs, idx := 0, st := 1, cause := 0, table := [], second := false, sched := [], segs := [], pairs := [],
      parent := 0, kids := [], partialS := none, sent := false, s := 0, clip := fOne, nonfin := false, known := false, parts := [] }
  let u := { u with table := match SMap.get? s.utables ctx with
                             | some t => if t.second then t.copies.2 else t.copies.1
                             | none => []
                    second := match SMap.get? s.utables ctx with | some t => t.second | none => false }
  let list := u.fld 8 8
  let segs := (List.range (if u.fld 0x10 4 ≤ 65536 then u.fld 0x10 4 else 0)).map (fun j =>
    ({ addr := list + 128 * j, bytes := seenBytes s (list + 128 * j) 128, started := false, p1 := List.replicate 16 0,
       p2 := List.replicate 16 0, sums := List.replicate 16 0, xsum := 0, skipped := false, held := 0, nonfin := false,
       done1 := false, done2 := false } : USeg))
  let pairs := segs.foldl (fun l g => if l.any (fun p => p.1 == g.start.1 && p.2.1 == g.start.2) then l else l ++ [(g.start.1, g.start.2, false)])
    ([] : List (Nat × Nat × Bool))
  let u := { u with segs := segs, pairs := pairs }
  if u.tree.ok then
    match u.tree.index s ctx with
    | none => u
    | some i =>
      { u with
        idx := i, parent := if i = 0 then 0 else u.tree.peer s ctx ((i - 1) / 2),
        kids := ([2 * i + 1, 2 * i + 2].filter (fun x => decide (x < u.tree.n))).map (fun x => (u.tree.peer s ctx x, none)) }
  else u

/-- The descriptor's field checks: CTL is read, GNORM is written. -/
def URun.fieldsOk (u : URun) (s : State) : Bool :=
  decide (u.fld 0 4 < 2) && decide (1 ≤ u.fld 0x10 4) && decide (u.fld 0x10 4 ≤ 65536) && !isNaN u.maxnorm && u.tree.ok
  && field (u.fld 0x18 8) 13 3 == 0 && field (u.fld 0x18 8) 28 4 == 0 && field (u.fld 0x18 8) 44 4 == 0
  && field (u.fld 0x18 8) 60 4 == 0 && decide (u.fld 0x30 2 < 4096) && decide (u.fld 0x32 2 < 4096) && decide (u.fld 0x34 2 < 4096)
  && (u.bytes.drop 0x5C).all (fun b => b == 0) && u.fld 8 8 % 128 == 0 && ownPerm s u.ctx u.ctl 256 true false
  && ownPerm s u.ctx (u.fld 0x28 8) 8192 false true && u.tree.mapped s u.ctx && (u.tree.index s u.ctx).isSome

/-- WRITE over a neighbour's CTL through an IMPORT entry. -/
def URun.importOk (u : URun) (s : State) (imp peer : Nat) : Bool :=
  let e := regionAt s imp
  e.valid && e.kind && e.owner == u.ctx && e.peer == BitVec.ofNat 12 peer && e.write && e.covers u.ctl 256

/-- The first check of an arm that fails, in the order of Table 14.6. -/
def runCheck (s : State) (u : URun) : Option Nat :=
  let grp : USeg → Group14 := fun g => u.groupOf g
  let k := servesV s 0
  if s.runs.any (fun e => e.2.ctx == u.ctx) || s.runs.length ≥ min 4 (regGetD s (regAddr .upd 0 8) 4 % 8) then some 0x10
  else if !u.fieldsOk s then some 0x11
  else if u.segs.any (fun g => (!u.table.isEmpty && !(grp g).valid) || !g.ok s u.ctx (grp g)) then some 0x12
  else if (u.idx != 0 && !u.importOk s (u.imp 0) u.parent)
      || ((List.range u.kids.length).zip u.kids).any (fun e => !u.importOk s (u.imp (e.1 + 1)) e.2.1) then some 0x13
  else if u.segs.any (fun g => !vsOk s k u.ctx g.start.1 xWait || !vsOk s k u.ctx g.doneVs xSig) || !vsOk s k u.ctx (u.fld 0x36 2) xSig
      || u.pairs.length > 128 then some 0x14
  else if u.table.isEmpty then some 0x15
  else if u.segs.any (fun g => (grp g).curve != 0 && !curveOk s u.ctx (grp g).curve) then some 0x16
  else none

/-- A run armed or refused: STATUS and HCHK are written either way. -/
def armRun (s : State) (ctx addr : Nat) : State :=
  let s := (engRead s ctx addr 128).2
  let list := memNat s (addr + 8) 8
  let s := settleReds s list (128 * min (memNat s (addr + 0x10) 4) 65536)
  let u := mkRun s ctx addr
  let s := (u.segs.map (fun g => (u.groupOf g).curve)).eraseDups.foldl settleCurve s
  let hchk : State → State := fun s => seqWrite s ctx (addr + 0x58) (natBytes 4 u.hchk)
  match runCheck s u with
  | some code => bump0 (seqWrite (hchk s) ctx (addr + 0x38) (natBytes 4 code)) .upd 0 0x028
  | none =>
    let r := SMap.freeKey s.runs 4 0
    let gs := (u.segs.map (fun g => g.group)).eraseDups
    let u := { u with sched := gs.map (fun q => (q, schedule s (groupEntry u.table q) u.stepNo)) }
    let s := ((List.range u.pairs.length).zip u.pairs).foldl (fun s e => seqWatch s (servesV s 0) ctx e.2.1 e.2.2.1 (.run r e.1)) s
    bump0 (setRun (runStatus (hchk s) u) r u) .upd 0 0x020

/-- UPD_ARM (R325). -/
def execUpdArm (w : RegWr) (s : State) : Out :=
  ctlReq w .upd (fun off => off == 0) (fun _ q _ _ => q.thread) (fun q _ _ s =>
    let a := q.value % 2 ^ 48
    if ownRange s q.ctx a 128 true && a % 128 == 0 then armRun s q.ctx a else refuse q true s) s

/-- SEGMENT_START (R326): the segment's pair is met and pass 1 begins. -/
def execSegmentStart (r : Fin 4) (j : Nat) (s : State) : Out :=
  match runAt s r.val with
  | none => .next s
  | some u =>
    match u.segs[j]? with
    | none => .next s
    | some g =>
      if !g.started && u.pairMet g && (u.st = 1 || u.st = 2) then
        let u := u.modSeg j (fun g => { g with started := true })
        if u.st = 1 then
          let u := { u with st := 2 }
          .next (setRun (runStatus s u) r.val u)
        else .next (setRun s r.val u)
      else .next s

/-! ### The norm (R327, R328) -/

/-- S and CLIP known at the root or from the parent: pass 2 starts, or the segments that have not begun it are skipped (R331). -/
def clipKnown (s : State) (r : Nat) (u : URun) : State :=
  let u := { u with known := true, st := 4 }
  let fresh : USeg → Bool := fun g => !g.done2 && g.p2.all (fun n => n == 0)
  let u := if u.nonfin then { u with segs := u.segs.map (fun g => if fresh g then { g with skipped := true } else g) } else u
  putRun (runStatus s u) r u

/-- The root: NORM, NONFINITE and CLIP from S, the down records. -/
def rootNorm (s : State) (r : Nat) (u : URun) (x : W64) : State :=
  let norm := xNorm x
  let nonfin := xNf x || norm == fPosInf
  let clip := if fcmp u.maxnorm fZero > 0 && fcmp norm u.maxnorm > 0 then (fdiv u.maxnorm norm).v else fOne
  let u := { u with s := x, clip := clip, nonfin := nonfin, sent := true }
  let p := sendNormDown s r u false
  clipKnown p.1 r p.2

/-- Once the own partial and every present child's record are there, the sum goes to the parent, or is S at the root. -/
def normUp (s : State) (r : Nat) (u : URun) : State :=
  match u.partialS with
  | none => setRun s r u
  | some p =>
    if !u.sent && u.kids.all (fun k => k.2.isSome) then
      let x := u.kids.foldl (fun a k => xAdd a (k.2.getD 0)) p
      if u.idx = 0 then rootNorm s r u x
      else
        let t := sendNormReady s r { u with sent := true } x false
        setRun t.1 r t.2
    else setRun s r u

/-- Every segment has finished pass 1: GNORM for each group, the own partial, the norm tree. -/
def startNorm (s : State) (r : Nat) (u : URun) : State :=
  let used := (u.segs.map (fun g => g.group)).eraseDups
  let s := used.foldl (fun s q =>
    seqWrite s u.ctx (u.fld 0x28 8 + 8 * q) (natBytes 8 (xSum ((u.segs.filter (fun g => g.group == q)).map (fun g => g.xsum))).toNat)) s
  let p := xSum ((u.segs.filter (fun g => (u.groupOf g).clips)).map (fun g => g.xsum))
  let u := { u with partialS := some p, st := 3 }
  normUp (runStatus s u) r u

/-- A norm record in the control area: STEP, HCHK, sum, flags, CLIP. -/
def normRecord (s : State) (u : URun) (off : Nat) : Nat × Nat × W64 × Nat × W32 :=
  let a := u.ctl + off + 32 * (u.stepNo % 2)
  (memNat s a 4, memNat s (a + 4) 4, BitVec.ofNat 64 (memNat s (a + 8) 8), memNat s (a + 0x10) 4, memW32 s (a + 0x14))

/-- A run failed by a record that carries no cause. -/
def failRunFree (s : State) (r : Nat) : State :=
  let d := drawNat s
  failRun d.2 r (d.1 % 4 + 1) false

/-- NORM_READY_RECORD (R328). -/
def execNormReadyRecord (r : Fin 4) (side : Side) (s : State) : Out :=
  match runAt s r.val with
  | none => .next s
  | some u =>
    let i := b2n (side == .right)
    let x := normRecord s u (0x40 * i)
    match u.kids[i]? with
    | none => .next s
    | some k =>
      if x.1 != u.stepNo || k.2.isSome || (x.2.1 = 0 && x.2.2.1 = 0 && x.2.2.2.1 = 0) then .next s
      else if x.2.1 != u.hchk then .next (failRun s r.val 4 true)
      else if x.2.2.2.1.testBit 0 then .next (failRunFree s r.val)
      else .next (normUp s r.val { u with kids := setAt u.kids i (k.1, some x.2.2.1) })

/-- NORM_DOWN_RECORD (R328): S, CLIP and NONFINITE from the parent, forwarded unchanged. -/
def execNormDownRecord (r : Fin 4) (s : State) : Out :=
  match runAt s r.val with
  | none => .next s
  | some u =>
    let x := normRecord s u 0x80
    if u.idx = 0 || u.known || x.1 != u.stepNo || (x.2.1 = 0 && x.2.2.1 = 0 && x.2.2.2.1 = 0) then .next s
    else if x.2.1 != u.hchk then .next (failRun s r.val 4 true)
    else if x.2.2.2.1.testBit 0 then .next (failRunFree s r.val)
    else if u.sent then
      let u := { u with s := x.2.2.1, clip := x.2.2.2.2, nonfin := x.2.2.2.1.testBit 1 }
      let p := sendNormDown s r.val u false
      .next (clipKnown p.1 r.val p.2)
    else .next s

/-! ### Tiles (R329) -/

/-- The tiles of segment `j` that belong to virtual sequencer `v`, rising. -/
def tilesOf (g : USeg) (j v : Nat) : List Nat :=
  let t0 := (v + 16 * (j / 16 + 1) - j) % 16
  (List.range ((g.tiles + 15 - t0) / 16)).map (fun i => t0 + 16 * i)

/-- Rows and columns of a tile: first row, rows, first column, columns. -/
def tileBox (g : USeg) (t : Nat) : Nat × Nat × Nat × Nat :=
  let r0 := t / g.tcols * 128
  let c0 := t % g.tcols * 128
  (r0, min 128 (g.rows - r0), c0, min 128 (g.cols - c0))

/-- Whether segment `g` may take part in pass 2 now (R329, R331). -/
def URun.pass2Ok (u : URun) (g : USeg) : Bool :=
  g.done1 && !g.skipped && !g.done2 && ((u.known && (!u.nonfin || g.p2.any (fun n => n != 0))) || (u.early && !(u.groupOf g).clips))

/-- The next tile of virtual sequencer `v`: whether it is pass-1 work, the segment's index, the tile. Pass-1 work comes first. -/
def nextTile (u : URun) (v : Nat) : Option (Bool × Nat × Nat) :=
  let js := (List.range u.segs.length).zip u.segs
  match js.find? (fun e => e.2.started && decide (nth e.2.p1 v 0 < (tilesOf e.2 e.1 v).length)) with
  | some e => some (true, e.1, nth (tilesOf e.2 e.1 v) (nth e.2.p1 v 0) 0)
  | none =>
    (js.find? (fun e => u.pass2Ok e.2 && decide (nth e.2.p2 v 0 < (tilesOf e.2 e.1 v).length))).map (fun e =>
      (false, e.1, nth (tilesOf e.2 e.1 v) (nth e.2.p2 v 0) 0))

/-- Whether every virtual sequencer has finished a pass of a segment. -/
def passOver (g : USeg) (j : Nat) (done : List Nat) : Bool :=
  (List.range 16).all (fun v => decide ((tilesOf g j v).length ≤ nth done v 0))

/-- The gradient elements of a row of a tile. -/
def gradRow (s : State) (g : USeg) (r c0 n : Nat) : List W32 :=
  let s := winView s [(g.fld 0x18 8 + 4 * (r * g.cols + c0), 4 * n)]
  (List.range n).map (fun i => memW32 s (g.fld 0x18 8 + 4 * (r * g.cols + c0 + i)))

/-- Pass 1 of a tile: squares summed row by row; a non-finite element leaves a sum whose value is free. -/
def pass1Tile (s : State) (r j t v : Nat) (u : URun) (g : USeg) : State :=
  let b := tileBox g t
  let rd := (List.range b.2.1).foldl (fun (p : Bool × State) i =>
    let q := engRead p.2 u.ctx (g.fld 0x18 8 + 4 * ((b.1 + i) * g.cols + b.2.2.1)) (4 * b.2.2.2)
    (p.1 || q.1, q.2)) (false, s)
  if rd.1 then failRun rd.2 r 3 true
  else
    let s := rd.2
    let vals := (List.range b.2.1).flatMap (fun i => gradRow s g (b.1 + i) b.2.2.1 b.2.2.2)
    let x := vals.foldl (fun a y => xAdd a (xSquare y)) (nth g.sums v 0)
    let fr : W64 × State := if vals.any (fun y => isNaN y || isInf y) then xFree s else (x, s)
    let s := bumpC (bumpC fr.2 .upd 0 0x040 vals.length none) .upd 0 0x070 (4 * vals.length) none
    let g := { g with sums := setAt g.sums v fr.1, p1 := modAt g.p1 v (· + 1) }
    if passOver g j g.p1 then
      let x := xSum g.sums
      let g := { g with xsum := x, nonfin := xNf x, done1 := true,
                        skipped := xNf x && u.early && !(u.groupOf g).clips }
      let s := writeSeg s u g
      let u := { u with segs := setAt u.segs j g }
      if u.segs.all (fun g => g.done1) then startNorm s r u else setRun s r u
    else setRun s r { u with segs := setAt u.segs j g }

/-! ### Pass 2 of a block, a row and a tile (R329-R333) -/

/-- The address of block `b` of row `r` of a B16 tensor: mantissas and scale. -/
def b16At (g : USeg) (base r b : Nat) : Nat × Nat := (base + 64 * g.cb * r + 64 * b, base + 64 * g.cb * g.rows + g.cb * r + b)

/-- Block `b` of row `r` of a B16 tensor. Update sequencers and reduction adders have no completion record to report reserved codes, saturation and poison
in, and report them nowhere (DESIGN CHOICE, log entry 90). -/
def b16Block (s : State) (g : USeg) (base r b : Nat) : Blk :=
  let a := b16At g base r b
  readBlk .b16 (bytesNat (seenBytes s a.2 1)) (seenBytes s a.1 64)

/-- A B16 block written. -/
def putB16 (s : State) (ctx : Nat) (g : USeg) (base r b e : Nat) (ms : List Int) : State :=
  let a := b16At g base r b
  engWrite (engWrite s ctx a.1 (blockBytesOf .b16 ms) true) ctx a.2 [BitVec.ofNat 8 e] true

/-- The counts of a block's commit. -/
structure BlkCnt where
  elems : Nat
  held : Nat
  rises : Nat
  falls : Nat
  carries : Nat
  deriving DecidableEq, Repr

/-- Nothing counted. -/
def BlkCnt.zero : BlkCnt := ⟨0, 0, 0, 0, 0⟩
/-- Counts together. -/
def BlkCnt.add (a b : BlkCnt) : BlkCnt :=
  ⟨a.elems + b.elems, a.held + b.held, a.rises + b.rises, a.falls + b.falls, a.carries + b.carries⟩

/-- Elements whose mantissa changed while |Δ| was below half an LSB of the new exponent. -/
def remCarries (old new : Master) (deltas : List W32) : Nat :=
  ((old.m.zip new.m).zip deltas).foldl (fun n p =>
    match unitsOf p.2 with
    | some d => if p.1.1 != p.1.2 && decide (d.natAbs * 2 < 2 ^ (new.e + 8)) then n + 1 else n
    | none => n) 0

/-- One block of a row: the state, the master as it then stands, the counts. -/
def pass2Block (s : State) (u : URun) (g : USeg) (r b : Nat) : State × Master × BlkCnt :=
  let n := min 32 (g.cols - 32 * b)
  let grp := u.groupOf g
  let sc := u.schedOf g
  let clip := if grp.clips then u.clip else fOne
  let mb := b16Block s g (g.fld 0x20 8) r b
  let rems := (seenBytes s (g.fld 0x28 8 + 32 * g.cb * r + 32 * b) 32).map BitVec.toNat
  let zero : Blk := ⟨0, List.replicate 32 0, 0⟩
  let b1 := if grp.m1 then b16Block s g (g.fld 0x30 8) r b else zero
  let b2 := if grp.m2 then b16Block s g (g.fld 0x38 8) r b else zero
  let old : Master := { e := mb.e, m := mb.ms.take n, r := rems.take n }
  let ws := (old.m.zip old.r).map (fun p => b16Val p.1 p.2 mb.e)
  let gr := gradRow s g r (32 * b) n
  let st := (List.range n).map (fun i =>
    element grp sc.1 sc.2 clip (nth gr i 0) (nth ws i 0) (blkFp32 .b16 b1.e (nth b1.ms i 0)) (blkFp32 .b16 b2.e (nth b2.ms i 0)))
  let bad := mb.e = 255 || b1.e = 255 || b2.e = 255
    || st.any (fun x => isNaN x.m1n || isInf x.m1n || isNaN x.m2n || isInf x.m2n)
  match (if bad then none else commit ws (st.map (fun x => x.delta))) with
  | none => (s, { e := mb.e, m := padTo 32 0 old.m, r := padTo 32 0 old.r }, { BlkCnt.zero with held := 1 })
  | some new =>
    let s := putB16 s u.ctx g (g.fld 0x20 8) r b new.e (padTo 32 0 new.m)
    let s := engWrite s u.ctx (g.fld 0x28 8 + 32 * g.cb * r + 32 * b) (padTo 32 0 (new.r.map (BitVec.ofNat 8))) true
    let mom : State → Nat → List W32 → State := fun s base xs =>
      let o := toBlock (padTo 32 0 xs) .b16 none
      putB16 s u.ctx g base r b o.e o.ms
    let s := if grp.m1 then mom s (g.fld 0x30 8) (st.map (fun x => x.m1n)) else s
    let s := if grp.m2 then mom s (g.fld 0x38 8) (st.map (fun x => x.m2n)) else s
    (s, { new with m := padTo 32 0 new.m },
      ⟨n, 0, b2n (decide (mb.e < new.e)), b2n (decide (new.e < mb.e)), remCarries old new (st.map (fun x => x.delta))⟩)

/-- The values of a master block without the remainder (R333). -/
def masterVals (m : Master) : List W32 := m.m.map (fun x => blkFp32 .b16 m.e x)

/-- One row of a tile: master, moments and F-copy blocks; the row's new master values for the transpose buffer. -/
def pass2Row (s : State) (u : URun) (g : USeg) (r : Nat) : List Nat → State × List W32 × BlkCnt
  | [] => (s, [], BlkCnt.zero)
  | b :: bs =>
    let k := pass2Block s u g r b
    let vals := masterVals k.2.1
    let s := if g.fcopy then
        let o := toBlock vals .b8 none
        let s := engWrite k.1 u.ctx (g.fld 0x40 8 + 32 * g.cb * r + 32 * b) (blockBytesOf .b8 o.ms) true
        engWrite s u.ctx (g.fld 0x40 8 + 32 * g.cb * g.rows + g.cb * r + b) [BitVec.ofNat 8 o.e] true
      else k.1
    let t := pass2Row s u g r bs
    (t.1, vals ++ t.2.1, k.2.2.add t.2.2)

/-- The rows of a tile. -/
def pass2Rows (u : URun) (g : USeg) (bs : List Nat) : State → List Nat → State × List (List W32) × BlkCnt
  | s, [] => (s, [], BlkCnt.zero)
  | s, r :: rs =>
    let k := pass2Row s u g r bs
    let t := pass2Rows u g bs k.1 rs
    (t.1, k.2.1 :: t.2.1, k.2.2.add t.2.2)

/-- The T-copy blocks of a tile, column by column. -/
def emitT (s : State) (u : URun) (g : USeg) (b : Nat × Nat × Nat × Nat) (rows : List (List W32)) : State :=
  if g.tcopy then
    (List.range b.2.2.2).foldl (fun s c =>
      (List.range ((b.2.1 + 31) / 32)).foldl (fun s q =>
        let xs := padTo 32 0 (((rows.drop (32 * q)).take 32).map (fun row => nth row c 0))
        let o := toBlock xs .b8 none
        let col := b.2.2.1 + c
        let s := engWrite s u.ctx (g.fld 0x48 8 + 32 * g.rb * col + b.1 + 32 * q) (blockBytesOf .b8 o.ms) true
        engWrite s u.ctx (g.fld 0x48 8 + 32 * g.rb * g.cols + g.rb * col + b.1 / 32 + q) [BitVec.ofNat 8 o.e] true) s) s
  else s

/-- The ranges a tile's pass 2 reads: gradient, master, remainder, enabled moments. -/
def updTileReads (u : URun) (g : USeg) (b : Nat × Nat × Nat × Nat) : List (Nat × Nat) :=
  let grp := u.groupOf g
  let nb := (b.2.2.2 + 31) / 32
  (List.range b.2.1).flatMap (fun i =>
    let r := b.1 + i
    let t : Nat → List (Nat × Nat) := fun base =>
      let a := b16At g base r (b.2.2.1 / 32)
      [(a.1, 64 * nb), (a.2, nb)]
    [(g.fld 0x18 8 + 4 * (r * g.cols + b.2.2.1), 4 * b.2.2.2)] ++ t (g.fld 0x20 8)
    ++ [(g.fld 0x28 8 + 32 * g.cb * r + b.2.2.1, 32 * nb)]
    ++ (if grp.m1 then t (g.fld 0x30 8) else []) ++ (if grp.m2 then t (g.fld 0x38 8) else []))

/-- The ranges a tile's pass 2 writes. -/
def tileWrites (u : URun) (g : USeg) (b : Nat × Nat × Nat × Nat) : List (Nat × Nat) :=
  let nb := (b.2.2.2 + 31) / 32
  ((updTileReads u g b).filter (fun r => !(decide (g.fld 0x18 8 ≤ r.1) && decide (r.1 < g.fld 0x18 8 + 4 * g.rows * g.cols))))
  ++ (if g.fcopy then (List.range b.2.1).flatMap (fun i =>
        [(g.fld 0x40 8 + 32 * g.cb * (b.1 + i) + b.2.2.1, 32 * nb), (g.fld 0x40 8 + 32 * g.cb * g.rows + g.cb * (b.1 + i) + b.2.2.1 / 32, nb)])
      else [])
  ++ (if g.tcopy then (List.range b.2.2.2).flatMap (fun c =>
        [(g.fld 0x48 8 + 32 * g.rb * (b.2.2.1 + c) + b.1, 32 * ((b.2.1 + 31) / 32)),
         (g.fld 0x48 8 + 32 * g.rb * g.cols + g.rb * (b.2.2.1 + c) + b.1 / 32, (b.2.1 + 31) / 32)])
      else [])

/-- Whether pass 2 of a tile would meet a PENDING block (R334). -/
def tileHeld (s : State) (u : URun) (g : USeg) (t : Nat) : Bool := (tileWrites u g (tileBox g t)).any (fun r => rangeHeld s r.1 r.2)

/-- The bytes that a held block keeps unwritten: master, remainder and enabled moments (R332). -/
def heldBytes (u : Group14) : Nat := 65 + 32 + 65 * (b2n u.m1 + b2n u.m2)

/-- Pass 2 of a tile. The ck of the transpose emission are free (the spec gives about 132). -/
def pass2Tile (s : State) (r j t v : Nat) (u : URun) (g : USeg) : State :=
  let b := tileBox g t
  let rs := updTileReads u g b
  let rd := rs.foldl (fun (p : Bool × State) x => let q := engRead p.2 u.ctx x.1 x.2; (p.1 || q.1, q.2)) (false, s)
  if rd.1 then failRun rd.2 r 3 true
  else
    let bs := (List.range ((b.2.2.2 + 31) / 32)).map (fun i => b.2.2.1 / 32 + i)
    let k := pass2Rows u g bs rd.2 ((List.range b.2.1).map (fun i => b.1 + i))
    let s := emitT k.1 u g b k.2.1
    let c := k.2.2
    let s := bumpC s .upd 0 0x048 c.elems none
    let s := bumpC s .upd 0 0x050 c.held none
    let s := bumpC s .upd 0 0x058 c.rises none
    let s := bumpC s .upd 0 0x060 c.falls none
    let s := bumpC s .upd 0 0x068 c.carries none
    let s := bumpC s .upd 0 0x070 (rs.foldl (fun n x => n + x.2) 0) none
    let s := bumpC s .upd 0 0x078 ((tileWrites u g b).foldl (fun n x => n + x.2) 0 - c.held * heldBytes (u.groupOf g)) none
    let ck := drawNat s
    let s := if g.tcopy then bumpC ck.2 .upd 0 0x088 ck.1 none else s
    let g := { g with p2 := modAt g.p2 v (· + 1), held := g.held + c.held, nonfin := g.nonfin || c.held != 0 }
    let s := if c.held != 0 then writeSeg s u g else s
    setRun s r { u with segs := setAt u.segs j g }

/-- UPDATE_TILE (R329): virtual sequencer `v` completes its next tile on the sequencer that serves it. -/
def execUpdateTile (r : Fin 4) (v : Fin 16) (s : State) : Out :=
  match runAt s r.val with
  | none => .next s
  | some u =>
    match (if (clusterAt s (servesV s v.val)).st == .run then nextTile u v.val else none) with
    | none => .next s
    | some (p1, j, t) =>
      match u.segs[j]? with
      | none => .next s
      | some g =>
        if p1 then .next (pass1Tile s r.val j t v.val u g)
        else if tileHeld s u g t then .next s
        else .next (pass2Tile s r.val j t v.val u g)

/-! ### Segments done (R330, R333) -/

/-- The digest of 64 KiB of a plane: CRC-64 values of its four quarters. -/
def digestOf (bs : List Byte) : List Byte :=
  (List.range 4).flatMap (fun q => natBytes 8 (crc64 ((bs.drop (16384 * q)).take 16384)))

/-- The digests of a plane in memory, or zeros for a plane the segment does not write. -/
def planeBytes (s : State) (p : Nat × Nat × Bool) : List Byte :=
  (List.range (planeDigests p.2.1)).flatMap (fun k =>
    if p.2.2 then digestOf (memBytes s (p.1 + 65536 * k) (min 65536 (p.2.1 - 65536 * k))) else List.replicate 32 0)

/-- The digest area of a segment (R333). -/
def segDigest (s : State) (g : USeg) : List Byte := g.planes.flatMap (planeBytes s)

/-- SEGMENT_DONE (R330): every virtual sequencer has finished pass 2 and its writes are visible. -/
def execSegmentDone (r : Fin 4) (j : Nat) (s : State) : Out :=
  match runAt s r.val with
  | none => .next s
  | some u =>
    match u.segs[j]? with
    | none => .next s
    | some g =>
      if u.pass2Ok g && passOver g j g.p2 then
        let g := { g with done2 := true }
        let s := if g.digest then settleSpans s ((g.planes.filter (fun p => p.2.2)).map (fun p => (p.1, p.2.1))) else s
        let dig := segDigest s g
        let s := if g.digest then
            bumpC (seqWrite s u.ctx (g.fld 0x50 8) dig) .upd 0 0x078 dig.length none
          else s
        let u := { u with segs := setAt u.segs j g }
        let s := seqSignal (writeSeg s u g) (servesV s 0) u.ctx g.doneVs
        .next (putRun s r.val u)
      else .next s

/-- UPDATE_RUN_FAIL (R335): an uncorrectable error in what a sequencer reads, or a FAILED record of a neighbour. -/
def execUpdateRunFail (r : Fin 4) (cause : RunFail) (s : State) : Out :=
  match runAt s r.val with
  | none => .next s
  | some u =>
    match cause with
    | .ecc => if (List.range 16).any (fun v => (nextTile u v).isSome) then .next (failRun s r.val 3 true) else .next s
    | .failedRecord =>
      let failed : Nat → Bool := fun off =>
        let x := normRecord s u off
        x.1 == u.stepNo && x.2.1 == u.hchk && x.2.2.2.1.testBit 0
      if (decide (0 < u.kids.length) && failed 0) || (decide (1 < u.kids.length) && failed 0x40) || (u.idx != 0 && failed 0x80) then
        .next (failRunFree s r.val)
      else .next s

/-- The end of a transaction of a run: an acknowledgement, or a failure with its cause. -/
def runPart (s : State) (r id : Nat) (o : Except Nat (List Byte)) : State :=
  match runAt s r with
  | none => s
  | some u =>
    match SMap.get? u.parts id, o with
    | none, _ => s
    | some _, .error cause => failRun s r cause true
    | some _, .ok _ => setRun s r { u with parts := SMap.del u.parts id }

/-- UPD_CTRL.CLR_COUNTS (R336). -/
def execUpdClrCounts (w : RegWr) (s : State) : Out :=
  ctlWrite w .upd (fun off => off == 0x018) fwOnly (fun u _ v s => clearIf v 0 .upd (offs 0x020 0x088) u s) s

end Sys2Proof.Machine
end

