-- ==== Sys2Proof/Machine/Link.lean ====
section
/-! DEFINITION. The links (11): flits, credits, link-level retry, failure and degrade, bring-up, the wiring check, fabric time; the encodings of
transactions and responses (12 R274-R276) and the choice of a port (12 R290-R292). -/

namespace Sys2Proof.Machine

/-! ### Ports -/

/-- Port `p`. -/
def portOf (s : State) (p : Nat) : Port := nth s.fab.ports p Port.reset
/-- A port replaced. -/
def setPort (s : State) (p : Nat) (x : Port) : State := { s with fab := { s.fab with ports := setAt (padUp 16 Port.reset s.fab.ports) p x } }
/-- A port changed. -/
def modPort (s : State) (p : Nat) (f : Port → Port) : State := setPort s p (f (portOf s p))
/-- The unit number of a port's LNK block. -/
def lnkUnit (p : Nat) : Nat := p
/-- A link counter advanced. -/
def lnkBump (s : State) (p off amount : Nat) : State := bumpC s .lnk (lnkUnit p) off amount none
/-- LNK_CFG. -/
def lnkCfg (s : State) (p : Nat) : Nat := regGetD s (regAddr .lnk (lnkUnit p) 0) 0x4001101
/-- Whether a port is in its die's route set (R257). -/
def portLive (s : State) (p : Nat) : Bool := (portOf s p).st == 5 || (portOf s p).st == 6
/-- Whether a port may be brought up: enabled at manufacture (DPT FABRIC_PORTS) and by LNK_CFG.EN (R261). -/
def portEnabled (s : State) (p : Nat) : Bool := (dptVal s 0x70).testBit (16 + p) && (lnkCfg s p).testBit 0

/-- The lanes of a half (R258). -/
def halfMask (high : Bool) : Nat := if high then 0xFF00 else 0x00FF
/-- The active lanes of a port. -/
def activeLanes (x : Port) : Nat := if x.half then halfMask x.high else 0xFFFF

/-! ### Encodings (12 Tables 12.2, 12.3) -/

/-- A request as bytes: the header and its payload, padded to 8 bytes. -/
def encTxn (t : Txn) : List Byte :=
  let w0 := t.ty % 16 + 16 * (t.op % 16) + b2n t.flag * 2 ^ 8 + b2n t.noalloc * 2 ^ 9 + b2n t.retx * 2 ^ 10 + t.dst.toNat * 2 ^ 12
    + t.src.toNat * 2 ^ 24 + t.tag.toNat * 2 ^ 36 + t.ridx.toNat * 2 ^ 48
  let len := if t.len = 0 then 0 else ((t.len + 3) / 4 - 1) % 128
  let w1 := t.addr.toNat + len * 2 ^ 48 + t.sctx.toNat * 2 ^ 56
  natBytes 8 w0 ++ natBytes 8 w1 ++ natBytes 4 t.key.toNat ++ natBytes 4 t.seq.toNat ++ natBytes 4 t.arg0.toNat
    ++ natBytes 4 t.arg1.toNat ++ padTo ((t.payload.length + 7) / 8 * 8) 0 t.payload

/-- A response as bytes. -/
def encResp (r : Resp) : List Byte :=
  natBytes 8 (r.ty % 16 + 16 * (r.status % 16) + r.dst.toNat * 2 ^ 8 + r.src.toNat * 2 ^ 20 + r.seq.toNat * 2 ^ 32)
    ++ padTo ((r.data.length + 7) / 8 * 8) 0 r.data

/-- An item as bytes. -/
def encMsg (m : FabMsg) : List Byte :=
  match m with
  | .txn t => encTxn t
  | .resp r => encResp r

/-- The virtual channel of an item: 0 REQ, 1 RSP, 2 RED, 3 MGMT (Table 12.1). -/
def msgVc (m : FabMsg) : Nat :=
  match m with
  | .resp _ => 1
  | .txn t => if t.ty = 3 then 2 else if t.ty = 7 then 3 else 0

/-- The destination of an item. -/
def msgDst (m : FabMsg) : Nat :=
  match m with
  | .resp r => r.dst.toNat
  | .txn t => t.dst.toNat

/-! ### Flits (R252, Tables 11.3, 11.4) -/

/-- A flit header's fields. -/
structure FlitHdr where
  kind : Nat
  vc : Nat
  sot : Bool
  eot : Bool
  lseq : Nat
  ack : Nat
  ackv : Bool
  replay : Bool
  crvc0 : Nat
  crcnt0 : Nat
  crvc1 : Nat
  crcnt1 : Nat
  paylen : Nat
  deriving DecidableEq, Repr

/-- The header as a number of 96 bits. -/
def FlitHdr.enc (h : FlitHdr) : Nat :=
  h.kind + h.vc * 2 ^ 4 + b2n h.sot * 2 ^ 6 + b2n h.eot * 2 ^ 7 + h.lseq * 2 ^ 8 + h.ack * 2 ^ 20 + b2n h.ackv * 2 ^ 32 + b2n h.replay * 2 ^ 33
    + h.crvc0 * 2 ^ 34 + h.crcnt0 * 2 ^ 36 + h.crvc1 * 2 ^ 44 + h.crcnt1 * 2 ^ 46 + h.paylen * 2 ^ 54

/-- The header of a flit's bytes. -/
def flitHdr (bs : List Byte) : FlitHdr :=
  let v := bytesNat (bs.take 12)
  { kind := field v 0 4, vc := field v 4 2, sot := v.testBit 6, eot := v.testBit 7, lseq := field v 8 12, ack := field v 20 12,
    ackv := v.testBit 32, replay := v.testBit 33, crvc0 := field v 34 2, crcnt0 := field v 36 8, crvc1 := field v 44 2,
    crcnt1 := field v 46 8, paylen := field v 54 8 }

/-- A flit's bytes: header, payload padded to 240 bytes, CRC-32 (R251). -/
def flitBytes (h : FlitHdr) (payload : List Byte) : List Byte :=
  let body := natBytes 12 h.enc ++ padTo 240 0 payload
  body ++ natBytes 4 (crc32 body)

/-- Whether a flit overlaps an uncorrectable codeword: one with more than 15 symbol errors (R251). -/
def flitLost (raw : Flit) : Bool :=
  (flitIn raw.place.val 0 && decide (15 < raw.errs.1)) || (flitIn raw.place.val 1 && decide (15 < raw.errs.2))

/-- Whether a flit arrived whole: no uncorrectable codeword, 256 bytes, a good CRC, a KIND that is not reserved. -/
def flitOk (raw : Flit) : Bool :=
  !flitLost raw && raw.bytes.length == 256 && bytesNat (raw.bytes.drop 252) == crc32 (raw.bytes.take 252) && decide ((flitHdr raw.bytes).kind ≤ 5)

/-- Up to two credit returns and what is then still owed: (channel, count) twice. -/
def takeOwed (owed : List Nat) : (Nat × Nat) × (Nat × Nat) × List Nat :=
  let first := fun (l : List Nat) => findIdxFrom (fun (n : Nat) => n != 0) 0 l
  match first owed with
  | none => ((0, 0), (0, 0), owed)
  | some (v, n) =>
    let o1 := setAt owed v (n - min n 255)
    match first (setAt owed v 0) with
    | none => ((v, min n 255), (0, 0), o1)
    | some (w, k) => ((v, min n 255), (w, min k 255), setAt o1 w (k - min k 255))

/-- A flit sent on a port; every flit carries the ACK and up to two credit returns (R252). -/
def sendFlit (s : State) (p : Nat) (h : FlitHdr) (payload : List Byte) : State :=
  let x := portOf s p
  let o := takeOwed x.owed
  let h := { h with ack := (x.expect + 4095) % 4096, ackv := true, crvc0 := o.1.1, crcnt0 := o.1.2, crvc1 := o.2.1.1, crcnt1 := o.2.1.2 }
  let bs := flitBytes h payload
  let s := setPort s p { x with owed := o.2.2, ackDue := false, txFlits := x.txFlits ++ [bs] }
  { s with fab := { s.fab with out := s.fab.out ++ [.flit p bs] } }

/-- A header with only a KIND. -/
def ctlHdr (kind : Nat) : FlitHdr :=
  { kind := kind, vc := 0, sot := false, eot := false, lseq := 0, ack := 0, ackv := false, replay := false, crvc0 := 0, crcnt0 := 0,
    crvc1 := 0, crcnt1 := 0, paylen := 0 }

/-- A control flit sent on a port; PAYLEN counts its payload. -/
def sendCtl (s : State) (p kind : Nat) (payload : List Byte) : State :=
  sendFlit s p { ctlHdr kind with paylen := payload.length } payload

/-! ### Sending DATA flits (R253-R255, 12 R274) -/

/-- The queued items of a channel. -/
def txOf (x : Port) (v : Nat) : List TxItem := nth x.tx v []
/-- Flits queued on a channel. -/
def queuedFlits (x : Port) (v : Nat) : Nat := ((txOf x v).foldl (fun n (i : TxItem) => n + i.rest.length) 0 + 239) / 240

/-- Whether a channel has a flit ready and a credit for it. -/
def vcReady (x : Port) (v : Nat) : Bool := !(txOf x v).isEmpty && decide (0 < nth x.credits v 0)

/-- The weight of REQ or RED; 0 acts as 1 (Table 11.10). -/
def vcWeight (s : State) (p v : Nat) : Nat := max 1 (if v = 2 then field (lnkCfg s p) 12 4 else field (lnkCfg s p) 8 4)

/-- The channel that sends next (R254), with the state of the rotation after it. -/
def nextVc (s : State) (p : Nat) (x : Port) : Option (Nat × Nat × Nat) :=
  if vcReady x 3 then some (3, x.turn, x.used)
  else if vcReady x 1 then some (1, x.turn, x.used)
  else
    let mine := if x.turn = 2 then 2 else 0
    let other := 2 - mine
    if vcReady x mine && decide (x.used < vcWeight s p mine) then some (mine, mine, x.used + 1)
    else if vcReady x other then some (other, other, 1)
    else if vcReady x mine then some (mine, mine, 1)
    else none

/-- Up to `room` bytes taken from the items of a channel: the payload, what is left, whether an item begins and whether one ends in it. -/
def fillFlit : Nat → List TxItem → List Byte × List TxItem × Bool × Bool
  | _, [] => ([], [], false, false)
  | room, i :: is =>
    if room = 0 then ([], i :: is, false, false)
    else if i.rest.length ≤ room then
      let r := fillFlit (room - i.rest.length) is
      (i.rest ++ r.1, r.2.1, !i.begun || r.2.2.1, true)
    else (i.rest.take room, { i with rest := i.rest.drop room, begun := true } :: is, !i.begun, false)

/-- A DATA flit sent, with `replay` set on the first of a replay (R256). -/
def sendData (s : State) (p : Nat) (f : RFlit) (replay : Bool) : State :=
  let h := { ctlHdr 1 with vc := f.vc, sot := f.sot, eot := f.eot, lseq := f.lseq, replay := replay, paylen := f.data.length }
  lnkBump (sendFlit s p h f.data) p 0x030 1

/-- DATA flits sent while channels have credits and the replay buffer has room (R253-R255). -/
def pumpData (p : Nat) : Nat → State → State
  | 0, s => s
  | fuel + 1, s =>
    let x := portOf s p
    if portLive s p && decide (x.replay.length < 512) then
      match nextVc s p x with
      | none => s
      | some (v, turn, used) =>
        let r := fillFlit 240 (txOf x v)
        let f : RFlit := { lseq := x.lseq, vc := v, sot := r.2.2.1, eot := r.2.2.2, data := r.1 }
        let s := setPort s p { x with
          tx := setAt x.tx v r.2.1, credits := setAt x.credits v (nth x.credits v 0 - 1), lseq := (x.lseq + 1) % 4096,
          replay := x.replay ++ [f], turn := turn, used := used }
        pumpData p fuel (sendData s p f false)
    else s

/-- What a port has to send is sent: DATA flits, then an IDLE flit for an ACK or credits still owed (R252); frames that these do not fill carry IDLE flits
(portFrame). -/
def pumpPort (s : State) (p : Nat) : State :=
  let s := pumpData p 512 s
  let x := portOf s p
  if (portLive s p || x.st == 4 || x.st == 7) && (x.ackDue || x.owed.any (fun n => n != 0)) then sendCtl s p 0 [] else s

/-- An item handed to a port (12 R274). -/
def pushItem (s : State) (p : Nat) (m : FabMsg) : State :=
  let v := msgVc m
  pumpPort (modPort s p (fun x => { x with tx := setAt x.tx v (txOf x v ++ [{ m := m, rest := encMsg m, begun := false }]) })) p

/-! ### Routing (12 R289-R292) -/

/-- A die's route entry for a destination. -/
def routeOf (s : State) (die dst : Nat) : Nat := regGet s (regAddr .fab die (0x100000 + 8 * dst))

/-- The queue of a port on a channel as R290 counts it from a die. -/
def portLoad (s : State) (die v p : Nat) : Nat :=
  let x := portOf s p
  let q := queuedFlits x v
  (if x.st = 6 then 2 * q else q) + (if p % 4 = die then 0 else 32)

/-- The least loaded of some ports, ties to the lowest number. -/
def leastPort (s : State) (die v : Nat) (ps : List Nat) : Option Nat :=
  ps.foldl (fun (b : Option Nat) p => match b with
    | none => some p
    | some q => if portLoad s die v p < portLoad s die v q then some p else some q) none

/-- The port on which a die sends an item (R290); a retransmission avoids the port `avoid` where the choice leaves another (R281, log
entry 45). -/
def choosePort (s : State) (die dst v : Nat) (avoid : Option Nat) : Option Nat :=
  let e := routeOf s die dst
  if !e.testBit 63 then none
  else
    let live := (List.range 16).filter (portLive s)
    let mins := live.filter (fun p => e.testBit p)
    let falls := live.filter (fun p => e.testBit (16 + p))
    let least := fun (ps : List Nat) =>
      let others := ps.filter (fun p => some p != avoid)
      leastPort s die v (if others.isEmpty then ps else others)
    let spill := field (regGetD s (regAddr .fab die 0) 0x800805) 16 12
    match least mins, least falls with
    | none, f => f
    | some m, none => some m
    | some m, some f =>
      if mins.all (fun p => decide (spill < queuedFlits (portOf s p) v)) && decide (portLoad s die v f < portLoad s die v m) then some f
      else some m

/-- A response sent (12 R276): on the port its destination's die chooses; without one it is lost, and the source's timer covers it (log
entry 45). -/
def sendResp (s : State) (r : Resp) : State :=
  match choosePort s (r.dst.toNat % 4) r.dst.toNat 1 none with
  | some p => pushItem { s with fab := { s.fab with out := s.fab.out ++ [.resp (some p) r] } } p (.resp r)
  | none => { s with fab := { s.fab with out := s.fab.out ++ [.resp none r] } }

/-- The port of an unacknowledged transaction set. -/
def setTxnPort (s : State) (t : Txn) (p : Option Nat) : State :=
  { s with fab := { s.fab with conns := SMap.mod s.fab.conns t.dst.toNat (fun (c : Conn) =>
      { c with unack := c.unack.map (fun (u : Unack) => if u.t.seq = t.seq then { u with port := p } else u) }) } }

/-- Transactions held at the source for want of a port go out once one is eligible (R290). -/
def sendHeld (s : State) : State :=
  s.fab.conns.foldl (fun s (e : Nat × Conn) =>
    (e.2.unack.filter (fun (u : Unack) => u.port.isNone)).foldl (fun s u =>
      match choosePort s (e.1 % 4) e.1 (msgVc (.txn u.t)) none with
      | some p =>
        let s := setTxnPort s u.t (some p)
        pushItem { s with fab := { s.fab with out := s.fab.out ++ [.txn p u.t] } } p (.txn u.t)
      | none => s) s) s

/-- An item whose port left the route set, routed again (R291): held at the source where there is no other port (R290). -/
def reroute (s : State) (p : Nat) (m : FabMsg) : State :=
  let own := match m with
    | .txn t => some t.src == s.fabricId
    | .resp r => some r.src == s.fabricId
  let die := if own then msgDst m % 4 else p % 4
  match choosePort s die (msgDst m) (msgVc m) none, m with
  | some q, .txn t => let s := pushItem s q m; if own then setTxnPort s t (some q) else s
  | some q, .resp _ => pushItem s q m
  | none, .txn t =>
    if !own then bump0 s .fab (p % 4) 0x030
    else if t.ty = 7 then { s with fab := { s.fab with waiting := s.fab.waiting ++ [{ t := t, who := .mcp }] } }
    else setTxnPort s t none
  | none, .resp _ => if own then s else bump0 s .fab (p % 4) 0x030

/-- The items of a port that no flit has begun leave it and are routed again (R291). -/
def rerouteAll (s : State) (p : Nat) : State :=
  let x := portOf s p
  let gone := x.tx.flatMap (fun l => (l.filter (fun (i : TxItem) => !i.begun)).map (·.m))
  let s := setPort s p { x with tx := x.tx.map (fun l => l.filter (fun (i : TxItem) => i.begun)) }
  gone.foldl (fun s m => reroute s p m) s

/-! ### Failure (R257, R258, R270) -/

/-- The upstream port of fabric time: none for the grandmaster (R266). -/
def upstream (s : State) : Option Nat :=
  let v := regGet s (regAddr .ftm 0 0)
  if v % 4 = 2 then none else some (field v 4 4)

/-- A record of a port (15 Table 15.3 kind LINK): CORRECTED (log entry 46). -/
def linkErr (s : State) (p info : Nat) : State :=
  logErr s
    { faultId := BitVec.ofNat 32 (4 * 2 ^ 28 + (selfId s).toNat * 0x10000 + p), source := errSource (p % 4) 8 (p / 4), cls := 5, sev := 0,
      injected := false, address := 0, count := 1, ctx := 0xFF, info := BitVec.ofNat 8 info }

/-- A port leaves the route set: what no flit has begun is routed again, and an upstream port's loss starts HOLDOVER, which goes on at the last rate
correction. The spec gives that no value but a bound: it is a free one of at most 50 ns per ms (R270, log entry 95). -/
def leaveSet (s : State) (p : Nat) : State :=
  let s := rerouteAll s p
  if upstream s == some p && s.fab.ftm.holdover.isNone then
    let r := drawNat s
    { r.2 with fab := { r.2.fab with ftm := { r.2.fab.ftm with
        holdover := some s.now, slew := 0, rate := ((r.1 % 101 : Nat) : Int) - 50, rateAcc := 0 } } }
  else s

/-- A port becomes FAILED (R257); flits that no frame has carried are not sent. -/
def portFail (s : State) (p cause retrain : Nat) : State :=
  let s := modPort s p (fun x => { x with st := 8, txFlits := [], cause := cause, failedAt := some (x.failedAt.getD s.now), since := s.now, retrain := retrain })
  leaveSet (linkErr s p cause) p

/-- Whether the link of a port is up, so that R257 applies. -/
def linkUp (x : Port) : Bool := x.st == 5 || x.st == 6 || x.st == 7

/-- A lane cause of R257: FAILED, and DEGRADE flits carry the mask of healthy receive lanes (R258). -/
def laneFail (s : State) (p cause lane : Nat) : State :=
  let s := modPort s p (fun x => { x with health := setField x.health lane 1 0 })
  let s := portFail s p cause 1
  sendCtl s p 5 (natBytes 2 (portOf s p).health)

/-- A port is DOWN: it discards every flit it holds, and firmware logs a record (R258, 12 R292). -/
def portDown (s : State) (p : Nat) : State :=
  let s := modPort s p (fun x => { Port.reset with
    st := 9, cause := x.cause, reversed := x.reversed, miswired := x.miswired, health := x.health, peerMask := x.peerMask, peer := x.peer,
    serial := x.serial, frames := x.frames, since := s.now })
  linkErr s p (portOf s p).cause

/-- A port put out of service by firmware (R271): DISABLED, nothing driven. -/
def portDisable (s : State) (p : Nat) : State :=
  let live := portLive s p
  let s := modPort s p (fun x => { x with st := 0 })
  let s := if live then leaveSet s p else s
  setPort s p Port.reset

/-! ### Receiving (R250-R256) -/

/-- ACK and credit returns of a flit (R252, R253, R255). -/
def takeCtl (h : FlitHdr) (x : Port) : Port :=
  let add := fun (l : List Nat) (v n : Nat) => setAt l v (nth l v 0 + n)
  let x := { x with credits := add (add x.credits h.crvc0 h.crcnt0) h.crvc1 h.crcnt1 }
  if h.ackv then { x with peerAck := h.ack, replay := x.replay.dropWhile (fun (f : RFlit) => decide ((h.ack + 4096 - f.lseq) % 4096 < 2048)) } else x

/-- A RETRY_REQ sent (R256). -/
def sendRetry (s : State) (p : Nat) : State :=
  let s := modPort s p (fun x => { x with want := true, retries := x.retries + 1, lastRetry := s.now })
  lnkBump (sendCtl s p 2 []) p 0x058 1

/-- A flit discarded as corrupt or lost: the first asks for a replay (R256). -/
def discardFlit (s : State) (p : Nat) : State := if (portOf s p).want then s else sendRetry s p

/-- Whether a port's receiver takes flits. -/
def receives (x : Port) : Bool := x.st == 4 || linkUp x || x.st == 8

/-- The codewords of a frame counted, as corrected or as uncorrectable; each once, with the frame's first flit (R271). -/
def countCw (s : State) (p : Nat) (e : Nat × Nat) : State :=
  let n : (Nat → Bool) → Nat := fun f => b2n (f e.1) + b2n (f e.2)
  lnkBump (lnkBump s p 0x040 (n fecFixed)) p 0x048 (n (fun k => decide (15 < k)))

/-- A flit arrives on a port for a command that takes flits of one KIND: corrupt ones are counted and discarded (R250, R251); a good one of
another KIND is not this command's. -/
def onFlit (p kind : Nat) (raw : Flit) (act : FlitHdr → State → State) (s : State) : Out :=
  let x := portOf s p
  if s.pkg.held || !receives x then .next s
  else if flitOk raw && (flitHdr raw.bytes).kind != kind then .next s
  else
    let s := if raw.place = 0 then countCw s p raw.errs else s
    if flitLost raw then .next (discardFlit s p)
    else if !flitOk raw then .next (discardFlit (lnkBump s p 0x050 1) p)
    else
      let h := flitHdr raw.bytes
      let s := modPort s p (fun x => { takeCtl h x with lastRx := s.now })
      .next (pumpPort (act h s) p)

/-- A field of a flit's bytes. -/
def flitFld (raw : Flit) (off n : Nat) : Nat := bytesNat ((raw.bytes.drop off).take n)

/-- DATA_FLIT_RECEIVE (R253, R255, R256): accepted in LSEQ order; an accepted LSEQ again is discarded and its credit returned; one beyond is
lost. -/
def execDataFlitReceive (p : Fin 16) (raw : Flit) (s : State) : Out :=
  onFlit p.val 1 raw (fun h s =>
    let x := portOf s p.val
    let d := (h.lseq + 4096 - x.expect) % 4096
    if !(x.st == 5 || x.st == 6) then s
    else if 2048 ≤ d then setPort s p.val { x with owed := modAt x.owed h.vc (fun n => n + 1) }
    else if d = 0 && (!x.want || h.replay) then
      let data := (raw.bytes.drop 12).take h.paylen
      let x := { x with expect := (x.expect + 1) % 4096, want := false, retries := 0, ackDue := true }
      let x := if data.isEmpty then { x with owed := modAt x.owed h.vc (fun n => n + 1) }
        else { x with rx := modAt x.rx h.vc (fun l => l ++ [data]) }
      lnkBump (setPort s p.val x) p.val 0x038 1
    else discardFlit s p.val) s

/-- A replay from the flit after an ACK (R256): every flit resent in order, REPLAY on the first. -/
def replayFrom (s : State) (p : Nat) : State :=
  let fs := (portOf s p).replay
  let s := (List.range fs.length).foldl (fun s i =>
    match fs[i]? with
    | some f => lnkBump (sendData s p f (i == 0)) p 0x060 1
    | none => s) s
  modPort s p (fun x => { x with replayFrom := ((fs.head?.map (·.lseq)).getD x.lseq), replayEnd := s.now + (fs.length * 2418 + 999) / 1000 })

/-- RETRY_REQ_RECEIVE (R256): the sender replays from ACK + 1; a repeated request while that replay is in progress is ignored. -/
def execRetryReqReceive (p : Fin 16) (raw : Flit) (s : State) : Out :=
  onFlit p.val 2 raw (fun h s =>
    let x := portOf s p.val
    if decide (s.now < x.replayEnd) && x.replayFrom == (h.ack + 1) % 4096 then s
    else if portLive s p.val && !x.replay.isEmpty then replayFrom s p.val
    else s) s

/-- IDLE_RECEIVE (R252): ACK and credit returns only. -/
def execIdleReceive (p : Fin 16) (raw : Flit) (s : State) : Out := onFlit p.val 0 raw (fun _ s => s) s

/-- RETRY_REQ_REPEAT (R256, R257): the request is repeated every microsecond; after 16 without an advance the port is FAILED. -/
def execRetryReqRepeat (p : Fin 16) (s : State) : Out :=
  let x := portOf s p.val
  if linkUp x && x.want && decide (x.lastRetry + 1000 ≤ s.now) then
    if 16 ≤ x.retries then .next (portFail s p.val 2 3) else .next (sendRetry s p.val)
  else .next s

/-- ALIGNMENT_FRAME_RECEIVE (R250): lane order, polarity and the frame count; one with an uncorrectable codeword says nothing. -/
def execAlignmentFrameReceive (p : Fin 16) (fr : AlignFrame) (s : State) : Out :=
  let x := portOf s p.val
  if x.st == 3 || receives x then
    let s := countCw s p.val fr.errs
    .next (if 15 < fr.errs.1 || 15 < fr.errs.2 then s
      else setPort s p.val { x with frames := fr.count.toNat, reversed := fr.reversed, polarity := fr.polarity.toNat })
  else .next s

/-- LINK_SILENCE_TIMEOUT (R257). -/
def execLinkSilenceTimeout (p : Fin 16) (s : State) : Out :=
  let x := portOf s p.val
  if linkUp x && decide (x.lastRx + 4000 ≤ s.now) then .next (portFail s p.val 1 3) else .next s

/-- LANE_LOCK_LOSS (R257, R258). -/
def execLaneLockLoss (p lane : Fin 16) (s : State) : Out :=
  let x := portOf s p.val
  if linkUp x && (activeLanes x).testBit lane.val then .next (laneFail s p.val 3 lane.val) else .next s

/-- LANE_ERROR_LIMIT (R257, R258): `errors` symbol errors of a lane within 1 ms. -/
def execLaneErrorLimit (p lane : Fin 16) (errors : Nat) (s : State) : Out :=
  let x := portOf s p.val
  if linkUp x && (activeLanes x).testBit lane.val && decide (field (lnkCfg s p.val) 24 8 * 2 ^ 16 < errors) then
    .next (laneFail s p.val 4 lane.val)
  else .next s

/-- The retrain both ends agree on from the intersection of their masks (R258). -/
def agreeHalf (s : State) (p : Nat) : State :=
  modPort s p (fun x =>
    let m := x.health &&& x.peerMask
    if m % 256 = 255 then { x with retrain := 2, high := false }
    else if m / 256 % 256 = 255 then { x with retrain := 2, high := true }
    else { x with retrain := 3 })

/-- DEGRADE_RECEIVE (R258): the end becomes FAILED, answers with its own mask where it has not sent one, and both form the intersection. An end that is
FAILED already for another cause than a lane has sent none. -/
def execDegradeReceive (p : Fin 16) (raw : Flit) (s : State) : Out :=
  onFlit p.val 5 raw (fun _ s =>
    let s := modPort s p.val (fun x => { x with peerMask := flitFld raw 12 2 })
    let x := portOf s p.val
    if linkUp x then
      let s := portFail s p.val x.cause 1
      agreeHalf (sendCtl s p.val 5 (natBytes 2 x.health)) p.val
    else if x.st = 8 && x.retrain = 1 then agreeHalf s p.val
    else if x.st = 8 && x.retrain = 3 && (x.cause = 1 || x.cause = 2) then agreeHalf (sendCtl s p.val 5 (natBytes 2 x.health)) p.val
    else s) s

/-- PORT_DOWN_TIMEOUT (R258): not ACTIVE or DEGRADED 10 ms after becoming FAILED. -/
def execPortDownTimeout (p : Fin 16) (s : State) : Out :=
  match (portOf s p.val).failedAt with
  | some t => if decide (t + 10000000 ≤ s.now) && !portLive s p.val then .next (portDown s p.val) else .next s
  | none => .next s

/-! ### Bring-up (R261, R262, Tables 11.5, 11.6) -/

/-- The board position sampled from the straps (19 R428): DPT MODULE_ID[19:16]; 15 when above 8. -/
def boardPos (s : State) : Nat := field (dptVal s 5) 16 4

/-- A port's free slots (R253, R259) as its PARAM flit advertises them: a slot whose credit is still owed after that flit is advertised by its return. -/
def freeSlots (x : Port) : List Nat :=
  let owed := (takeOwed x.owed).2.2
  (List.range 4).map (fun v => (if v = 3 then 32 else 256) - (nth x.rx v []).length - nth owed v 0)

/-- The payload of a PARAM flit from offset 0x0C on (Table 11.6). -/
def paramPayload (s : State) (p : Nat) : List Byte :=
  let x := portOf s p
  natBytes 8 (dptVal s 0xF0) ++ natBytes 4 (s.fab.boardId) ++ [BitVec.ofNat 8 (boardPos s), BitVec.ofNat 8 p]
    ++ [BitVec.ofNat 8 (b2n s.fab.relay), if x.half then 8 else 16] ++ (freeSlots x).flatMap (natBytes 2)
    ++ natBytes 2 ((selfId s).toNat + b2n s.fabricId.isSome * 2 ^ 15)

/-- A PARAM flit sent. -/
def sendParam (s : State) (p : Nat) : State :=
  let pay := paramPayload s p
  sendCtl (modPort s p (fun x => { x with lastParam := s.now })) p 4 pay

/-- A new PARAM exchange on every ACTIVE or DEGRADED port (R264, R451). -/
def announce (s : State) : State :=
  (List.range 16).foldl (fun s p => if portLive s p then modPort (sendParam s p) p (fun x => { x with asked := true }) else s) s

/-- A port enters PARAM and sends PARAM, whose free slots stand for every credit owed (R259). -/
def enterParam (s : State) (p : Nat) : State :=
  sendParam (modPort s p (fun x => { x with st := 4, owed := List.replicate 4 0, since := s.now, want := false, retries := 0, retrain := 0, lastRx := s.now })) p

/-- The wiring check of R262: own position and port, BOARD_ID; the peer's. -/
def wiringOk (s : State) (p board pos port : Nat) : Bool :=
  let own := s.fab.boardId
  decide (pos ≤ 8) &&
  (if p < 8 then decide (boardPos s ≤ 8) && port == 7 - p && pos == (boardPos s + p + 1) % 9 && (board == own || board == 0)
   else board != own || board == 0)

/-- PARAM_RECEIVE (R259, R261, R262): the peer is noted; in PARAM the wiring is checked, credits are set, PARAM is sent once in reply, and the port
enters the route set and replays what is not acknowledged. On a live port one that says something new opens the exchange of R264; the others
are replies. -/
def execParamReceive (p : Fin 16) (raw : Flit) (s : State) : Out :=
  onFlit p.val 4 raw (fun _ s =>
    let k := p.val
    let board := flitFld raw 0x14 4
    let pos := flitFld raw 0x18 1
    let port := flitFld raw 0x19 1
    let mid := flitFld raw 0x24 2
    let old := (portOf s k).peer
    let s := modPort s k (fun x => { x with
      serial := flitFld raw 0x0C 8,
      peer := board * 2 ^ 32 + pos % 16 * 2 ^ 24 + port % 16 * 2 ^ 16 + flitFld raw 0x1A 1 % 2 * 2 ^ 12 + mid % 4096 })
    let x := portOf s k
    if x.st = 4 then
      if wiringOk s k board pos port then
        let s := sendParam s k
        let s := modPort s k (fun x => { x with
          st := if x.half then 6 else 5, since := s.now, left := none, failedAt := none, health := if x.half then x.health else 0xFFFF,
          credits := (List.range 4).map (fun v => flitFld raw (0x1C + 2 * v) 2) })
        let fs := (portOf s k).replay
        let s := modPort s k (fun x => { x with
          credits := fs.foldl (fun c (f : RFlit) => modAt c f.vc (fun n => n - 1)) x.credits })
        sendHeld (if fs.isEmpty then s else replayFrom s k)
      else modPort (sendParam s k) k (fun x => { x with st := 7, since := s.now, miswired := true })
    else if portLive s k then
      if x.asked then modPort s k (fun x => { x with asked := false }) else if x.peer = old then s else sendParam s k
    else s) s

/-- DEGRADE_RETRAIN_DONE (R258): the half has FEC lock and deskew; the port enters PARAM. -/
def execDegradeRetrainDone (p : Fin 16) (s : State) : Out :=
  let x := portOf s p.val
  if x.st = 8 && x.retrain = 2 then
    .next (enterParam (lnkBump (linkErr (setPort s p.val { x with half := true }) p.val x.cause) p.val 0x068 1) p.val)
  else .next s

/-- PORT_BRINGUP_START (R261): every enabled port starts once the link clocks lock. -/
def execPortBringupStart (s : State) : Out :=
  .next ((List.range 16).foldl (fun s p =>
    if (portOf s p).st = 0 && portEnabled s p then modPort s p (fun x => { x with st := 1, since := s.now }) else s) s)

/-- SIGNAL_DETECT (R261). -/
def execSignalDetect (p : Fin 16) (s : State) : Out :=
  let x := portOf s p.val
  if x.st = 1 then .next (setPort s p.val { x with st := 2, since := s.now, left := some (x.left.getD s.now) }) else .next s

/-- TRAIN_COMPLETE (R248, R258-R261): training ends with the lane order and the polarity found; from FAILED and from a retrain of a live port the link
state is kept. -/
def execTrainComplete (p : Fin 16) (found : TrainFind) (s : State) : Out :=
  let x := portOf s p.val
  if x.st = 2 || (x.st = 8 && x.retrain = 3) then
    let s := setPort s p.val { x with st := 3, since := s.now, reversed := found.reversed, polarity := found.polarity.toNat, half := false, high := false }
    .next (if x.retrain = 3 then lnkBump s p.val 0x070 1 else s)
  else .next s

/-- ALIGN_COMPLETE (R261). -/
def execAlignComplete (p : Fin 16) (s : State) : Out :=
  if (portOf s p.val).st = 3 then .next (enterParam s p.val) else .next s

/-- The maximum time of a bring-up state in ns (Table 11.5). -/
def stateMax (st : Nat) : Option Nat :=
  match st with
  | 2 => some 80000000
  | 3 => some 1000000
  | 4 => some 10000
  | _ => none

/-- BRINGUP_TIMEOUT (R261): 100 ms after DETECT was left the port is DOWN; a state past its maximum returns to DETECT. -/
def execBringupTimeout (p : Fin 16) (s : State) : Out :=
  let x := portOf s p.val
  let late := match x.left with | some t => decide (1 ≤ x.st) && decide (x.st ≤ 4) && decide (t + 100000000 ≤ s.now) | none => false
  if late then .next (portDown s p.val)
  else
    match stateMax x.st with
    | some m => if x.since + m ≤ s.now then .next (setPort s p.val { x with st := 1, since := s.now }) else .next s
    | none => .next s

/-- PARAM_RESEND (R261): every microsecond in PARAM until one is received. -/
def execParamResend (p : Fin 16) (s : State) : Out :=
  let x := portOf s p.val
  if x.st = 4 && decide (x.lastParam + 1000 ≤ s.now) then .next (sendParam s p.val) else .next s

/-! ### LNK_CTRL (R260, R271) -/

/-- LNK_CTRL.RETRAIN (R260): a live port leaves the route set and retrains to full width; a port out of service is brought up whole. -/
def lnkRetrain (s : State) (p : Nat) : State :=
  let x := portOf s p
  if portLive s p then
    leaveSet (setPort s p { x with st := 2, since := s.now, retrain := 3, left := some s.now }) p
  else if (x.st = 9 || x.st = 0 || x.st = 7) && portEnabled s p then
    setPort s p { Port.reset with st := 1, since := s.now, cause := x.cause }
  else s

/-- The counters of the LNK block. -/
def lnkCounters : List Nat := offs 0x030 0x078

/-- LNK_CTRL: CLR_COUNTS, RETRAIN, DISABLE. -/
def lnkCtrl (w : RegWr) (s : State) : Out :=
  ctlWrite w .lnk (fun off => off == 0x020) fwOnly (fun u _ v s =>
    let p := u
    let s := clearIf v 0 .lnk lnkCounters u s
    if v.testBit 2 then portDisable s p else if v.testBit 1 then lnkRetrain s p else s) s

/-- LNK_CLR_COUNTS (R271). -/
def execLnkClrCounts (w : RegWr) (s : State) : Out := lnkCtrl w s
/-- LNK_RETRAIN (R260). -/
def execLnkRetrain (w : RegWr) (s : State) : Out := lnkCtrl w s
/-- LNK_DISABLE (R271). -/
def execLnkDisable (w : RegWr) (s : State) : Out := lnkCtrl w s

/-- LNK_STATUS (Table 11.11). -/
def lnkStatus (x : Port) : Nat :=
  x.st + x.cause * 2 ^ 4 + b2n (x.half && x.high) * 2 ^ 9 + b2n x.reversed * 2 ^ 10 + b2n x.miswired * 2 ^ 11 + x.peerAck * 2 ^ 12
    + (x.expect + 4095) % 4096 * 2 ^ 24

/-! ### Fabric time (R265-R270) -/

/-- Fabric time changed. -/
def modFtm (s : State) (f : FtmSt → FtmSt) : State := { s with fab := { s.fab with ftm := f s.fab.ftm } }

/-- A number put into a rising list, repeats kept. -/
def insertInt : List Int → Int → List Int
  | [], x => [x]
  | y :: ys, x => if x ≤ y then x :: y :: ys else y :: insertInt ys x

/-- The median of a list; of an even number of values, a free value from the lower to the upper of the two in the middle (log entry 47). -/
def medianOf (s : State) (l : List Int) : Int × State :=
  let t := l.foldl insertInt []
  let n := t.length
  if n % 2 = 1 then (nth t (n / 2) 0, s)
  else
    let lo := nth t (n / 2 - 1) 0
    let hi := nth t (n / 2) 0
    let r := drawNat s
    (lo + ((r.1 % ((hi - lo).toNat + 1) : Nat) : Int), r.2)

/-- A step of fabric time forward, whole cycles of 4 ns; the offsets taken before are to the time before the step. -/
def stepTime (s : State) (d : Int) : State :=
  let k : Nat := d.toNat / 4 * 4
  modFtm { s with ftime := s.ftime + k } (fun f => { f with win := f.win.map (fun w => (w.1 - (k : Int), w.2)), slew := d - (k : Int) })

/-- A filtered offset taken (R267): before SYNCED is first set the counter steps, forward only (R265); after that it slews (R270); beyond 1 µs it steps
forward or slews and SYNCED clears. -/
def takeOffset (s : State) (off delay : Int) : State :=
  let f := s.fab.ftm
  let near := decide (-8 ≤ off) && decide (off ≤ 8)
  let good := if near then f.good + 1 else 0
  let far := decide (1000 < off) || decide (off < -1000)
  let s := modFtm s (fun f => { f with offset := off, delay := delay, slew := off, good := good, holdover := none, rate := 0, rateAcc := 0 })
  if f.synced then
    if far then
      let s := modFtm s (fun f => { f with synced := false, good := 0 })
      if 0 < off then stepTime s off else s
    else s
  else
    let s := if 0 < off && !f.was then stepTime s off else s
    if 16 ≤ good then modFtm s (fun f => { f with synced := true, was := true }) else s

/-- An exchange with a source of time: the upstream, by its port, or 16 for the TSYNC pulse (R266, R267, R269). Exchanges with another source count no
longer. -/
def ftmExchange (s : State) (src : Nat) (off delay : Int) : State :=
  let s := modFtm s (fun f => { f with src := src, win := ((off, delay) :: (if f.src = src then f.win else [])).take 16 })
  let o := medianOf s (s.fab.ftm.win.map (·.1))
  let d := medianOf o.2 (s.fab.ftm.win.map (·.2))
  takeOffset d.2 o.1 d.1

/-- FF_PIN.TSYNC_EN is set and no conflict exists (R269, 10 R244): FFLY1 is not bound to a line. -/
def tsyncActive (s : State) : Bool := let v := regGet s (regAddr .syn 0 0x108); v.testBit 8 && !v.testBit 7

/-- Whether the TSYNC pulse replaces the heartbeat offset: of a module that is not its board's time master (R269). -/
def tsyncFollows (s : State) : Bool := tsyncActive s && regGet s (regAddr .ftm 0 0) % 4 == 0

/-- HEARTBEAT_SEND (R266): every microsecond on a live port. -/
def execHeartbeatSend (p : Fin 16) (s : State) : Out :=
  let x := portOf s p.val
  if portLive s p.val && (match x.lastHb with | some t => decide (t + 1000 ≤ s.now) | none => true) then
    let e := x.hb.getD (0, 0)
    .next (sendCtl (setPort s p.val { x with lastHb := some s.now }) p.val 3 (natBytes 8 s.ftime ++ natBytes 8 e.1 ++ natBytes 8 e.2))
  else .next s

/-- HEARTBEAT_RECEIVE (R266, R267, R269): one from the upstream that echoes an own HEARTBEAT closes an exchange. -/
def execHeartbeatReceive (p : Fin 16) (raw : Flit) (s : State) : Out :=
  onFlit p.val 3 raw (fun _ s =>
    let t1 := flitFld raw 20 8
    let t2 := flitFld raw 28 8
    let t3 := flitFld raw 12 8
    let t4 := s.ftime
    let s := modPort s p.val (fun x => { x with hb := some (t3, t4) })
    if upstream s == some p.val && portLive s p.val && (t1 != 0 || t2 != 0) && !tsyncFollows s then
      let a := signed 64 (t2 + 2 ^ 64 - t1)
      let b := signed 64 (t4 + 2 ^ 64 - t3)
      ftmExchange s p.val (Int.tdiv (a - b) 2) (Int.tdiv (signed 64 (t4 + 2 ^ 64 - t1) - signed 64 (t3 + 2 ^ 64 - t2)) 2)
    else s) s

/-- An MGMT transaction to a module waits to be sent; its TAG is the MCP's (12 R272, Table 12.2). -/
def sendMgmt (s : State) (dst : Nat) (m : Config.Mgmt) : State :=
  let w := Config.mgmtWrite m
  let t : Txn :=
    { ty := 7, op := w.1, flag := false, noalloc := false, retx := false, dst := BitVec.ofNat 12 dst, src := selfId s, tag := 255, ridx := 0, addr := 0,
      len := w.2.length, sctx := 0xFF, key := 0, seq := 0, arg0 := 0, arg1 := 0, payload := w.2 }
  fabEnter s [{ t := t, who := .mcp }]

/-- The module IDs of the mesh peers. -/
def meshPeers (s : State) : List Nat :=
  (((List.range 8).map (fun p => (portOf s p).peer)).filter (fun x => x != 0)).map (fun x => x % 4096)

/-- TSYNC_EDGE (R269): the fabric time is latched; a time master sends its latch to the board in FTM messages on MGMT. -/
def execTsyncEdge (s : State) : Out :=
  if tsyncActive s then
    let s := modFtm s (fun f => { f with latch := some s.ftime })
    .next (if tsyncFollows s then s else (meshPeers s).foldl (fun s m => sendMgmt s m (.latch s.ftime)) s)
  else .next s

/-- A latch for the edge from module `src`, in an MGMT message: that of the board's time master, which the upstream port reaches (R266, R269). -/
def tsyncOffset (s : State) (src master : Nat) : State :=
  match s.fab.ftm.latch, upstream s with
  | some t, some p =>
    if tsyncFollows s && (portOf s p).peer % 4096 == src then
      ftmExchange (modFtm s (fun f => { f with latch := none })) 16 (signed 64 (master + 2 ^ 64 - t)) s.fab.ftm.delay
    else s
  | _, _ => s

/-! ### Frames (R250, R252) -/

/-- Whether a port drives frames: from ALIGN on, and while FAILED (R258). -/
def framing (x : Port) : Bool := x.st == 3 || receives x

/-- One frame of a port: of every 16,384 an alignment frame, which carries no flits; else the next five flits, IDLE where there are fewer. -/
def portFrame (s : State) (p : Nat) : State :=
  let x := portOf s p
  let put : State → OutItem → State := fun s o => { s with fab := { s.fab with out := s.fab.out ++ [o] } }
  if x.txFrames % 16384 = 0 then
    let lanes := (List.range 16).filter (fun l => (activeLanes x).testBit l)
    put (modPort s p (fun x => { x with txFrames := (x.txFrames + 1) % 2 ^ 24 }))
      (.align p x.txFrames (lanes.map (fun l => (l, x.reversed, x.polarity.testBit l))))
  else
    let s := (List.range (5 - x.txFlits.length)).foldl (fun s _ => sendCtl s p 0 []) s
    let y := portOf s p
    let r := frameLanes (if y.half then 8 else 16) y.txFrames y.scr (y.txFlits.take 5)
    put (setPort s p { y with txFlits := y.txFlits.drop 5, txFrames := (y.txFrames + 1) % 2 ^ 24, scr := r.2 }) (.frame p r.1)

/-- One ns of a port's lanes: 900 bits at full width, 450 at half; a frame has 10,880 (Table 11.2). -/
def framesTick (s : State) (p : Nat) : State :=
  let x := portOf s p
  if framing x then
    let b := x.txBits + (if x.half then 450 else 900)
    if b < 10880 then setPort s p { x with txBits := b } else portFrame (setPort s p { x with txBits := b - 10880 }) p
  else s

/-- HOLDOVER_LIMIT (R270): 50 ns per millisecond exceed 100 ns after 2 ms, and SYNCED clears. -/
def execHoldoverLimit (s : State) : Out :=
  match s.fab.ftm.holdover with
  | some t => if s.fab.ftm.synced && decide (t + 2000000 < s.now) then .next (modFtm s (fun f => { f with synced := false, good := 0 })) else .next s
  | none => .next s

end Sys2Proof.Machine
end

