-- ==== Sys2Proof/Machine/Fabric.lean ====
section
/-! DEFINITION. Fabric transactions (12; 09 R213-R219): the source side (numbering, sending, retransmission, responses, timeouts, the fabric queue) and
the target side (admission, holds, landing, acknowledgement), transit. -/

namespace Sys2Proof.Machine

/-! ### Connections -/

/-- A connection changed. -/
def modConn (s : State) (peer : Nat) (f : Conn → Conn) : State :=
  { s with fab := { s.fab with conns := SMap.put s.fab.conns peer (f (connOf s peer)) } }

/-- A connection looked up by the port group of its die (R282): 512 are cached; a miss is counted, and which one leaves is a free value. -/
def touchConn (s : State) (peer : Nat) : State :=
  let d := peer % 4
  let c := SMap.getD s.fab.cached d []
  if c.contains peer then s
  else
    let s := bump0 s .fab d 0x070
    let r : Nat × State := if c.length < 512 then (512, s) else drawNat s
    let c' := peer :: (if c.length < 512 then c else dropAt c (r.1 % 512))
    { r.2 with fab := { r.2.fab with cached := SMap.put r.2.fab.cached d c' } }

/-! ### The end of a transaction at its issuer (R295-R298) -/

/-- How a transaction ends. -/
inductive TxnEnd where
  | data (bs : List Byte)
  | value (v : W32)
  | acked
  | nak (status : Nat)
  | timeout
  | reset
  | down
  deriving DecidableEq, Repr

/-- Whether it is a failure. -/
def TxnEnd.failed : TxnEnd → Bool
  | .data _ | .value _ | .acked => false
  | _ => true

/-- The park cause of a thread (R296-R298). -/
def TxnEnd.threadCause : TxnEnd → Nat
  | .nak st => if st = 9 then 0x03 else if st = 5 then 0x62 else 0x05
  | .timeout => 0x04
  | .down => 0x64
  | _ => 0x05

/-- The fault of a fabric-queue instruction (Table 12.9). -/
def TxnEnd.fabqCause : TxnEnd → Nat
  | .nak st => if st = 5 then 0x62 else if st = 7 then 0x65 else 0x61
  | .timeout => 0x63
  | .down => 0x64
  | _ => 0x61

/-- The cause of a descriptor. -/
def TxnEnd.dmaCause : TxnEnd → Nat
  | .nak st => if st = 9 then 0x33 else 0x34
  | .timeout => 0x35
  | .down => 0x35
  | _ => 0x34

/-- The cause of a bucket or run (13 R317, 14 R335): 1 TIMEOUT, 2 NAK, 3 ECC. -/
def TxnEnd.seqCause : TxnEnd → Nat
  | .nak st => if st = 9 then 3 else 2
  | .timeout => 1
  | .down => 1
  | _ => 2

/-- The NAK STATUS of a failure. -/
def TxnEnd.status : TxnEnd → Nat
  | .nak st => st
  | .reset => 10
  | _ => 0

/-- The old values that the threads of one part of an atomic receive, in lane order (07 R152). -/
def partOlds (op : AtOp) : W32 → List Lane → List Lane
  | _, [] => []
  | x, l :: ls => { l with old := BitVec.ofNat 64 x.toNat } :: partOlds op (if op == .add then x + BitVec.ofNat 32 l.v.toNat else x) ls

/-- The lanes of an access with those of a part replaced. -/
def putLanes (a : Access) (ls : List Lane) : List Lane :=
  a.lanes.map (fun (l : Lane) => (ls.find? (fun (x : Lane) => x.tid == l.tid)).getD l)

/-- An access whose part has ended: later parts of the same address enter, or the access is performed (R152, R185). -/
def partOver (s : State) (n id : Nat) (a : Access) : State :=
  if a.todo.isEmpty && a.entered.isEmpty && a.unanswered.isEmpty then retireAcc s n id { a with st := .done }
  else
    let e := enterParts s n id a
    modCore e.2 n (fun c => { c with accs := SMap.put c.accs id e.1 })

/-- The end of a part of a thread's access. Loads and atomics with return fault in the threads concerned at LOAD_RETURN; of stores, ACCUMs and atomics
with NORET the group parks at its next instruction boundary (Table 12.10). -/
def threadEnd (s : State) (n id part : Nat) (t : Txn) (e : TxnEnd) : State :=
  match SMap.get? (coreOf s n).accs id with
  | none => s
  | some a =>
    let ls := partLanes a part
    let a := { a with entered := a.entered.filter (fun p => p != part), unanswered := a.unanswered.filter (fun p => p != part) }
    let peer := match a.place with | .module i => i | _ => 0
    let returns := match a.op with | .ld _ _ => true | .at _ noret => !noret | _ => false
    let isPf := match a.op with | .pref _ => true | _ => false
    if e.failed then
      if isPf then retireAcc (if a.late then s else bump s .slc (farSlice s n (globLine a)) 0x100 a.ctx) n id { a with st := .done }
      else if returns then
        let m := match a.op with | .ld _ _ => accMask a | _ => maskOf (ls.map (·.tid))
        partOver s n id { a with bad := a.bad ||| m, badCause := if a.bad = 0 then e.threadCause else a.badCause }
      else
        partOver (deferFault s n a.age e.threadCause a.pc 0 (peer * 2 ^ 48 + partAddr a part) 0 0 (causeContained e.threadCause)) n id a
    else
      match e, a.op with
      | .data bs, .ld size _ =>
        let lanes := a.lanes.map (fun (l : Lane) =>
          { l with old := BitVec.ofNat 64 (bytesNat ((bs.drop (l.addr - t.addr.toNat)).take size)) })
        let a := { a with lanes := lanes }
        if bs.length = 128 && farAllowed s n a peer then
          modCore s n (fun c => { c with accs := SMap.put c.accs id { a with st := .response, data := bs } })
        else
          let s := if a.dead then dropLines s (farSlice s n (globLine a)) (isFar (globLine a)) else s
          retireAcc s n id { a with st := .done }
      | .data bs, .pref _ => modCore s n (fun c => { c with accs := SMap.put c.accs id { a with st := .response, data := bs } })
      | .value v, .at op noret =>
        let a := if noret then a else { a with lanes := putLanes a (partOlds op v ls) }
        let lost : BitVec 32 := if op == .cas then maskOf ((ls.filter (fun (l : Lane) => l.cmp != v)).map (·.tid)) else 0
        lockFailed (partOver s n id a) n a.age lost
      | _, _ => partOver s n id a

/-- The end of a fabric-queue instruction (R295): a failure removes it and every later entry of its group, and the group parks. -/
def fabqEnd (s : State) (n age ord : Nat) (e : TxnEnd) : State :=
  let q := (coreOf s n).fabq
  match q.find? (fun (x : FabEntry) => x.age == age && x.ord == ord) with
  | none => s
  | some x =>
    if e.failed then
      let gone : FabEntry → Bool := fun y => y.age == age && decide (ord ≤ y.ord)
      let s := modCore s n (fun c => { c with fabq := c.fabq.filter (fun y => !gone y) })
      settleAge n age (deferFault s n age e.fabqCause x.pc 0 0 0 (q.filter gone).length (causeContained e.fabqCause))
    else settleAge n age (modCore s n (fun c => { c with fabq := c.fabq.filter (fun y => !(y.age == age && y.ord == ord)) }))

/-- The end of a transaction of a DMA or gather descriptor (R296, R297). -/
def engineEnd (s : State) (id part : Nat) (t : Txn) (e : TxnEnd) : State :=
  match SMap.get? s.jobs id with
  | none => s
  | some j =>
    let at_ := t.dst.toNat * 2 ^ 48 + t.addr.toNat
    let j : EngJob :=
      if e.failed then
        if j.failed = 0 then { j with failed := e.dmaCause, failAddr := at_, failStatus := e.status } else j
      else
        match e with
        | .data bs =>
          let a := ((j.reads.find? (fun w => w.1 == part)).map (·.2.1)).getD at_
          { j with
            reads := j.reads.filter (fun w => w.1 != part)
            going := j.going.map (fun (p : EngPiece) => if p.wantR.contains part then
              { p with wantR := p.wantR.filter (fun w => w != part), far := p.far ++ [(a, bs)] } else p) }
        | _ =>
          let ps := j.going.map (fun (p : EngPiece) => { p with acks := p.acks.filter (fun w => w.1 != part) })
          { j with going := ps.filter (fun (p : EngPiece) => !(p.written && p.acks.isEmpty)) }
    { s with jobs := SMap.put s.jobs id j }

/-- The end of a transaction of a checkpoint engine (15 R349, R350): a failure leaves the generation incomplete at that buddy. -/
def ckptPart (s : State) (ctx part : Nat) (ok : Bool) : State :=
  { s with ckpts := SMap.mod s.ckpts ctx (fun (c : Ckpt) =>
    match SMap.get? c.parts part with
    | none => c
    | some (second, _) =>
      { c with parts := SMap.del c.parts part
               failed := if ok then c.failed else if second then (c.failed.1, true) else (true, c.failed.2) }) }

/-- What a sequencer hears of a transaction's end. -/
def seqEnd (e : TxnEnd) : Except Nat (List Byte) :=
  if e.failed then .error e.seqCause else .ok (match e with | .data bs => bs | _ => [])

/-- A transaction ends at its issuer. -/
def txnEnd (s : State) (who : Issuer) (t : Txn) (e : TxnEnd) : State :=
  match who with
  | .thread n id part => threadEnd s n id part t e
  | .fabq n age ord => fabqEnd s n age ord e
  | .engine id part => engineEnd s id part t e
  | .reduction b id => bucketPart s b id (seqEnd e)
  | .update r id => runPart s r id (seqEnd e)
  | .ckpt ctx id => ckptPart s ctx id (!e.failed)
  | .mcp => s

/-! ### Numbering and sending (R277, R290) -/

/-- The FAB counter of a peer's port group. -/
def fabBump (s : State) (peer off : Nat) : State := bump0 s .fab (peer % 4) off

/-- A transaction put on a port, or held at the source where none is eligible (R290). -/
def sendTxn (s : State) (t : Txn) (avoid : Option Nat) : Option Nat × State :=
  match choosePort s (t.dst.toNat % 4) t.dst.toNat (msgVc (.txn t)) avoid with
  | some p => (some p, pushItem { s with fab := { s.fab with out := s.fab.out ++ [.txn p t] } } p (.txn t))
  | none => (none, s)

/-- The last number that some threads of a group have sent to a peer (09 R218). -/
def noteSent (s : State) (n age : Nat) (ts : List Nat) (peer : Nat) (seq : W32) : State :=
  modByAge s n age (fun g => { g with
    sent := g.sent.filter (fun (x : Sent) => !(x.peer == peer && ts.contains x.thread))
      ++ ts.map (fun t => ({ thread := t, peer := peer, seq := seq.toNat } : Sent)) })

/-- What numbering does at the issuer (09 R213, R218): a part has been numbered; a thread that writes remembers the number. -/
def numberedAt (s : State) (who : Issuer) (peer : Nat) (seq : W32) : State :=
  match who with
  | .thread n id part =>
    match SMap.get? (coreOf s n).accs id with
    | none => s
    | some a =>
      let s := modCore s n (fun c => { c with accs := SMap.put c.accs id { a with
        entered := a.entered.filter (fun p => p != part), unanswered := a.unanswered ++ [part] } })
      if a.op.writes then
        noteSent s n a.age ((partLanes a part).map (·.tid)) peer seq
      else s
  | .fabq n age ord =>
    let mine : FabEntry → Bool := fun x => x.age == age && x.ord == ord
    let ts := (((coreOf s n).fabq.find? mine).map (fun x => tids x.mask)).getD []
    noteSent (modCore s n (fun c => { c with fabq := c.fabq.map (fun x => if mine x then { x with sent := true } else x) })) n age ts peer seq
  | _ => s

/-- Whether an engine's transaction waits at its source for the acknowledgement of an earlier write, ACCUM or atomic of the same engine to
one of its lines (09 R204). -/
def engineWaits (c : Conn) (t : Txn) : Bool :=
  let last : Txn → Nat := fun x => (x.addr.toNat + max x.len 4 - 1) / 128
  decide (64 ≤ t.tag.toNat) && decide (1 ≤ t.ty) && decide (t.ty ≤ 4) && c.unack.any (fun (u : Unack) =>
    u.t.tag == t.tag && decide (2 ≤ u.t.ty) && decide (u.t.ty ≤ 4) && decide (u.t.addr.toNat / 128 ≤ last t)
      && decide (t.addr.toNat / 128 ≤ last u.t))

/-- A transaction numbered at the port group of its peer's die and sent (R277). None where it waits: for the window of 4,096, for its engine's earlier write, for a reset, for a
fabric module ID (16 R451), or, of MGMT, for a port. -/
def numberTxn (s : State) (o : OutTxn) : Option State :=
  let peer := o.t.dst.toNat
  let t : Txn := { o.t with src := selfId s }
  if t.ty = 7 then
    let r := sendTxn s { t with seq := 0 } none
    if r.1.isSome then some r.2 else none
  else if s.fabricId.isNone then none
  else
    let c := connOf s peer
    match c.st with
    | .unreachable => some (txnEnd s o.who t .down)
    | .resetting => none
    | _ =>
      if decide (4096 ≤ c.unack.length) || engineWaits c o.t then none
      else
        let t : Txn := { t with seq := c.next }
        let s := fabBump (touchConn s peer) peer 0x018
        let s := modConn s peer (fun c => { c with
          st := .active, next := c.next + 1, unack := c.unack ++ [{ t := t, who := o.who, first := s.now, last := s.now, port := none }] })
        let r := sendTxn (numberedAt s o.who peer t.seq) t none
        some (setTxnPort r.2 t r.1)

/-- Whether an earlier waiting transaction goes to the same peer. -/
def sameAhead (s : State) (i peer : Nat) (mgmt : Bool) : Bool :=
  (s.fab.waiting.take i).any (fun (o : OutTxn) => o.t.dst.toNat == peer && (o.t.ty == 7) == mgmt)

/-- The next fabric-queue entry of a core to dispatch. -/
def fabqNext (s : State) (n : Nat) : Option FabEntry := (coreOf s n).fabq.find? (fun (x : FabEntry) => !x.sent)

/-- The transaction of a fabric-queue entry, or its fault at dispatch (Tables 12.8, 12.9; R285, R298). FMSG copies its entry data. -/
def fabqTxn (s : State) (n : Nat) (x : FabEntry) : Except Nat Txn :=
  let r := regionAt s x.entry
  let perm := if x.op == .msg then r.write else r.accum
  if !(r.valid && r.kind && r.owner == x.ctx && perm) then .error 0x60
  else if (connOf s r.peer.toNat).st == .unreachable then .error 0x64
  else
    let t : Txn :=
      { ty := 5, op := 0, flag := false, noalloc := false, retx := false, dst := r.peer, src := selfId s, tag := BitVec.ofNat 12 n,
        ridx := r.ridx, addr := BitVec.ofNat 48 (x.id % 2 ^ 16), len := 0, sctx := BitVec.ofNat 8 x.ctx, key := r.key, seq := 0,
        arg0 := BitVec.ofNat 32 x.value, arg1 := 0, payload := [] }
    if x.op == .signal then .ok t
    else
      let k := 4 * (x.len + 1)
      match (if k % 32 = 0 && x.value % 32 = 0 then (groupByAge s n x.age).bind (fun g => spadAt g x.value k) else none) with
      | none => .error 0x66
      | some a => .ok { t with ty := 6, addr := BitVec.ofNat 48 (x.id % 2 ^ 20), len := k, arg0 := 0, payload := memBytes s a k }

/-- A fabric-queue entry that faults at dispatch (R295). -/
def fabqFault (s : State) (n : Nat) (x : FabEntry) (cause : Nat) : State :=
  let gone : FabEntry → Bool := fun y => y.age == x.age && decide (x.ord ≤ y.ord)
  let k := ((coreOf s n).fabq.filter gone).length
  let s := modCore s n (fun c => { c with fabq := c.fabq.filter (fun y => !gone y) })
  settleAge n x.age (deferFault s n x.age cause x.pc 0 0 0 k false)

/-- The code of a connection state. -/
def ConnSt.code : ConnSt → Nat
  | .none => 0
  | .active => 1
  | .unreachable => 2
  | .resetting => 3

/-- What FSTATUS returns: the state of a connection, and the transactions to the peer that are not acknowledged (Table 12.8). -/
def connStatus (s : State) (peer : Nat) : W32 × W32 :=
  let c := connOf s peer
  (BitVec.ofNat 32 c.st.code, BitVec.ofNat 32 c.unack.length)

/-- A core's next fabric-queue entry dispatched: an FSTATUS returns its result and leaves, an FQFENCE waits in its place, the others go once their implicit
FENCE of scope 1 has taken effect (R294), and are numbered. -/
def fabqDispatch (s : State) (n : Nat) : State :=
  match fabqNext s n with
  | none => s
  | some x =>
    let mine : FabEntry → Bool := fun y => y.age == x.age && y.ord == x.ord
    if !coreRuns s n then s
    else if x.op == .status then
      let r := connStatus s x.id
      settleAge n x.age (syncReply (modCore s n (fun c => { c with fabq := c.fabq.filter (fun y => !mine y) })) n x.age x.d x.mask r.1 (some r.2))
    else if x.op == .fence then modCore s n (fun c => { c with fabq := c.fabq.map (fun y => if mine y then { y with sent := true } else y) })
    else if fenceDone s n x.age x.ord 1 x.mask then
      match fabqTxn s n x with
      | .error c => fabqFault s n x c
      | .ok t =>
        if s.fab.waiting.any (fun (o : OutTxn) => o.t.dst == t.dst && o.t.ty != 7) then s
        else (numberTxn s { t := t, who := .fabq n x.age x.ord }).getD s
    else s

/-- NUMBER_SEND (R277, R290, R298): waiting transaction `i` is numbered and sent, in the order of its peer; `i` beyond the waiting list names the next
fabric-queue entry of core `i - length`. -/
def execNumberSend (i : Nat) (s : State) : Out :=
  match s.fab.waiting[i]? with
  | some o =>
    if sameAhead s i o.t.dst.toNat (o.t.ty == 7) then .next s
    else .next ((numberTxn { s with fab := { s.fab with waiting := dropAt s.fab.waiting i } } o).getD s)
  | none =>
    let n := i - s.fab.waiting.length
    if n < 48 then .next (fabqDispatch s n) else .next s

/-! ### Retransmission and timeout (R281, R297, 09 R219) -/

/-- RTO in ns. -/
def rtoOf (s : State) (peer : Nat) : Nat :=
  let cfg := regGetD s (regAddr .fab (peer % 4) 0) 0x800805
  100 * (field cfg 0 8 + field (routeOf s (peer % 4) peer) 32 4 * field cfg 8 8)

/-- An unacknowledged transaction of a peer. -/
def unackOf (s : State) (peer : Nat) (seq : W32) : Option Unack := (connOf s peer).unack.find? (fun (u : Unack) => u.t.seq == seq)

/-- Whether an ACK or a response that arrives in the same cycle answers a transaction (R281): the commands that wait are of one cycle, since time passes
only when none does (log entry 1). -/
def answeredNow (s : State) (u : Unack) : Bool :=
  let from_ : Resp → Nat → Bool := fun r ty => r.ty == ty && r.src == u.t.dst && s.fabricId == some r.dst
  s.pending.any (fun c => match c with
    | .fabricAckReceive r => from_ r 0 && seqCovers r.seq u.t.seq && u.t.ty != 1 && u.t.ty != 4
    | .readRspReceive r => from_ r 1 && r.seq == u.t.seq && u.t.ty == 1
    | .atomicRspReceive r => from_ r 2 && r.seq == u.t.seq && u.t.ty == 4
    | .nakReceive r => from_ r 3 && r.seq == u.t.seq
    | _ => false)

/-- RTO_EXPIRY (R281): resent with RETX, routed anew. One that no port could take is sent for the first time. -/
def execRtoExpiry (peer : BitVec 12) (seq : W32) (s : State) : Out :=
  let q := peer.toNat
  match unackOf s q seq with
  | none => .next s
  | some u =>
    if decide (u.last + rtoOf s q ≤ s.now) && decide (s.now < u.first + 20000) && (connOf s q).st == .active && !answeredNow s u then
      let s := touchConn s q
      let t : Txn := { u.t with retx := u.port.isSome }
      let s := if u.port.isSome then fabBump s q 0x038 else s
      let s := modConn s q (fun c => { c with unack := c.unack.map (fun (x : Unack) => if x.t.seq = seq then { x with last := s.now } else x) })
      let r := sendTxn s t u.port
      .next (match r.1 with | some p => setTxnPort r.2 u.t (some p) | none => r.2)
    else .next s

/-- Groups that wait at a FENCE of scope 2 for a peer that stopped answering park (09 R219): FAULT_PC holds the FENCE. -/
def fenceTimeout (s : State) (peer : Nat) : State :=
  let acked := (connOf s peer).acked
  let waits : Group → OrdPt → Bool := fun g f =>
    f.scope == 2 && g.sent.any (fun (x : Sent) => x.peer == peer && f.mask.getLsbD x.thread && !seqCovers acked (BitVec.ofNat 32 x.seq))
  (List.range 48).foldl (fun s n =>
    ((coreOf s n).slots.filterMap id ++ (coreOf s n).recs.filterMap (fun (r : Rec) => r.grp)).foldl (fun s (g : Group) =>
      match g.fences.find? (waits g) with
      | none => s
      | some f =>
        let pc := (((tids f.mask).map (thr g)).find? (fun (h : Thread) => h.stat == .fence f.ord)).map (fun (h : Thread) => h.pc - 1)
        let s := modByAge s n g.age (fun g =>
          { modThrs g f.mask (fun _ h => if h.stat == .fence f.ord then { h with stat := .run } else h) with
            fences := g.fences.filter (fun (y : OrdPt) => y.ord != f.ord), sent := g.sent.filter (fun (x : Sent) => x.peer != peer) })
        deferFault s n g.age 0x04 (pc.getD 0) 0 0 f.mask 0 false) s) s

/-- A record about a peer that does not answer (R297, 15 Table 15.3 kind PEER): CORRECTED (log entry 46). -/
def peerErr (s : State) (peer cls : Nat) : State :=
  logErr s
    { faultId := BitVec.ofNat 32 (2 ^ 28 + peer), source := errSource (peer % 4) 9 0, cls := BitVec.ofNat 8 cls, sev := 0, injected := false,
      address := 0, count := 1, ctx := 0xFF, info := 0 }

/-- The copies of this module's transactions to a peer that no flit has begun leave the ports: none is sent after its end (R281). -/
def dropCopies (s : State) (peer : Nat) : State :=
  let mine : TxItem → Bool := fun i => !i.begun && (match i.m with
    | .txn t => t.dst.toNat == peer && some t.src == s.fabricId && t.ty != 7
    | .resp _ => false)
  { s with fab := { s.fab with ports := s.fab.ports.map (fun (x : Port) => { x with tx := x.tx.map (fun l => l.filter (fun i => !mine i)) }) } }

/-- Every unacknowledged transaction to a peer ends. -/
def endAll (s : State) (peer : Nat) (e : TxnEnd) : State :=
  let us := (connOf s peer).unack
  let s := modConn (dropCopies s peer) peer (fun c => { c with unack := [] })
  us.foldl (fun s (u : Unack) =>
    let s := if e = .timeout then fabBump s peer 0x060 else s
    txnEnd s u.who u.t e) s

/-- TRANSACTION_TIMEOUT (R281, R297): 20 µs after its first transmission the peer is UNREACHABLE, and every transaction to it ends with TIMEOUT. -/
def execTransactionTimeout (peer : BitVec 12) (seq : W32) (s : State) : Out :=
  let q := peer.toNat
  match unackOf s q seq with
  | none => .next s
  | some u =>
    if u.first + 20000 ≤ s.now && (connOf s q).st == .active && !answeredNow s u then
      let s := modConn s q (fun c => { c with st := .unreachable })
      .next (peerErr (endAll (fenceTimeout s q) q .timeout) q 7)
    else .next s

/-! ### Taking what the ports have received (R253, R274) -/

/-- Bytes taken from the flits of a channel: what is left, and the flits freed. -/
def popBytes : Nat → List (List Byte) → List (List Byte) × Nat
  | _, [] => ([], 0)
  | n, f :: fs =>
    if n = 0 then (f :: fs, 0)
    else if f.length ≤ n then
      let r := popBytes (n - f.length) fs
      (r.1, r.2 + 1)
    else (f.drop n :: fs, 0)

/-- An item that arrives through a port whose stream begins with its bytes leaves the receive buffer, and the freed flits' credits are owed; an item
that no stream holds is taken as delivered (log entry 48). -/
def takeItem (s : State) (ports : List Nat) (m : FabMsg) : State :=
  let bs := encMsg m
  let v := msgVc m
  match ports.find? (fun p => bs.isPrefixOf (nth (portOf s p).rx v []).flatten) with
  | none => s
  | some p =>
    let r := popBytes bs.length (nth (portOf s p).rx v [])
    pumpPort (modPort s p (fun x => { x with rx := setAt x.rx v r.1, owed := modAt x.owed v (fun n => n + r.2) })) p

/-- The ports of a die. -/
def diePorts (die : Nat) : List Nat := (List.range 16).filter (fun p => p % 4 == die)

/-! ### Responses at the source (R217, R276, R280) -/

/-- Whether a response is for this module. -/
def forMe (s : State) (r : Resp) : Bool := s.fabricId == some r.dst

/-- A response that ends one transaction. -/
def endOne (s : State) (r : Resp) (p : Unack → Bool) (e : TxnEnd) : State :=
  let q := r.src.toNat
  match (connOf s q).unack.find? (fun (u : Unack) => u.t.seq == r.seq && p u) with
  | none => s
  | some u => txnEnd (modConn s q (fun c => { c with unack := c.unack.filter (fun (x : Unack) => x.t.seq != r.seq) })) u.who u.t e

/-- FABRIC_ACK_RECEIVE (09 R217, R218): the cumulative acknowledgement advances, and every transaction it covers that has no answer of its own
completes. A READ or ATOMIC completes with its response (log entry 49). -/
def execFabricAckReceive (r : Resp) (s : State) : Out :=
  if r.ty = 0 && forMe s r then
    let s := touchConn (takeItem s (List.range 16) (.resp r)) r.src.toNat
    let q := r.src.toNat
    let c := connOf s q
    if (r.seq - c.acked) != 0 && seqCovers r.seq c.acked then
      let covered : Unack → Bool := fun u => seqCovers r.seq u.t.seq && u.t.ty != 1 && u.t.ty != 4
      let us := c.unack.filter covered
      let s := modConn s q (fun c => { c with acked := r.seq, unack := c.unack.filter (fun u => !covered u) })
      .next (us.foldl (fun s (u : Unack) => txnEnd s u.who u.t .acked) s)
    else .next s
  else .next s

/-- READ_RSP_RECEIVE (R280): the first response is used. -/
def execReadRspReceive (r : Resp) (s : State) : Out :=
  if r.ty = 1 && forMe s r then
    .next (endOne (touchConn (takeItem s (List.range 16) (.resp r)) r.src.toNat) r (fun u => u.t.ty == 1 && u.t.len == r.data.length) (.data r.data))
  else .next s

/-- ATOMIC_RSP_RECEIVE (R276). -/
def execAtomicRspReceive (r : Resp) (s : State) : Out :=
  if r.ty = 2 && forMe s r then
    .next (endOne (touchConn (takeItem s (List.range 16) (.resp r)) r.src.toNat) r (fun u => u.t.ty == 4) (.value (BitVec.ofNat 32 (bytesNat (r.data.take 4)))))
  else .next s

/-- NAK_RECEIVE (R295, R296). -/
def execNakReceive (r : Resp) (s : State) : Out :=
  if r.ty = 3 && forMe s r then
    let s := touchConn (takeItem s (List.range 16) (.resp r)) r.src.toNat
    if (unackOf s r.src.toNat r.seq).isSome then .next (endOne (fabBump s r.src.toNat 0x058) r (fun _ => true) (.nak r.status)) else .next s
  else .next s

/-! ### Admission at the target (R273, R279, R285, R286) -/

/-- Whether a transaction is firmware's in an area that this module holds for its source: it needs no entry (R285, 15 R344, 08 R452; log entry 50). -/
def fwTxn (s : State) (t : Txn) : Bool :=
  t.sctx == 0xFF && (t.ty == 1 || t.ty == 2)
    && s.fw.gens.any (fun g => g.1 == t.src.toNat && decide (g.2.2.1 ≤ t.addr.toNat) && decide (t.addr.toNat + t.len ≤ g.2.2.1 + g.2.2.2))

/-- The permission a TYPE needs (Table 12.5). -/
def txnPerm (t : Txn) : Option Perm :=
  match t.ty with
  | 1 => some .read
  | 2 => some .write
  | 6 => some .write
  | 3 => some .accum
  | 4 => some .accum
  | 5 => some .accum
  | _ => none

/-- The bytes of memory a transaction names. -/
def txnBytes (t : Txn) : Nat := if t.ty = 4 then 4 else if t.ty = 1 || t.ty = 2 || t.ty = 3 then t.len else 0

/-- R273 and Table 12.1: the form of a transaction. -/
def txnFormat (t : Txn) : Bool :=
  let a := t.addr.toNat
  let lenOk := decide (4 ≤ t.len) && decide (t.len ≤ 512) && t.len % 4 == 0
  let span := a % 4 == 0 && decide (a % 512 + t.len ≤ 512)
  match t.ty with
  | 1 => t.op == 0 && lenOk && span && t.payload.isEmpty
  | 2 => t.op == 0 && lenOk && span && t.payload.length == t.len && (match t.part with | none => true | some e => decide (e.1 + e.2 ≤ t.len))
  | 3 => decide (t.op ≤ 3) && lenOk && span && t.payload.length == t.len
  | 4 => decide (t.op ≤ 2) && t.len == 0 && a % 4 == 0 && t.payload.isEmpty
  | 5 => t.op == 0 && t.len == 0 && t.payload.isEmpty
  | 6 => t.op == 0 && lenOk && t.payload.length == t.len
  | _ => false

/-- The checks of Table 12.6 that the arrival meets: 1 KEY, 2 PERM, 3 RANGE, 4 FORMAT; 0 passes. -/
def admitStatus (s : State) (t : Txn) : Nat :=
  let r := regionAt s t.ridx.toNat
  if fwTxn s t then (if txnFormat t then 0 else 4)
  else if !r.valid || r.kind || !r.exported || r.key != t.key || r.key == 0 then 1
  else if !(match txnPerm t with | some p => r.grants p | none => true) then 2
  else if txnBytes t != 0 && !r.covers t.addr.toNat (txnBytes t) then 3
  else if !txnFormat t then 4
  else 0

/-- The context in whose name a transaction is performed. -/
def txnOwner (s : State) (t : Txn) : Nat := if fwTxn s t then 255 else (regionAt s t.ridx.toNat).owner

/-- Whether a transaction's effect waits for the checkpoint engine (15 R348). -/
def txnHeld (s : State) (t : Txn) : Bool :=
  if decide (1 ≤ t.ty) && decide (t.ty ≤ 4) && sleeps s t.addr.toNat then true
  else if t.ty = 2 || t.ty = 3 || t.ty = 4 then rangeHeld s t.addr.toNat (txnBytes t)
  else if t.ty = 6 then
    match descOf s (t.addr.toNat % 2 ^ 20) with
    | some d => rangeHeld s (qSlot d d.prod) (qSize d)
    | none => false
  else false

/-- The RED kind of an ACCUM's OP (Table 12.1). -/
def fabKind (op : Nat) : Nat := if op = 0 then 3 else op - 1

/-- A transaction performed (R173, R206, R238, R286): its NAK status, or 0 with the response it answers with. -/
def performTxn (s : State) (die : Nat) (t : Txn) (owner : Nat) : Nat × Option (Nat × List Byte) × State :=
  let a := t.addr.toNat
  match t.ty with
  | 1 =>
    if rangeBad s a t.len then (9, none, s)
    else
      let s := (engRead s owner a t.len).2
      (0, some (1, memBytes (winView s [(a, t.len)]) a t.len), s)
  | 2 => let w := txnWrite t; (0, none, engWrite s owner w.1 w.2 t.noalloc)
  | 3 =>
    let es := (List.range (t.len / 4)).map (fun i => (a + 4 * i, BitVec.ofNat 32 (bytesNat ((t.payload.drop (4 * i)).take 4))))
    (0, none, es.foldl (fun s e => accumAt s (fabKind t.op) e.1 e.2) s)
  | 4 =>
    if rangeBad s a 4 then (9, none, s)
    else
      let s := (engRead s owner a 4).2
      let x := memW32 (winView s [(a, 4)]) a
      let y := if t.op = 0 then (if x = t.arg0 then t.arg1 else x) else if t.op = 1 then t.arg1 else x + t.arg1
      (0, some (2, natBytes 4 x.toNat), engWrite s owner a (natBytes 4 y.toNat) t.noalloc)
  | 5 =>
    let r := translate s (4 * die) owner (a % 2 ^ 16)
    if xValid r.1 && xSig r.1 then
      (0, none, syncSend r.2 { obj := xObj r.1, frm := none, ctx := owner, pc := 0, ord := 0, mask := 0, op := .signal t.arg0 true })
    else (8, none, r.2)
  | _ =>
    let qid := a % 2 ^ 20
    match descOf s qid with
    | none => (6, none, s)
    | some d =>
      if d.owner != owner || d.ty != 3 || !d.remote || t.len != qSize d then (6, none, s)
      else if !qRoom d then (7, none, s)
      else (0, none, appendEntry (touchDesc s qid) qid d t.payload)

/-- A number lands (09 R214, R217): the cumulative acknowledgement advances over the landed numbers above it. -/
def landSeq : Nat → Conn → Conn
  | 0, c => c
  | fuel + 1, c => if c.landed.contains (c.a + 1) then landSeq fuel { c with a := c.a + 1, landed := c.landed.filter (fun x => x != c.a + 1) } else c

/-- A NAK: sent, counted, counted against its entry and logged (R284, R286): CORRECTED (log entry 46). -/
def sendNak (s : State) (die : Nat) (t : Txn) (status : Nat) : State :=
  let r := regionAt s t.ridx.toNat
  let s := bump0 s .fab die 0x050
  let s := { s with regions := SMap.put s.regions t.ridx.toNat { r with naks := min (r.naks + 1) (2 ^ 64 - 1) } }
  let s := logErr s
    { faultId := BitVec.ofNat 32 (5 * 2 ^ 28 + (selfId s).toNat * 0x10000 + t.ridx.toNat), source := errSource die 9 0, cls := 6, sev := 0,
      injected := false, address := BitVec.ofNat 64 (t.src.toNat * 2 ^ 48 + t.addr.toNat), count := 1,
      ctx := BitVec.ofNat 8 (if r.valid then r.owner else 255), info := BitVec.ofNat 8 status }
  sendResp s { ty := 3, status := status, src := selfId s, dst := t.src, seq := t.seq, data := [] }

/-- A transaction has landed: performed with its response, or NAKed. -/
def landTxn (s : State) (die : Nat) (t : Txn) (status : Nat) (rsp : Option (Nat × List Byte)) : State :=
  let q := t.src.toNat
  let s := modConn s q (fun c => landSeq 4097 { c with
    st := if c.st = .none then .active else c.st
    landed := c.landed ++ [t.seq], ackDue := true, nakked := if status = 0 then c.nakked else c.nakked ++ [t.seq],
    held := c.held.filter (fun (h : HeldTxn) => h.t.seq != t.seq) })
  if status != 0 then sendNak s die t status
  else
    match rsp with
    | none => s
    | some (ty, data) =>
      let s := if ty = 2 then modConn s q (fun c => { c with
        stored := c.stored ++ [{ seq := t.seq, value := BitVec.ofNat 32 (bytesNat data), sent := s.now, die := die }] }) else s
      sendResp s { ty := ty, status := 0, src := selfId s, dst := t.src, seq := t.seq, data := data }

/-- Whether a transaction is held until its predecessors have landed (R214). -/
def isReleaseTxn (t : Txn) : Bool := t.ty == 5 || t.ty == 6 || (t.flag && (t.ty == 2 || t.ty == 3))

/-- Whether an earlier transaction of the source has been NAKed (R215). -/
def predNak (c : Conn) (seq : W32) : Bool := c.nakked.any (fun n => n != seq && seqCovers seq n)

/-- A transaction applied whose predecessors, where it waits for them, have landed. -/
def applyTxn (s : State) (die : Nat) (t : Txn) (owner : Nat) : State :=
  if isReleaseTxn t && predNak (connOf s t.src.toNat) t.seq then landTxn s die t 5 none
  else
    let r := performTxn s die t owner
    landTxn r.2.2 die t r.1 r.2.1

/-- Whether a die's atomic response store has room (R280). -/
def storeRoom (s : State) (die : Nat) : Bool :=
  decide (s.fab.conns.foldl (fun n (e : Nat × Conn) => n + (e.2.stored.filter (fun (x : AtRsp) => x.die == die)).length) 0 < 8192)

/-- A duplicate (09 R217, R279, R280): a READ is answered from the current value, or, where it was NAKed and still fails its check, with a NAK; an ATOMIC
from the store, others with the acknowledgement. -/
def dupTxn (s : State) (die : Nat) (t : Txn) : State :=
  let s := bump0 s .fab die 0x040
  let c := connOf s t.src.toNat
  let ack := sendResp s { ty := 0, status := 0, src := selfId s, dst := t.src, seq := c.a, data := [] }
  if c.held.any (fun (h : HeldTxn) => h.t.seq == t.seq) then s
  else if t.ty = 1 then
    let st := if c.nakked.contains t.seq then admitStatus s t else 0
    if st = 0 then
      let r := performTxn s die t (txnOwner s t)
      match r.2.1 with
      | some (ty, data) => sendResp r.2.2 { ty := ty, status := 0, src := selfId s, dst := t.src, seq := t.seq, data := data }
      | none => sendNak s die t r.1
    else sendNak s die t st
  else if t.ty = 4 then
    match c.stored.find? (fun (x : AtRsp) => x.seq == t.seq) with
    | some x => sendResp s { ty := 2, status := 0, src := selfId s, dst := t.src, seq := t.seq, data := natBytes 4 x.value.toNat }
    | none => ack
  else ack

/-- The arrival of a transaction at the port group of a die (R279, R283, R286, R287). It stays in the receive buffer while the store is full, while 16
are held for its source, or while the checkpoint engine has not taken what it writes. -/
def fabArrive (types : Nat → Bool) (die : Fin 4) (t : Txn) (s : State) : Out :=
  if s.pkg.held || !types t.ty || s.fabricId != some t.dst then .next s
  else
    let d := die.val
    let q := t.src.toNat
    let c := connOf s q
    let took := touchConn (takeItem s (diePorts d) (.txn t)) q
    if c.st = .resetting then .next (sendNak took d t 10)
    else if seqCovers c.a t.seq || c.landed.contains t.seq || c.held.any (fun (h : HeldTxn) => h.t.seq == t.seq) then .next (dupTxn took d t)
    else if 4096 < (t.seq - c.a).toNat then .next (bump0 took .fab d 0x048)
    else
      let st := admitStatus s t
      let wait := isReleaseTxn t && t.seq != c.a + 1
      if st = 0 && ((wait && decide (16 ≤ c.held.length)) || (t.ty = 4 && !storeRoom s d) || (!wait && txnHeld s t)) then .next s
      else
        let s := if st = 0 then bump0 took .fab d 0x020 else took
        if st != 0 then .next (landTxn s d t st none)
        else if wait then
          .next (bump0 (modConn s q (fun c => { c with held := c.held ++ [{ t := t, owner := txnOwner s t, die := d }] })) .fab d 0x068)
        else .next (applyTxn s d t (txnOwner s t))

/-- FABRIC_READ_RECEIVE. -/
def execFabricReadReceive (die : Fin 4) (t : Txn) (s : State) : Out := fabArrive (fun ty => ty == 1) die t s
/-- FABRIC_WRITE_RECEIVE; a reserved TYPE fails FORMAT here (log entry 50). -/
def execFabricWriteReceive (die : Fin 4) (t : Txn) (s : State) : Out := fabArrive (fun ty => ty == 2 || ty == 0 || decide (8 ≤ ty)) die t s
/-- FABRIC_ACCUM_RECEIVE. -/
def execFabricAccumReceive (die : Fin 4) (t : Txn) (s : State) : Out := fabArrive (fun ty => ty == 3) die t s
/-- FABRIC_ATOMIC_RECEIVE (R280). -/
def execFabricAtomicReceive (die : Fin 4) (t : Txn) (s : State) : Out := fabArrive (fun ty => ty == 4) die t s
/-- FABRIC_SIGNAL_RECEIVE (10 R238). -/
def execFabricSignalReceive (die : Fin 4) (t : Txn) (s : State) : Out := fabArrive (fun ty => ty == 5) die t s
/-- FABRIC_MSG_RECEIVE. -/
def execFabricMsgReceive (die : Fin 4) (t : Txn) (s : State) : Out := fabArrive (fun ty => ty == 6) die t s

/-- FLAG_RELEASE (09 R214, R215): a held transaction whose predecessors have all landed is applied, or NAKed PRED_NAK. -/
def execFlagRelease (src : BitVec 12) (seq : W32) (s : State) : Out :=
  let c := connOf s src.toNat
  match c.held.find? (fun (h : HeldTxn) => h.t.seq == seq) with
  | none => .next s
  | some h => if seq = c.a + 1 && !txnHeld s h.t && c.st != .resetting then .next (applyTxn s h.die h.t h.owner) else .next s

/-- ACK_SEND (R279): the advances since the last one in one ACK. -/
def execAckSend (src : BitVec 12) (s : State) : Out :=
  let c := connOf s src.toNat
  if c.ackDue then
    .next (sendResp (modConn (touchConn s src.toNat) src.toNat (fun c => { c with ackDue := false }))
      { ty := 0, status := 0, src := selfId s, dst := src, seq := c.a, data := [] })
  else .next s

/-- ATOMIC_RSP_EXPIRE (R280): 40 µs after it was sent. -/
def execAtomicRspExpire (peer : BitVec 12) (seq : W32) (s : State) : Out :=
  let c := connOf s peer.toNat
  match c.stored.find? (fun (x : AtRsp) => x.seq == seq) with
  | none => .next s
  | some x =>
    if x.sent + 40000 ≤ s.now then
      .next (modConn s peer.toNat (fun c => { c with stored := c.stored.filter (fun (y : AtRsp) => y.seq != seq) }))
    else .next s

/-- TRANSIT_FORWARD (R292): by the die's own route table, or discarded; transactions are counted (Table 12.13). -/
def execTransitForward (die : Fin 4) (m : FabMsg) (s : State) : Out :=
  if s.fabricId == some (BitVec.ofNat 12 (msgDst m)) then .next s
  else
    let d := die.val
    let s := takeItem s (diePorts d) m
    let count : Nat → State → State := fun off s => match m with | .txn _ => bump0 s .fab d off | .resp _ => s
    match choosePort s d (msgDst m) (msgVc m) none with
    | none => .next (count 0x030 s)
    | some p =>
      let s := { s with fab := { s.fab with out := s.fab.out ++ [match m with | .txn t => .txn p t | .resp r => .resp (some p) r] } }
      .next (pushItem (count 0x028 s) p m)

/-! ### Reset of a connection (R283, 09 R216) -/

/-- A target end whose peer has named its new base N: A = N - 1, and the connection is in use (R283); one that is not reset yet keeps it. -/
def takeBase (c : Conn) (n : W32) : Conn :=
  if c.st = .resetting then { c with st := .active, a := n - 1, base := none } else { c with base := some n }

/-- A reset at this end: unacknowledged and waiting transactions end with RESET, held ones are discarded, the bitmap is cleared, and the source numbers from its
next number plus 2^30, of which the peer is told on the manager's behalf; until the peer's base is there, arrivals are NAKed (log entry 51). -/
def resetConn (s : State) (peer : Nat) : State :=
  let n := (connOf s peer).next + 0x40000000
  let s := modConn s peer (fun c => { c with st := .resetting, next := n, acked := n - 1, held := [], landed := [], nakked := [], ackDue := false })
  let ws := s.fab.waiting.filter (fun (o : OutTxn) => o.t.dst.toNat == peer && o.t.ty != 7)
  let s := { s with fab := { s.fab with waiting := s.fab.waiting.filter (fun (o : OutTxn) => !(o.t.dst.toNat == peer && o.t.ty != 7)) } }
  let s := ws.foldl (fun s (o : OutTxn) => txnEnd s o.who o.t .reset) (endAll s peer .reset)
  let s := sendMgmt s peer (.base n.toNat)
  match (connOf s peer).base with
  | some b => modConn s peer (fun c => takeBase c b)
  | none => s

/-! ### The fabric instructions (Table 12.8) -/

/-- The fabric queue has room. -/
def fabqRoom (c : Core) : Bool := decide (c.fabq.length < 32)

/-- A fabric-queue instruction entered (R294), its registers read. -/
def fabqPut (x : Iss) (op : FabOp) (w : Lpk) (s : State) : State :=
  let e : FabEntry :=
    { slot := x.i, age := x.g.age, ctx := x.g.ctx, pc := x.pc, op := op, d := w.d.toNat, entry := modF w 0 12,
      id := (let v := (gReg x.g (leadOf x) w.a.toNat).toNat; if op == .status then v % 4096 else v),
      value := (gReg x.g (leadOf x) w.b.toNat).toNat, len := modF w 12 7, ord := x.ord, mask := x.act, sent := false }
  modCore s x.n (fun c => { c with fabq := c.fabq ++ [e] })

/-- FSIGNAL and FMSG. -/
def fabqEnter (o : LOp) (op : FabOp) (u : Issue) (w : Lpk) (s : State) : Out :=
  plainOp o u w fabqRoom (fun x s1 => issueEnd x Flow.next (if x.act = 0 then s1 else fabqPut x op w s1)) s

/-- FSIGNAL. -/
def execFsignal (u : Issue) (w : Lpk) (s : State) : Out := fabqEnter .fsignal .signal u w s
/-- FMSG. -/
def execFmsg (u : Issue) (w : Lpk) (s : State) : Out := fabqEnter .fmsg .msg u w s

/-- FQFENCE. -/
def execFqfence (u : Issue) (w : Lpk) (s : State) : Out :=
  plainOp .fqfence u w fabqRoom (fun x s1 =>
    if x.act = 0 then issueEnd x Flow.next s1
    else modGroup (issueEnd x Flow.next (fabqPut x .fence w s1)) x.n x.i (fun g => { g with wait := .fqfence })) s

/-- FQFENCE_COMPLETE (R294): no earlier fabric-queue instruction of the group is left; the fence leaves the queue. -/
def execFqfenceComplete (u : Slot) (s : State) : Out :=
  let n := u.core.val
  match groupOf s n u.slot.val with
  | none => .next s
  | some g =>
    let mine : FabEntry → Bool := fun x => x.age == g.age
    if g.wait == .fqfence && (coreOf s n).fabq.all (fun x => !mine x || x.op == .fence) then
      .next (modGroup (modCore s n (fun c => { c with fabq := c.fabq.filter (fun x => !mine x) })) n u.slot.val (fun g => { g with wait := .none }))
    else .next s

/-- FSTATUS (R294): it enters the queue; where every entry before it has been dispatched it is dispatched at once. -/
def execFstatus (u : Issue) (w : Lpk) (s : State) : Out :=
  plainOp .fstatus u w fabqRoom (fun x s1 =>
    if x.act = 0 then issueEnd x Flow.next s1
    else if (fabqNext s1 x.n).isNone then
      let r := connStatus s1 ((gReg x.g (leadOf x) w.a.toNat).toNat % 4096)
      issueEnd x Flow.next (modGroup s1 x.n x.i (putResult w.d.toNat x.act r.1 (some r.2)))
    else issueEnd x Flow.next (fabqPut x .status w s1)) s

/-- FAB_STATUS (Table 12.13). -/
def fabStatus (s : State) (d : Nat) : Nat :=
  let stored := s.fab.conns.foldl (fun n (e : Nat × Conn) => n + (e.2.stored.filter (fun (x : AtRsp) => x.die == d)).length) 0
  (SMap.getD s.fab.cached d []).length + stored % 2 ^ 14 * 2 ^ 16
    + (s.fab.conns.filter (fun (e : Nat × Conn) => e.1 % 4 == d && e.2.st == .unreachable)).length % 2 ^ 12 * 2 ^ 32

/-- FAB_CLR_COUNTS (R300). -/
def execFabClrCounts (w : RegWr) (s : State) : Out :=
  ctlWrite w .fab (fun off => off == 0x010) fwOnly (fun u _ v s => clearIf v 0 .fab (offs 0x018 0x078) u s) s

end Sys2Proof.Machine
end

