-- ==== Sys2Proof/Machine/Reliability.lean ====
section
/-! DEFINITION. Reliability (15): the error log's forwarding and severities, MGMT transactions, checkpoints, rebuilds, heartbeats, recovery. -/

namespace Sys2Proof.Machine

/-! ### Held in reset (15 R339, 19 Table 19.5) -/

/-- Every cluster is gated; PD_AON, the SMBus target and THERMTRIP# remain. -/
def holdInReset (s : State) : State :=
  { s with pkg := { s.pkg with held := true, ready := false }
           clusters := s.clusters.map (fun (c : Cluster) => if c.st = .disabled then c else { c with st := .dormant, since := s.now, gated := true, wake := none }) }

/-! ### The fabric manager (15 R341, R355) -/

/-- The live members of a job, lowest module ID first: mapped modules that are not known dead. -/
def liveMembers (s : State) (job : Nat) : List Nat :=
  let ms := ((SMap.getD s.lpm job []).map (fun (e : Nat × Nat) => e.2)).filter (fun m =>
    !(match SMap.get? s.fw.mesh m with | some p => p.dead | none => false))
  ms.foldl insertNat []

/-- The fabric manager of a job: its lowest live member. -/
def managerOf (s : State) (job : Nat) : Option Nat := (liveMembers s job).head?

/-- The jobs a record affects: the context's job, or, where it names a peer, every job of which that module is a member. -/
def recJobs (s : State) (r : ErrRec) : List Nat :=
  if r.faultId.toNat / 2 ^ 28 = 1 then
    (s.lpm.filter (fun (e : Nat × SMap Nat) => e.2.any (fun (x : Nat × Nat) => x.2 == r.faultId.toNat % 4096))).map (·.1)
  else
    match SMap.get? s.ctxs r.ctx.toNat with
    | some c => if c.job = 0 then [] else [c.job]
    | none => if r.ctx = 0xFF then (s.lpm.filter (fun (e : Nat × SMap Nat) => e.2.any (fun (x : Nat × Nat) => x.2 == (selfId s).toNat))).map (·.1) else []

/-- Whether R341 forwards a record. -/
def forwards (r : ErrRec) : Bool := decide (1 ≤ r.sev.val) || r.cls == 7 || r.cls == 8

/-- A record as 32 bytes (Table 15.2). -/
def recBytes (l : LogRec) : List Byte :=
  natBytes 4 l.r.faultId.toNat ++ natBytes 2 l.r.source.toNat ++ [l.r.cls, BitVec.ofNat 8 (l.r.sev.val + 4 * b2n l.r.injected + 8 * b2n l.forwarded)]
    ++ natBytes 8 l.r.address.toNat ++ natBytes 4 l.r.count.toNat ++ natBytes 2 l.reporter.toNat ++ [l.r.ctx, l.r.info] ++ natBytes 8 l.ftime

/-- The members of other modules that a record's jobs have as managers. -/
def recManagers (s : State) (r : ErrRec) : List Nat :=
  ((recJobs s r).filterMap (managerOf s)).eraseDups.filter (fun m => m != (selfId s).toNat)

/-- Records logged since the last time that R341 forwards are sent on; a record this module has forwarded is known by `told`. -/
def forwardErrs (s : State) : State :=
  let due := s.err.log.filter (fun (l : LogRec) => !l.told && forwards l.r)
  if due.isEmpty then s
  else
    let s := { s with err := { s.err with log := s.err.log.map (fun (l : LogRec) => if forwards l.r then { l with told := true, sinceFwd := 0 } else l) } }
    due.foldl (fun s (l : LogRec) => (recManagers s l.r).foldl (fun s m => sendMgmt s m (.record (recBytes l))) s) s

/-- The module's state as its heartbeats carry it (R354). -/
def beatState (s : State) : Nat := if s.pkg.held then 2 else if s.fw.recovs.isEmpty then 0 else 1

/-- A FATAL_TO_MODULE record of this module about itself (R354, Table 15.5): DYING goes out on every port, the record is forwarded, and the module holds itself in
reset. -/
def dying (s : State) : State :=
  holdInReset ((meshPeers s).foldl (fun s m => sendMgmt s m (.heartbeat 2)) (forwardErrs s))

/-- The limits of SPARE_POLICY (R339): the occurrences of a fault identity of kind UNIT, EDRAM_BLOCK or DDR_CHANNEL within one hour. -/
def overLimit (s : State) (r : ErrRec) : Bool :=
  let k := r.faultId.toNat / 2 ^ 28
  let lim := if r.sev = 0 then s.fw.limCorrected else if r.sev = 1 then s.fw.limContained else 0
  let n := (s.err.log.filter (fun (l : LogRec) => l.r.faultId == r.faultId && l.r.sev == r.sev && decide (s.ftime < l.ftime + 3600000000000))).foldl
    (fun t (l : LogRec) => t + l.r.count.toNat) 0
  (k == 0 || k == 2 || k == 3) && lim != 0 && decide (lim ≤ n)

/-- The limits of SPARE_POLICY applied to what units have logged (R339); a fault identity that has its FATAL_TO_MODULE record is closed. -/
def raiseLimits (s : State) : State :=
  if s.pkg.held || (s.fw.limCorrected = 0 && s.fw.limContained = 0) then s
  else
    match s.err.log.find? (fun (l : LogRec) => overLimit s l.r && !s.err.log.any (fun (x : LogRec) => x.r.faultId == l.r.faultId && x.r.sev == 3)) with
    | some l => dying (logErr s { l.r with sev := 3, count := 1, cls := 0x0D })
    | none => s

/-- A record reported to the collector, with the actions of Table 15.5 and the limits of SPARE_POLICY. -/
def report (s : State) (r : ErrRec) : State :=
  let s := logErr s r
  if r.sev = 3 then dying s
  else if overLimit s r then dying (logErr s { r with sev := 3, count := 1, cls := 0x0D })
  else s

/-- A FATAL_TO_MODULE record of a unit of this module. -/
def fatal (s : State) (die unit inst cls : Nat) : State :=
  dying (unitErr s 3 die unit inst cls 0xFF 0 0 false)

/-- ERROR_RECORD (R338-R342). -/
def execErrorRecord (r : ErrRec) (s : State) : Out := .next (report s r)

/-- COALESCE_WINDOW_CLOSE (R340, R341): 100 µs after a record's FTIME what has accumulated is forwarded. -/
def execCoalesceWindowClose (lsn : W32) (s : State) : Out :=
  match s.err.log.find? (fun (l : LogRec) => l.lsn == lsn) with
  | none => .next s
  | some l =>
    if l.windowOpen && decide (l.ftime + 100000 ≤ s.ftime) then
      let s := { s with err := { s.err with log := s.err.log.map (fun (x : LogRec) =>
        if x.lsn == lsn then { x with windowOpen := false, sinceFwd := 0 } else x) } }
      .next (if forwards l.r && l.sinceFwd != 0 then
        (recManagers s l.r).foldl (fun s m => sendMgmt s m (.more l.r.faultId.toNat l.sinceFwd.toNat)) s else s)
    else .next s

/-- A forwarded record reaches this module's collector (R341): added to a record of the same fault identity within 100 µs, or, while a recovery of that fault is
open, whatever its time; a new one keeps its first reporter and the time of its first occurrence (Table 15.2). -/
def takeForwarded (s : State) (bs : List Byte) : State :=
  let f : Nat → Nat → Nat := fun o n => bytesNat ((bs.drop o).take n)
  let sev : Fin 4 := ⟨f 7 1 % 4, Nat.mod_lt _ (by decide)⟩
  let r : ErrRec :=
    { faultId := BitVec.ofNat 32 (f 0 4), source := BitVec.ofNat 16 (f 4 2), cls := nth bs 6 0, sev := sev, injected := f 7 1 / 4 % 2 == 1,
      address := BitVec.ofNat 64 (f 8 8), count := BitVec.ofNat 32 (f 0x10 4), ctx := nth bs 22 0, info := nth bs 23 0 }
  let isOpen := s.fw.recovs.any (fun (e : Nat × Recovery) => e.2.faults.contains r.faultId)
  let same : LogRec → Bool := fun l => l.r.faultId == r.faultId && l.r.injected == r.injected
  let add : LogRec → LogRec := fun l =>
    { l with r := { l.r with count := satAdd32 l.r.count r.count, sev := if l.r.sev < r.sev then r.sev else l.r.sev }, forwarded := true }
  if isOpen && s.err.log.any same then
    bumpC { s with err := { s.err with log := modLast same add s.err.log } } .err 0 0x030 r.count.toNat none
  else
    let lsn := s.err.next
    let joins := s.err.log.any (errCoalesces s.ftime r)
    let s := logErr s r
    let set : LogRec → LogRec := fun l =>
      if l.lsn = lsn then { l with forwarded := true, told := true, reporter := BitVec.ofNat 12 (f 0x14 2), ftime := f 0x18 8 }
      else if joins && same l then { l with forwarded := true, told := true } else l
    { s with err := { s.err with log := modLast same set s.err.log } }

/-- Later occurrences of a forwarded record. -/
def takeMore (s : State) (fault count : Nat) : State :=
  let add : LogRec → LogRec := fun l => { l with r := { l.r with count := satAdd32 l.r.count (BitVec.ofNat 32 count) }, forwarded := true }
  let log := modLast (fun (l : LogRec) => l.r.faultId == BitVec.ofNat 32 fault) add s.err.log
  bumpC { s with err := { s.err with log := log } } .err 0 0x030 count none

/-! ### Checkpoints (R344-R350) -/

/-- A context's checkpoint state changed. -/
def modCkpt (s : State) (ctx : Nat) (f : Ckpt → Ckpt) : State := { s with ckpts := SMap.mod s.ckpts ctx f }

/-- A WRITE of a checkpoint engine to a buddy (R344): it needs no Region Table entry. -/
def ckptSend (s : State) (ctx : Nat) (second : Bool) (die addr : Nat) (bs : List Byte) (part : Option (Nat × Nat)) (flag : Bool) : State :=
  match SMap.get? s.ckpts ctx with
  | none => s
  | some c =>
    let id := SMap.nextKey c.parts
    let t : Txn :=
      { ty := 2, op := 0, flag := flag, noalloc := true, retx := false, dst := BitVec.ofNat 12 (if second then c.buddies.2 else c.buddies.1), src := selfId s,
        tag := BitVec.ofNat 12 (128 + die), ridx := 0, addr := BitVec.ofNat 48 addr, len := bs.length, sctx := 0xFF, key := 0, seq := 0, arg0 := 0,
        arg1 := 0, payload := bs, part := part }
    fabEnter (bumpC (modCkpt s ctx (fun c => { c with parts := SMap.put c.parts id (second, flag) })) .err 0 0x140 (txnWrite t).2.length none) [{ t := t, who := .ckpt ctx id }]

/-- Where a checkpoint engine's copy of a block, or its record, goes in a buddy: at a multiple of 512 (log entry 57). -/
def genPlace (ctx : Nat) (second : Bool) (area block : Nat) : Nat := 512 * Config.genAddr ctx second area block % 2 ^ 48

/-- To both buddies, split at 512-byte boundaries of the place in the buddy (12 R273). -/
def ckptBoth (s : State) (ctx die addr : Nat) (bs : List Byte) (flag : Bool) (area block : Nat) : State :=
  let go : State → Bool → State := fun s second =>
    (writeParts addr bs).foldl (fun s e =>
      ckptSend s ctx second die (genPlace ctx second area block + e.1) e.2.1 e.2.2 flag) s
  go (go s false) true

/-- The bytes of a 64 KiB block that lie in a context's checkpointable ranges, as (address, bytes). -/
def blockParts (c : Ckpt) (block : Nat) : List (Nat × Nat) :=
  c.ranges.filterMap (fun (r : Nat × Nat) =>
    let lo := max r.1 (65536 * block)
    let hi := min (r.1 + r.2) (65536 * block + 65536)
    if lo < hi then some (lo, hi - lo) else none)

/-- The lines that hold RED partials of the checkpointable ranges. -/
def redLines (s : State) (c : Ckpt) : List Nat :=
  (s.mem.slices.flatMap (fun (e : Nat × List SLine) => (e.2.filter (fun x => x.kind == .red)).map (fun x => x.line))).filter
    (fun line => inRanges c.ranges (128 * line))

/-- The cells of the checkpointable ranges, with the partials that RED lines still hold. -/
def ckptImage (s : State) (c : Ckpt) : SMap Byte :=
  ((redLines s c).foldl evictRed s).mem.cells.filter (fun (e : Nat × Byte) => inRanges c.ranges e.1)

/-- The trackers that a context owns. -/
def ctxTrackers (s : State) (ctx : Nat) : SMap Tracker := s.trackers.filter (fun (e : Nat × Tracker) => e.2.owner == ctx)

/-- A generation area. -/
def Ckpt.gen (c : Ckpt) (i : Nat) : CkGen := if i = 0 then c.gens.1 else c.gens.2
/-- A generation area written. -/
def Ckpt.putGen (c : Ckpt) (i : Nat) (g : CkGen) : Ckpt := { c with gens := if i = 0 then (g, c.gens.2) else (c.gens.1, g) }

/-- Whether step `a` is newer than step `b` modulo 2^32 (R347). -/
def stepAfter (a b : W32) : Bool := a != b && !(a - b).msb

/-- The older of the two areas: one that holds nothing first. -/
def Ckpt.olderArea (c : Ckpt) : Nat :=
  if !c.gens.1.valid then 0 else if !c.gens.2.valid then 1 else if stepAfter c.gens.1.step c.gens.2.step then 1 else 0

/-- A segment of the last completed run. -/
def segOf (e : Nat × List Byte) : USeg :=
  { addr := e.1, bytes := e.2, started := true, p1 := [], p2 := [], sums := [], xsum := 0, skipped := false, held := 0, nonfin := false, done1 := true, done2 := true }

/-- Whether a segment's master (copies false) or its F-copy or T-copy (copies true) differs from the digest area (R351). -/
def digestDiffers (s : State) (g : USeg) (copies : Bool) : Bool :=
  let ps := g.planes
  let offs := (List.range ps.length).map (fun i => (ps.take i).foldl (fun t p => t + 32 * planeDigests p.2.1) 0)
  (ps.zip offs).zipIdx.any (fun e =>
    (decide (2 ≤ e.2) == copies) && e.1.1.2.2 &&
    planeBytes s e.1.1 != memBytes s (g.fld 0x50 8 + e.1.2) (32 * planeDigests e.1.1.2.1))

/-- The digest check at a boundary (R351). -/
def digestCheck (s : State) (ctx : Nat) (c : Ckpt) : State :=
  c.segs.foldl (fun s e =>
    let g := segOf e
    let s := if g.digest then settleSpans s ((g.planes.filter (fun p => p.2.2)).map (fun p => (p.1, p.2.1))) else s
    if !g.digest then s
    else if digestDiffers s g false then
      bump0 (unitErr s 1 (dieOf 0) 0xD 0 9 ctx 0 e.1 false) .err 0 0x150
    else if digestDiffers s g true then
      let s := bump0 (unitErr s 0 0 0xD 0 9 ctx 0 e.1 false) .err 0 0x150
      modCkpt s ctx (fun c => { c with rebuild := if c.rebuild.contains e.1 then c.rebuild else c.rebuild ++ [e.1] })
    else s) s

/-- A boundary taken (R346): dirty blocks become PENDING, the tracker state is snapshot, the older area's record is cleared (R349), and the copies are
compared with their digests (R351). -/
def takeBoundary (s : State) (ctx : Nat) (step : W32) (c : Ckpt) : State :=
  let a := c.olderArea
  let img := ckptImage s c
  let trk := ctxTrackers s ctx
  let s := bump0 s .err 0 0x128
  let s := modCkpt s ctx (fun c =>
    { c.putGen a CkGen.none with
      pend := c.dirty, dirty := [], step := step, st := 1, cur := a, crcs := [], failed := (false, false), recSent := false,
      imgs := if a = 0 then (img, c.imgs.2) else (c.imgs.1, img), snaps := if a = 0 then (trk, c.snaps.2) else (c.snaps.1, trk) })
  let s := ckptBoth s ctx 0 0 (List.replicate 64 0) false a 0
  digestCheck s ctx c

/-- CKP_MARK (R346, R347). -/
def markStore (q : Req) (s : State) : State :=
  match SMap.get? s.ckpts q.ctx with
  | none => refuse q true s
  | some c =>
    let v : W32 := BitVec.ofNat 32 q.value
    let ok := match c.mark with | none => true | some l => v != l && decide ((v - l).toNat < 2 ^ 31)
    if !ok then bump0 (refuse q true s) .err 0 0x160
    else
      let s := modCkpt s q.ctx (fun c => { c with mark := some v })
      if c.period = 0 || v.toNat % c.period != 0 then s
      else if c.st != 0 then bump0 s .err 0 0x130
      else takeBoundary s q.ctx v c

/-- CKP_MARK (R346): a store to CKP_MARK. -/
def execCkpMark (w : RegWr) (s : State) : Out :=
  ctlReq w .err (fun off => off == 0x100) (fun _ q _ _ => q.thread) (fun q _ _ s => markStore q s) s

/-- Held sequencer writes and buckets and runs that waited for a block go on (R348). -/
def afterBlock (s : State) : State := pumpBuckets (seqRelease s)

/-- SLICE_FILL (08 R174, R198): the fill returns; sequencer writes and buckets that waited for it go on. -/
def execSliceFill (id : Nat) (s : State) : Out :=
  match fillReturns id s with
  | .next t => .next (afterBlock t)
  | o => o

/-- CKPT_BLOCK_COPY (R346, R348): a PENDING block is read, sent to both buddies and CLEAN again. Rebuilds of the last boundary come first (R351). -/
def execCkptBlockCopy (ctx : BitVec 8) (block : Nat) (s : State) : Out :=
  match SMap.get? s.ckpts ctx.toNat with
  | none => .next s
  | some c =>
    if c.st = 1 && c.pend.contains block && c.rebuild.isEmpty then
      let ps := blockParts c block
      let s := settleReds s (65536 * block) 65536
      let bs := ps.flatMap (fun r => seenBytes s r.1 r.2)
      let s := if ps.any (fun r => rangeBad s r.1 r.2) then
          modCkpt (unitErr s 1 (homeDie (65536 * block)) 0xD 0 0xA ctx.toNat 0 (65536 * block) false) ctx.toNat (fun c => { c with failed := (true, true) })
        else s
      let s := ckptBoth s ctx.toNat (homeDie (65536 * block)) 0 bs false c.cur (block + 1)
      let s := bumpC s .err 0 0x138 2 none
      .next (afterBlock (modCkpt s ctx.toNat (fun c =>
        { c with pend := c.pend.filter (fun b => b != block), crcs := c.crcs ++ [(block, BitVec.ofNat 64 (crc64 bs))] })))
    else .next s

/-- The generation record (R349). -/
def genRecord (s : State) (ctx : Nat) (c : Ckpt) (trk : W64) : List Byte :=
  let crcs := c.crcs.foldl (fun (m : SMap W64) e => SMap.put m e.1 e.2) []
  let digest := crc64 (crcs.flatMap (fun (e : Nat × W64) => natBytes 8 e.2.toNat))
  padTo 64 0 (natBytes 4 c.step.toNat ++ natBytes 2 ((ownRank s ctx).getD 0) ++ natBytes 2 0 ++ natBytes 4 c.crcs.length ++ natBytes 4 1
    ++ natBytes 8 s.ftime ++ natBytes 8 digest ++ natBytes 8 trk.toNat)

/-- CKPT_GENERATION_DONE (R349, R350): once every block is CLEAN and no rebuild waits, the record is sent with FLAG to each buddy at which no block failed;
once the buddies have answered, the generation is complete where nothing failed. -/
def execCkptGenerationDone (ctx : BitVec 8) (s : State) : Out :=
  let x := ctx.toNat
  match SMap.get? s.ckpts x with
  | none => .next s
  | some c =>
    if c.st != 1 || !c.pend.isEmpty || !c.rebuild.isEmpty then .next s
    else if !c.recSent then
      let r := drawW64 s
      let bs := genRecord s x c r.1
      let s := modCkpt r.2 x (fun c => { c with recSent := true })
      let s := if c.failed.1 then s else ckptSend s x false 0 (genPlace x false c.cur 0) bs none true
      .next (if c.failed.2 then s else ckptSend s x true 0 (genPlace x true c.cur 0) bs none true)
    else if !c.parts.isEmpty then .next s
    else
      let done := (!c.failed.1, !c.failed.2)
      .next (modCkpt s x (fun c =>
        { c.putGen c.cur { step := c.step, valid := true, complete := done } with
          st := 0, recSent := false, lastDone := if done.1 && done.2 then some c.step else c.lastDone }))

/-! ### Rebuilds (R352) -/

/-- One row of a segment rebuilt: the F-copy blocks, and the master values for the T-copy. -/
def rebuildRow (ctx : Nat) (g : USeg) (st : State × List (List W32)) (r : Nat) : State × List (List W32) :=
  let k := (List.range g.cb).foldl (fun (x : State × List W32) b =>
    let m := b16Block x.1 g (g.fld 0x20 8) r b
    let vals := m.ms.map (fun i => blkFp32 .b16 m.e i)
    let s := if g.fcopy then
        let o := toBlock vals .b8 none
        let s := engWrite x.1 ctx (g.fld 0x40 8 + 32 * g.cb * r + 32 * b) (blockBytesOf .b8 o.ms) true
        engWrite s ctx (g.fld 0x40 8 + 32 * g.cb * g.rows + g.cb * r + b) [BitVec.ofNat 8 o.e] true
      else x.1
    (s, x.2 ++ vals)) (st.1, [])
  (k.1, st.2 ++ [k.2])

/-- The F-copy and T-copy of a segment rebuilt from its master, and their digests rewritten (R352). -/
def rebuildSeg (s : State) (ctx : Nat) (g : USeg) : State :=
  let k := (List.range g.rows).foldl (rebuildRow ctx g) (s, [])
  let s := if g.tcopy then
      (List.range g.cols).foldl (fun s c => (List.range g.rb).foldl (fun s q =>
        let xs := padTo 32 0 (((k.2.drop (32 * q)).take 32).map (fun row => nth row c 0))
        let o := toBlock xs .b8 none
        let s := engWrite s ctx (g.fld 0x48 8 + 32 * g.rb * c + 32 * q) (blockBytesOf .b8 o.ms) true
        engWrite s ctx (g.fld 0x48 8 + 32 * g.rb * g.cols + g.rb * c + q) [BitVec.ofNat 8 o.e] true) s) k.1
    else k.1
  let s := if g.digest then engWrite s ctx (g.fld 0x50 8) (segDigest s g) true else s
  bump0 s .err 0 0x158

/-- COPY_REBUILD (R352): outside recovery only copies found wrong are written. -/
def execCopyRebuild (ctx : BitVec 8) (segAddr : Nat) (s : State) : Out :=
  match SMap.get? s.ckpts ctx.toNat with
  | none => .next s
  | some c =>
    match c.segs.find? (fun e => e.1 == segAddr) with
    | none => .next s
    | some e =>
      if c.rebuild.contains segAddr then
        .next (modCkpt (rebuildSeg s ctx.toNat (segOf e)) ctx.toNat (fun c => { c with rebuild := c.rebuild.filter (fun a => a != segAddr) }))
      else .next s

/-! ### Module heartbeats (R354) -/

/-- A mesh peer declared dead: a record of kind PEER and class HEARTBEAT. -/
def declareDead (s : State) (peer : Nat) : State :=
  let m := SMap.getD s.fw.mesh peer ⟨none, false, false⟩
  peerErr { s with fw := { s.fw with mesh := SMap.put s.fw.mesh peer { m with dead := true } } } peer 8

/-- MODULE_HEARTBEAT_SEND: every 100 µs, to each mesh peer that PARAM has named. -/
def execModuleHeartbeatSend (s : State) : Out :=
  if s.pkg.ready && decide (s.fw.lastHb + 100000 ≤ s.now) then
    .next ((meshPeers s).foldl (fun s m => sendMgmt s m (.heartbeat (beatState s))) { s with fw := { s.fw with lastHb := s.now } })
  else .next s

/-- MODULE_HEARTBEAT_MISS: three heartbeats are missing, and the port to the peer is FAILED or DOWN or a transaction to it has ended with TIMEOUT. -/
def execModuleHeartbeatMiss (peer : BitVec 12) (s : State) : Out :=
  match SMap.get? s.fw.mesh peer.toNat with
  | none => .next s
  | some m =>
    let missing := match m.last with | some t => decide (t + 300000 ≤ s.now) | none => false
    let port := (List.range 8).any (fun p => (portOf s p).peer % 4096 == peer.toNat && (portOf s p).peer != 0 && ((portOf s p).st == 8 || (portOf s p).st == 9))
    if !m.dead && missing && (port || (connOf s peer.toNat).st == .unreachable) then .next (declareDead s peer.toNat) else .next s

/-! ### Tear down (R356 step 1) -/

/-- The groups of a context and what they have under way removed, with no event (07 R163): slots, records, queue entries, accesses, waits, launches. -/
def dropGroups (s : State) (ctx : Nat) : State :=
  let mine : Nat → Bool := fun l => match SMap.get? s.que.launches l with | some x => x.ctx == ctx | none => false
  let s := { s with cores := s.cores.map (fun (c : Core) =>
    { c with
      slots := c.slots.map (fun (g : Option Group) => g.filter (fun (x : Group) => x.ctx != ctx)),
      ended := c.ended.filter (fun (g : Group) => g.ctx != ctx),
      recs := c.recs.map (fun (r : Rec) => match r.grp with | some g => if g.ctx = ctx then Rec.reset else r | none => r),
      accs := c.accs.filter (fun e => e.2.ctx != ctx),
      matq := c.matq.filter (fun e => e.ctx != ctx), vecq := c.vecq.filter (fun e => e.ctx != ctx),
      dmaq := c.dmaq.filter (fun e => e.ctx != ctx), fabq := c.fabq.filter (fun e => e.ctx != ctx),
      spadAreas := c.spadAreas.filter (fun a => !mine a.launch), ocAreas := c.ocAreas.filter (fun a => !mine a.launch) }) }
  let s := { s with jobs := s.jobs.filter (fun (j : Nat × EngJob) => match j.2.origin with | .group _ _ _ _ => j.2.ctx != ctx | .queue _ _ => true) }
  let s := { s with sync := { s.sync with
    objs := s.sync.objs.map (fun (e : Nat × SyncObj) => (e.1, { e.2 with waits := e.2.waits.filter (fun (w : SWait) => w.ctx != ctx) })),
    msgs := s.sync.msgs.filter (fun (m : SyncMsg) => m.ctx != ctx || (match m.op with | .signal _ _ => true | .sarm _ _ => true | _ => m.frm.isNone)) } }
  (s.que.launches.filter (fun (l : Nat × Launch) => l.2.ctx == ctx)).foldl (fun s (l : Nat × Launch) => dropLaunch s l.1 l.2) s

/-- A context's banks emptied with MZERO and the rings it loaded reset (04 R89). -/
def dropBanks (s : State) (ctx : Nat) : State :=
  { s with cores := s.cores.map (fun (c : Core) =>
    let own : Nat → Bool := fun b => (nth c.banks b LBank.reset).owner == ctx
    let cut := match c.stage.todo.head? with | some v => v.ctx == ctx | none => false
    { c with
      stage := { c.stage with todo := c.stage.todo.filter (fun (v : Native) => v.ctx != ctx)
                              pass := if cut then 0 else c.stage.pass
                              held := if cut then Staged.none else c.stage.held },
      arrays := c.arrays.map (fun (r : Arr) =>
        { r with phys := r.phys.map (fun (p : Option Phys) => p.filter (fun (x : Phys) => !own x.bank))
                 replay := r.replay.filter (fun (y : Replay) => !own y.bank) }),
      banks := c.banks.map (fun (b : LBank) => if b.owner = ctx then LBank.reset else b),
      rings := c.rings.map (fun (r : Ring) => if r.ctxs.contains ctx then Ring.reset else r) }) }

/-- The entries of a context's LAUNCH, DMA and MSG queues that have not been taken are discarded. -/
def emptyQueues (s : State) (ctx : Nat) : State :=
  { s with que := { s.que with descs := s.que.descs.map (fun (e : Nat × QDesc) =>
    if e.2.owner = ctx && (e.2.ty = 0 || e.2.ty = 1 || e.2.ty = 3) then
      (e.1, { e.2 with cons := e.2.prod, take := e.2.prod, startWait := none, done := [] }) else e) } }

/-- The buckets and runs of a context ended ABORTED (13 R318, 14 R334). -/
def abortSeqs (s : State) (ctx : Nat) : State :=
  let s := (s.buckets.filter (fun (e : Nat × Bucket) => e.2.ctx == ctx)).foldl (fun s e => abortBucket s e.1) s
  (s.runs.filter (fun (e : Nat × URun) => e.2.ctx == ctx)).foldl (fun s e => abortRun s e.1) s

/-- The contexts of a job on this module. -/
def jobCtxs (s : State) (job : Nat) : List Nat := (s.ctxs.filter (fun (e : Nat × Ctx) => e.2.job == job)).map (·.1)

/-- QUIESCE of a job on this module (R356 step 1, 16 R379). -/
def quiesceJob (s : State) (job : Nat) : State :=
  let cs := jobCtxs s job
  let s := cs.foldl (fun s x => abortSeqs (emptyQueues (dropBanks (dropGroups s x) x) x) x) s
  let s := { s with ctxs := s.ctxs.map (fun (e : Nat × Ctx) => if e.2.job = job then (e.1, { e.2 with quiesced := true }) else e) }
  let ms := ((SMap.getD s.lpm job []).map (fun (e : Nat × Nat) => e.2)).filter (fun m => some (BitVec.ofNat 12 m) != s.fabricId)
  ms.foldl resetConn s

/-! ### Recovery (R353, R356-R358) -/

/-- Firmware's restore of a context to a generation (R345): memory of the checkpointable ranges and the trackers as of the step, sync objects ARMED with
counter 0, every other byte the context can address free, L the step, copies rebuilt (R352). -/
def restoreCtx (s : State) (ctx area : Nat) : State :=
  match SMap.get? s.ckpts ctx with
  | none => s
  | some c =>
    let img := if area = 0 then c.imgs.1 else c.imgs.2
    let trk := if area = 0 then c.snaps.1 else c.snaps.2
    let mine : Nat → Bool := fun a => s.regions.any (fun (e : Nat × Region) => e.2.valid && !e.2.kind && e.2.owner == ctx && decide (4096 * e.2.base ≤ a) && decide (a < 4096 * (e.2.limit + 1)))
    let keep := s.mem.cells.filter (fun e => !mine e.1 && !inRanges c.ranges e.1)
    let lost := (s.mem.cells.filter (fun e => mine e.1 && !inRanges c.ranges e.1)).map (·.1)
    let d := drawBytes lost.length s
    let s := setCells d.2 ((lost.zip d.1).foldl (fun m e => cellPut m e.1 e.2) (img.foldl (fun m (e : Nat × Byte) => cellPut m e.1 e.2) keep))
    let s := { s with trackers := trk.foldl (fun m (e : Nat × Tracker) => SMap.put m e.1 e.2) (s.trackers.filter (fun (e : Nat × Tracker) => e.2.owner != ctx)) }
    let s := { s with sync := { s.sync with objs := s.sync.objs.map (fun (e : Nat × SyncObj) =>
      if e.2.owner = ctx && e.2.st != ObjSt.free then (e.1, { e.2 with st := .armed, cnt := 0 }) else e) } }
    let step := (c.gen area).step
    let s := modCkpt s ctx (fun c => { c with mark := some step, dirty := [], pend := [], parts := [], st := 0, recSent := false, rebuild := [] })
    c.segs.foldl (fun s e => if inRanges c.ranges e.1 then rebuildSeg s ctx (segOf e) else s) s

/-- The steps that a context can be restored to, by area: complete at one buddy at least. -/
def usableGens (c : Ckpt) : List Nat := [0, 1].filter (fun i => (c.gen i).valid && ((c.gen i).complete.1 || (c.gen i).complete.2))

/-- The area that the restore takes (R353): the newest step that is complete for the job. The steps of the other members are not this module's state, so of two
usable steps the choice is free; with one there is no choice (log entry 59). -/
def restoreArea (s : State) (ctx : Nat) : Option Nat × State :=
  match SMap.get? s.ckpts ctx with
  | none => (none, s)
  | some c =>
    match usableGens c with
    | [] => (none, s)
    | [a] => (some a, s)
    | _ =>
      let newest := if stepAfter c.gens.1.step c.gens.2.step then 0 else 1
      let alone := match SMap.get? s.ctxs ctx with | some x => decide ((liveMembers s x.job).length ≤ 1) | none => true
      if alone then (some newest, s) else let r := drawNat s; (some (r.1 % 2), r.2)

/-- RECOVERED or JOB_FAILED (R357) to a context's event queue. Spares left are a free value, and so is the module of a rank that was not replaced
(log entry 74). -/
def postRecovery (s : State) (ctx kind : Nat) (step : W32) (r : Recovery) : State :=
  match SMap.get? s.ckpts ctx with
  | none => s
  | some c =>
    let last := r.lost.getLast?
    let left := drawNat s
    let bs := natBytes 4 kind ++ natBytes 4 step.toNat ++ natBytes 4 (r.number % 65536 + 65536 * (match last with | some l => l.1 % 4096 | none => 0xFFF))
      ++ natBytes 4 ((match last with | some l => l.2 % 4096 | none => left.1 / 16 % 4096) + 4096 * (left.1 % 16)) ++ natBytes 8 r.opened ++ natBytes 8 s.ftime
    deliverEntry left.2 c.evq bs none

/-- The resume launch entry placed in the context's LAUNCH queue, with the restore step in the first 4 bytes of its argument block. -/
def placeResume (s : State) (ctx : Nat) (step : W32) : State :=
  match SMap.get? s.ckpts ctx with
  | none => s
  | some c =>
    let s := fwWrite s (bytesNat ((c.resume.drop 0x18).take 6)) (natBytes 4 step.toNat)
    match descOf s c.resumeQ with
    | none => s
    | some d => appendEntry (touchDesc s c.resumeQ) c.resumeQ d c.resume

/-- A recovery's record changed. -/
def modRec (s : State) (job : Nat) (f : Recovery → Recovery) : State :=
  { s with fw := { s.fw with recovs := SMap.mod s.fw.recovs job f } }

/-- A job that cannot be restored (R358): JOB_FAILED, and the contexts stay quiesced. -/
def jobFailed (s : State) (job : Nat) (r : Recovery) : State :=
  let s := (jobCtxs s job).foldl (fun s x => postRecovery s x 0x31 0xFFFFFFFF r) s
  { s with fw := { s.fw with recovs := SMap.del s.fw.recovs job } }

/-- Promotion of the board's spare in the ranks of lost modules (R356 step 2): the map, routes and IMPORT entries; the manager tells the spare, which
leaves relay mode (11 R264). -/
def promote (s : State) (job : Nat) (lost : Nat) : State :=
  let spare := s.fw.spare
  let s := { s with lpm := SMap.mod s.lpm job (fun m => m.map (fun (e : Nat × Nat) => if e.2 = lost then (e.1, spare) else e)) }
  let s := { s with regions := s.regions.map (fun (e : Nat × Region) =>
    if e.2.valid && e.2.kind && e.2.peer == BitVec.ofNat 12 lost then (e.1, { e.2 with peer := BitVec.ofNat 12 spare }) else e) }
  let s := { s with ckpts := s.ckpts.map (fun (e : Nat × Ckpt) =>
    (e.1, { e.2 with buddies := (if e.2.buddies.1 = lost then spare else e.2.buddies.1, if e.2.buddies.2 = lost then spare else e.2.buddies.2) })) }
  let s := (List.range 4).foldl (fun s d => regPut s (regAddr .fab d (0x100000 + 8 * lost)) (routeOf s d spare)) s
  if managerOf s job == some (selfId s).toNat then sendMgmt s spare .promote else s

/-- Whether a spare is left for a lost module (R358): SPARE_POLICY names one, and it is not itself lost. -/
def spareLeft (s : State) (job : Nat) (r : Recovery) : Bool :=
  s.fw.spare != 0 && !(SMap.getD s.lpm job []).any (fun (e : Nat × Nat) => e.2 == s.fw.spare)
  && !r.lost.any (fun l => l.2 == s.fw.spare)
  && !(match SMap.get? s.fw.mesh s.fw.spare with | some p => p.dead | none => false)

/-- RECOVERY_OPEN (R356, R358): the steps of a recovery on this module, one an invocation: tear down, promote, restore, resume. A further fault identity restarts it
from tear down. -/
def execRecoveryOpen (job : BitVec 16) (lost : Option (BitVec 12)) (faultId : W32) (s : State) : Out :=
  let j := job.toNat
  if !s.pkg.ready || j = 0 || (jobCtxs s j).isEmpty then .next s
  else
    let isMgr := managerOf s j == some (selfId s).toNat
    match SMap.get? s.fw.recovs j with
    | none =>
      let r : Recovery := { number := s.fw.nextRec, job := j, faults := [faultId], lost := [], opened := s.ftime, phase := 1 }
      let s := { s with fw := { s.fw with recovs := SMap.put s.fw.recovs j r, nextRec := (s.fw.nextRec + 1) % 65536 } }
      let s := if isMgr then ((liveMembers s j).filter (fun m => m != (selfId s).toNat)).foldl (fun s m => sendMgmt s m (.quiesce j)) s else s
      .next (bump0 (quiesceJob s j) .err 0 0x040)
    | some r =>
      if !r.faults.contains faultId then
        let s := if isMgr then ((liveMembers s j).filter (fun m => m != (selfId s).toNat)).foldl (fun s m => sendMgmt s m (.quiesce j)) s else s
        .next (quiesceJob (modRec s j (fun r => { r with faults := r.faults ++ [faultId], phase := 1 })) j)
      else if r.phase = 1 then
        match lost with
        | none => .next (modRec s j (fun r => { r with phase := 2 }))
        | some m =>
          match (SMap.getD s.lpm j []).find? (fun (e : Nat × Nat) => e.2 == m.toNat) with
          | none => .next (modRec s j (fun r => { r with phase := 2 }))
          | some e =>
            if spareLeft s j r then
              .next (modRec (promote s j m.toNat) j (fun r => { r with phase := 2, lost := r.lost ++ [(e.1, s.fw.spare)] }))
            else .next (jobFailed s j r)
      else if r.phase = 2 then
        let cs := (jobCtxs s j).filter (fun x => (SMap.get? s.ckpts x).isSome)
        let p := cs.foldl (fun (a : Bool × State) x =>
          let k := restoreArea a.2 x
          match k.1 with
          | some area => (a.1, restoreCtx k.2 x area)
          | none => (false, k.2)) (true, s)
        if p.1 then .next (modRec p.2 j (fun r => { r with phase := 3 })) else .next (jobFailed s j r)
      else
        let s := { s with ctxs := s.ctxs.map (fun (e : Nat × Ctx) => if e.2.job = j then (e.1, { e.2 with quiesced := false }) else e) }
        let s := (jobCtxs s j).foldl (fun s x =>
          match (SMap.get? s.ckpts x).bind (fun (c : Ckpt) => c.mark) with
          | some step => postRecovery (placeResume s x step) x 0x30 step r
          | none => s) s
        .next { s with fw := { s.fw with recovs := SMap.del s.fw.recovs j } }

/-! ### Generation areas held as a buddy (15 R344, 16 CKPT_CONFIG, 08 R452) -/

/-- The bytes at the top of a die's DDR5 range that the queue table and the kernel cache take. -/
def fwTopDdr (d : Nat) : Nat := if d = 3 then 0x8000000 else 0
/-- The highest base below `top` in die `d`'s DDR5 range at which `n` bytes fit between the areas held. -/
def fitBelow (held : List (Nat × Nat)) (lo n : Nat) : Nat → Nat → Option Nat
  | 0, _ => none
  | fuel + 1, top =>
    if top < lo + n then none
    else
      match held.find? (fun (h : Nat × Nat) => decide (h.1 < top) && decide (top - n < h.1 + h.2)) with
      | some h => fitBelow held lo n fuel h.1
      | none => some (top - n)
/-- Two generation areas reserved for a context of another module, downward from below the kernel cache, die 3 first. -/
def reserveGen (s : State) (src ctx bytes : Nat) : State :=
  let held := s.fw.gens.map (fun (g : Nat × Nat × Nat × Nat) => (g.2.2.1, g.2.2.2))
  let size := ddrPerDie s
  let n := 2 * bytes
  let at_ := [3, 2, 1, 0].findSome? (fun d =>
    let lo := 0x10000000000 + d * 0x4000000000
    fitBelow held lo n (held.length + 1) (lo + (size - fwTopDdr d)))
  match at_ with
  | some b => if size = 0 then s else { s with fw := { s.fw with gens := s.fw.gens ++ [(src, ctx, b, n)] } }
  | none => s

/-! ### MGMT received (12 R272) -/

/-- What firmware does with an MGMT transaction of module `src`. -/
def takeMgmt (s : State) (src : Nat) (m : Config.Mgmt) : State :=
  match m with
  | .heartbeat st =>
    let p := SMap.getD s.fw.mesh src ⟨none, false, false⟩
    let s := { s with fw := { s.fw with mesh := SMap.put s.fw.mesh src { p with last := some s.now, dying := st == 2 } } }
    if st = 2 && !p.dead then declareDead s src else s
  | .record bs => takeForwarded s bs
  | .more f c => takeMore s f c
  | .quiesce j => if (jobCtxs s j).isEmpty then s else quiesceJob s j
  | .latch t => tsyncOffset s src t
  | .promote => if s.fab.relay then announce { s with fab := { s.fab with relay := false } } else s
  | .reset => resetConn s src
  | .base b => modConn s src (fun c => takeBase c (BitVec.ofNat 32 b))
  | .journal bs => { s with fw := { s.fw with journal := s.fw.journal ++ [{ job := 0, member := src, req := bs, image := [] }] } }
  | .reserve ctx n => reserveGen s src ctx n
  | .release ctx => { s with fw := { s.fw with gens := s.fw.gens.filter (fun g => !(g.1 == src && g.2.1 == ctx)) } }
  | .other => s

/-- FABRIC_MGMT_RECEIVE (12 R272): handed to firmware; neither numbered nor acknowledged. A module without an ID takes what reaches it (16 R451). -/
def execFabricMgmtReceive (die : Fin 4) (t : Txn) (s : State) : Out :=
  if t.ty != 7 || (s.fabricId.isSome && s.fabricId != some t.dst) then .next s
  else
    let s := takeItem s (diePorts die.val) (.txn t)
    let s := bump0 { s with fab := { s.fab with inbox := s.fab.inbox ++ [t] } } .fab die.val 0x020
    .next (takeMgmt s t.src.toNat (Config.mgmtRead t.op t.payload))

/-! ### Control registers (R359) -/

/-- ERR_CTRL. -/
def errCtrl (w : RegWr) (s : State) : Out :=
  ctlWrite w .err (fun off => off == 0x008) fwOnly (fun u _ v s =>
    let s := clearIf v 0 .err (offs 0x010 0x040) u s
    if v.testBit 1 then { s with err := { s.err with overflow := false } } else s) s
/-- ERR_CLR_COUNTS. -/
def execErrClrCounts (w : RegWr) (s : State) : Out := errCtrl w s
/-- ERR_CLR_OVERFLOW. -/
def execErrClrOverflow (w : RegWr) (s : State) : Out := errCtrl w s
/-- CKP_CLR_COUNTS. -/
def execCkpClrCounts (w : RegWr) (s : State) : Out :=
  ctlWrite w .err (fun off => off == 0x110) fwOnly (fun u _ v s => clearIf v 0 .err (offs 0x128 0x160) u s) s

/-- CKP_STATUS (Table 15.8), of the context that has one open, the lowest first (log entry 60). -/
def ckpStatus (s : State) : Nat :=
  match s.ckpts with
  | [] => 0
  | (_, c) :: _ => c.st + 4 * c.cur + 2 ^ 32 * (match c.lastDone with | some w => w.toNat | none => 0)
/-- CKP_GENn. -/
def ckpGen (s : State) (i : Nat) : Nat :=
  match s.ckpts with
  | [] => 0
  | (_, c) :: _ => let g := c.gen i; g.step.toNat + 2 ^ 32 * b2n g.valid + 2 ^ 33 * b2n g.complete.1 + 2 ^ 34 * b2n g.complete.2
/-- ERR_STATUS. -/
def errStatus (s : State) : Nat :=
  s.err.log.length + 65536 * (s.err.log.filter (fun (l : LogRec) => !l.read)).length + 2 ^ 32 * b2n s.err.overflow + 2 ^ 33 * b2n (!s.fw.recovs.isEmpty)

end Sys2Proof.Machine
end

