-- ==== Sys2Proof/Machine/Mailbox.lean ====
section
/-! DEFINITION. Mailboxes (16 R360-R366): GO, the header's checks, responses; sessions (17 R383-R391); the SMBus mailboxes (16 R365, 19 R429). -/

namespace Sys2Proof.Machine

/-! ### Requests and responses (R360-R363) -/

/-- Mailbox `m`. -/
def mbxOf (s : State) (m : Nat) : Mbx := nth s.mbx m Mbx.reset
/-- Mailbox `m` changed. -/
def modMbx (s : State) (m : Nat) (f : Mbx → Mbx) : State := { s with mbx := modAt (padUp 11 Mbx.reset s.mbx) m f }
/-- A field of the request: `n` bytes at an offset of the message. -/
def reqF (s : State) (m off n : Nat) : Nat := bytesNat (((mbxOf s m).req.drop off).take n)
/-- A field of the request's body. -/
def bodyF (s : State) (m off n : Nat) : Nat := reqF s m (32 + off) n
/-- The request's OPCODE. -/
def reqOp (s : State) (m : Nat) : Nat := reqF s m 0 2
/-- The request's LENGTH. -/
def reqLen (s : State) (m : Nat) : Nat := reqF s m 4 4

/-- The session of a mailbox, where it is AUTHENTICATED. -/
def authSession (s : State) (m : Nat) : Option Session := (mbxOf s m).session.filter (fun (x : Session) => !x.pending)

/-- The MAC of a message (Table 16.3): over the header with MAC zero, then the body. -/
def macOf (key msg : List Byte) : List Byte := (hmac384 key (msg.take 16 ++ List.replicate 16 0 ++ msg.drop 32)).take 16

/-- A response written (R361, R362): the mailbox is DONE, and a host or debug mailbox raises its MSI-X vector. `key` seals it; without one MAC is zero. -/
def respond (s : State) (m status : Nat) (body : List Byte) : State :=
  let x := mbxOf s m
  let head := natBytes 2 (reqOp s m) ++ natBytes 2 status ++ natBytes 4 body.length ++ natBytes 4 (reqF s m 8 4) ++ natBytes 4 (reqF s m 12 4)
  let msg := head ++ List.replicate 16 0 ++ body
  let msg := if x.key.isEmpty then msg else head ++ macOf x.key msg ++ body
  let s := modMbx s m (fun x => { x with st := 2, responses := (x.responses + 1) % 65536, rsp := msg, stage := 0, key := [], readAt := 0 })
  if m < 9 then raiseMsix s m else s

/-- A failed request: from status 0x0100 on the body is the offset of the offending field, or all ones. -/
def respondFail (s : State) (m status off : Nat) : State := respond s m status (if status < 0x100 then [] else natBytes 4 off)

/-- The session of a mailbox ended (17 R389). -/
def endSession (s : State) (m : Nat) : State := modMbx s m (fun x => { x with session := none })

/-! ### Opcodes (Tables 16.6 to 16.12) -/

/-- The opcodes. -/
def opcodes : List Nat :=
  [0x001, 0x002, 0x003, 0x101, 0x102, 0x103, 0x201, 0x202, 0x203, 0x301, 0x302, 0x401, 0x501, 0x502, 0x601, 0x602, 0x603, 0x701, 0x702, 0x703,
   0x704, 0x801, 0x802, 0x803, 0x804, 0x901, 0x902, 0x903, 0x904]
/-- The opcodes that SMBus mailboxes take (R365). -/
def smbOpcodes : List Nat := [0x001, 0x002, 0x003, 0x801, 0x802, 0x803, 0x804, 0x704, 0x603, 0x901]

/-- Whether a mailbox takes an opcode (R365, 17 Table 17.5): the debug mailbox beyond sessions only in MANUFACTURE and RMA, or under a SERVICE session in DEPLOYED. -/
def takesOp (s : State) (m op : Nat) : Bool :=
  if m < 8 then opcodes.contains op
  else if m = 8 then
    opcodes.contains op && (op < 4 || s.sec.lcs = 1 || s.sec.lcs = 4
      || (s.sec.lcs == 3 && (match authSession s 8 with | some x => x.level == 2 | none => false)))
  else smbOpcodes.contains op

/-- The length that a request of an opcode must have (Tables 16.6 to 16.12), over the fields of its body; a defined opcode only. -/
def opLength (f : Nat → Nat → Nat) (op : Nat) : Option Nat :=
  match op with
  | 0x001 => some 40
  | 0x002 => some 56
  | 0x003 => some 0
  | 0x101 => some 28
  | 0x201 => some 32
  | 0x301 => some 24
  | 0x401 => some 24
  | 0x501 => some 16
  | 0x502 => some 72
  | 0x601 => some (8 + 8 * min 504 (f 4 2))
  | 0x602 => some ((8 + 2 * min 2000 (f 4 2) + 3) / 4 * 4)
  | 0x701 => some 16
  | 0x702 => some 12
  | 0x703 => some ((0x54 + 2 * min 64 (f 0x50 2) + 3) / 4 * 4)
  | 0x704 => some 12
  | 0x803 => some 8
  | 0x903 => some 24
  | 0x102 | 0x103 | 0x202 | 0x203 | 0x302 | 0x603 | 0x801 | 0x802 | 0x804 | 0x901 | 0x902 | 0x904 => some 4
  | _ => none

/-- The first two checks of R363, which belong to no command: LENGTH in range and OPCODE known and allowed here. A request that fails one is answered.
Responses to SESSION_OPEN and SESSION_AUTH carry no MAC (Table 16.3). -/
def screen (m : Nat) (s : State) : State :=
  let x := mbxOf s m
  if x.st != 1 || x.stage != 0 then s
  else
    let s := modMbx s m (fun x =>
      { x with key := (match (if reqOp s m = 1 || reqOp s m = 2 then none else x.session) with | some y => y.rspKey | none => []) })
    let len := reqLen s m
    if len % 4 != 0 || 4064 < len || (9 ≤ m && 224 < len) then respondFail s m 0x101 0xFFFFFFFF
    else if !takesOp s m (reqOp s m) then
      respondFail s m (match opLength (bodyF s m) (reqOp s m) with | some n => if n = len then 0x102 else 0x101 | none => 0x102) 0xFFFFFFFF
    else s

/-- A GO (R361): the mailbox becomes BUSY with the request, or, while it is BUSY, sets OVERRUN. -/
def goMbx (s : State) (m : Nat) (req : List Byte) : State :=
  if (mbxOf s m).st = 1 then modMbx s m (fun x => { x with overrun := true })
  else
    let s := modMbx s m (fun x =>
      { x with st := 1, overrun := false, req := padTo 4096 0 (req.take 4096), rank := s.fw.gos, stage := 0, key := [], readAt := 0 })
    let s := { s with fw := { s.fw with gos := s.fw.gos + 1 } }
    if s.pkg.ready then screen m s else s

/-- MBX_GO (R361): the host writes GO; before READY the mailbox stays BUSY (19 R441). -/
def execMbxGo (k : Fin 9) (req : List Byte) (s : State) : Out :=
  if s.pkg.pwrgood && s.pkg.perst && !s.pkg.held && !s.pkg.noFirmware then .next (goMbx s k.val req) else .next s

/-! ### SMBus (R365, 19 R429) -/

/-- SMB_BLOCK_WRITE: a fragment of the request to mailbox 9 or 10, up to 240 bytes. -/
def execSmbBlockWrite (m : Fin 2) (off : Nat) (frag : List Byte) (s : State) : Out :=
  let k := 9 + m.val
  if !s.pkg.pwrgood || s.pkg.held || s.pkg.noFirmware || frag.isEmpty || 240 < frag.length || 4096 < off + frag.length || (mbxOf s k).st = 1 then .next s
  else .next (modMbx s k (fun x => { x with req := (padTo 4096 0 x.req).take off ++ frag ++ (padTo 4096 0 x.req).drop (off + frag.length) }))

/-- What a Block Read returns: the next fragment's offset and bytes. -/
def smbFragment (x : Mbx) : Nat × List Byte := (x.readAt, (x.rsp.drop x.readAt).take 240)

/-- SMB_BLOCK_READ: the next fragment; the last one again after the last. -/
def execSmbBlockRead (m : Fin 2) (s : State) : Out :=
  let k := 9 + m.val
  let x := mbxOf s k
  if s.pkg.held || x.st != 2 then .next s
  else
    let f := smbFragment x
    let s := { s with fw := { s.fw with rdSmb := natBytes 2 f.1 ++ f.2 } }
    .next (modMbx s k (fun x => { x with readAt := if x.readAt + 240 < x.rsp.length then x.readAt + 240 else x.readAt }))

/-- SMB_STATE_READ: MBXm_STATE[7:0]. -/
def execSmbStateRead (m : Fin 2) (s : State) : Out :=
  .next { s with fw := { s.fw with rdSmb := [BitVec.ofNat 8 (mbxOf s (9 + m.val)).st] } }

/-- SMB_GO: a Block Write of no bytes. -/
def execSmbGo (m : Fin 2) (s : State) : Out :=
  if s.pkg.pwrgood && !s.pkg.held && !s.pkg.noFirmware then .next (goMbx s (9 + m.val) (mbxOf s (9 + m.val)).req) else .next s

/-- The status byte (19 R429). -/
def statusByte (s : State) : Nat :=
  b2n s.pkg.ready + 2 * b2n s.pkg.held + 4 * b2n s.pkg.noFirmware + 8 * b2n s.pkg.thermtrip + 16 * b2n s.pkg.railFault
/-- ALERT# is asserted (19 R430). -/
def alertLow (s : State) : Bool := statusByte s / 2 != 0

/-- SMB_STATUS_READ. -/
def execSmbStatusRead (s : State) : Out := .next { s with fw := { s.fw with rdSmb := [BitVec.ofNat 8 (statusByte s)] } }

/-! ### A command's course (R363, R364, R366) -/

/-- How an attempt to carry out a command ends: done with a response body, done with a status of the command's own, refused with a status and an offset, or not finished. -/
inductive Ran where
  | ok (s : State) (body : List Byte)
  | part (s : State) (status : Nat) (body : List Byte)
  | fail (s : State) (status off : Nat)
  | wait (s : State)

/-- The context a request names, where its command names one. -/
def reqCtx (s : State) (m : Nat) : Option Nat :=
  let op := reqOp s m
  if [0x102, 0x103, 0x201, 0x202, 0x203, 0x301, 0x401, 0x501, 0x502, 0x701, 0x702, 0x703].contains op then some (bodyF s m 0 1)
  else if op = 0x302 then (SMap.get? s.que.descs (bodyF s m 0 4)).map (fun (d : QDesc) => d.owner)
  else none

/-- The contexts a request names: SYNC_MAP with SHARE names its source's too. -/
def reqCtxs (s : State) (m : Nat) : List Nat :=
  (reqCtx s m).toList ++ (if reqOp s m = 0x501 && bodyF s m 1 1 = 1 then [bodyF s m 12 1] else [])

/-- Whether a request waits (R364): an earlier GO names the same context, or the context's job is in recovery. -/
def ctxWaits (s : State) (m : Nat) : Bool :=
  (reqCtxs s m).any (fun c =>
    (List.range 11).any (fun k => k != m && (mbxOf s k).st == 1 && decide ((mbxOf s k).rank < (mbxOf s m).rank) && (reqCtxs s k).contains c)
    || (match SMap.get? s.ctxs c with | some x => (SMap.get? s.fw.recovs x.job).isSome | none => false))

/-- Whether a level may open sessions in a life-cycle state (17 Table 17.5). -/
def levelOpen (lcs level : Nat) : Bool :=
  match level with
  | 0 => lcs == 2 || lcs == 3 || lcs == 4
  | 1 => lcs == 3
  | 2 => lcs == 3 || lcs == 4
  | 3 => lcs == 1 || lcs == 4
  | _ => false

/-- The levels that may issue a command (Table 16.5, 17 Tables 17.4, 17.5). -/
def opLevel (s : State) (op level : Nat) : Bool :=
  if op = 0x502 || (0x601 ≤ op && op ≤ 0x603) || op = 0x704 || op = 0x804 then level == 0
  else if op < 0x800 then level == 0 || level == 1 || op == 3
  else if op ≤ 0x803 then true
  else if op = 0x901 then level == 0 || level == 2
  else if op = 0x902 || op = 0x903 then level == 2 || (level == 3 && (s.sec.lcs == 1 || s.sec.lcs == 4))
  else true

/-- Whether the commands of an opcode act on contexts and so need DEPLOYED (17 Table 17.5). -/
def ctxOp (op : Nat) : Bool := (0x100 ≤ op && op < 0x600) || op = 0x701 || op = 0x702 || op = 0x703

/-- The checks of R363 from LENGTH to the privilege level: status and offset of the first that fails. -/
def headerCheck (s : State) (m len : Nat) : Option Nat :=
  let op := reqOp s m
  if reqLen s m != len then some 0x101
  else
    match authSession s m with
    | none => some 0x103
    | some x =>
      if reqF s m 8 4 != x.id.toNat then some 0x103
      else if reqF s m 12 4 != x.expect || x.expect = 0 then some 0x104
      else if (((mbxOf s m).req.drop 16).take 16) != macOf x.reqKey ((mbxOf s m).req.take (32 + len)) then some 0x105
      else if !opLevel s op x.level then some 0x106
      else none

/-- Whether the session's authority covers the context a request names (R366): 0, or the status. -/
def ownStatus (s : State) (m : Nat) : Nat :=
  match reqCtx s m, authSession s m with
  | some c, some x =>
    match SMap.get? s.ctxs c with
    | none => if reqOp s m = 0x502 && c = 0xFF then 0 else 0x107
    | some k => if x.level = 1 && k.keyId != x.keyId then 0x109 else 0
  | _, _ => 0

/-- A request's reserved bytes are zero: the offset of the first that is not, among those outside the listed fields. -/
def reservedBad (s : State) (m len : Nat) (fields : List (Nat × Nat)) : Option Nat :=
  (List.range len).find? (fun i => !fields.any (fun f => decide (f.1 ≤ i) && decide (i < f.1 + f.2)) && bodyF s m i 1 != 0)

/-- Journal entries (R366, 15 R355): a command that names a context of a job. -/
def journalReq (s : State) (m : Nat) (image : List Byte) : State :=
  let job := match reqCtx s m with
    | some c => (match SMap.get? s.ctxs c with | some x => x.job | none => 0)
    | none => if reqOp s m = 0x101 then bodyF s m 4 2 else 0
  if job = 0 || !ctxOp (reqOp s m) then s
  else
    let req := (mbxOf s m).req.take (32 + reqLen s m)
    let s := { s with fw := { s.fw with journal := s.fw.journal ++ [{ job := job, member := (selfId s).toNat, req := req, image := image }] } }
    match managerOf s job with
    | some k => if k = (selfId s).toNat then (((liveMembers s job).drop 1).take 2).foldl (fun s b => sendMgmt s b (.journal req)) s else sendMgmt s k (.journal req)
    | none => s

/-- What the end of an attempt leaves. -/
def ranOut (m : Nat) (image : List Byte) (r : Ran) : State :=
  let closing : State → State := fun s =>
    match (mbxOf s m).session with
    | some x => if x.expect = 2 ^ 32 && x.id.toNat == reqF s m 8 4 then endSession s m else s
    | none => s
  match r with
  | .ok s body => closing (respond (journalReq s m image) m 0 body)
  | .part s status body => closing (respond (journalReq s m image) m status body)
  | .fail s status off => closing (respondFail s m status off)
  | .wait s => s

/-- A command of opcode `op` in mailbox `m`: the checks of R363 once, then what firmware does; `len` is the length its request must have, `fields` its
listed fields. -/
def command (m : Fin 11) (op : Nat) (len : Nat) (fields : List (Nat × Nat)) (image : List Byte) (run : State → Ran) (s : State) : Out :=
  let k := m.val
  let x := mbxOf s k
  if !s.pkg.ready || s.sec.target != 7 || x.st != 1 || reqOp s k != op || !takesOp s k op then .next s
  else if x.stage != 0 then .next (ranOut k image (run s))
  else if ctxWaits s k then .next s
  else
    match headerCheck s k len with
    | some status =>
      let s := if status = 0x104 || status = 0x105 then bump0 s .sec 0 0x028 else s
      let s := if status = 0x106 then modMbx s k (fun x => { x with session := x.session.map (fun (y : Session) => { y with expect := y.expect + 1 }) }) else s
      let key := match (mbxOf s k).session with | some y => if status = 0x103 then [] else y.rspKey | none => []
      .next (ranOut k image (.fail (modMbx s k (fun x => { x with key := key })) status 0xFFFFFFFF))
    | none =>
      let s := modMbx s k (fun x =>
        { x with stage := 1, key := (match x.session with | some y => y.rspKey | none => []),
                 session := x.session.map (fun (y : Session) => { y with expect := y.expect + 1 }) })
      match reservedBad s k len fields with
      | some off => .next (ranOut k image (.fail s 0x107 off))
      | none =>
        if ctxOp op && s.sec.lcs != 3 then .next (ranOut k image (.fail s 0x10B 0xFFFFFFFF))
        else if ownStatus s k != 0 then .next (ranOut k image (.fail s (ownStatus s k) 0))
        else .next (ranOut k image (run s))

/-! ### Sessions (17 R385-R390) -/

/-- The key record of a KEY_ID. -/
def keyOf (s : State) (id : Nat) : Option KeyRec := (s.sec.keys.find? (fun (e : Nat × KeyRec) => e.2.id == id)).map (·.2)
/-- The authentication count of a key. -/
def authOf (s : State) (id : Nat) : AuthCnt := SMap.getD s.sec.auth id ⟨0, none, 1⟩
/-- Whether a key is locked (R388). -/
def keyLocked (s : State) (id : Nat) : Bool := match (authOf s id).lock with | some t => decide (s.now < t) | none => false

/-- A session ID that no open session has, starting from a draw. -/
def freshId (s : State) : Nat → Nat → Nat
  | 0, x => x
  | n + 1, x => if x % 2 ^ 32 = 0 || s.mbx.any (fun (b : Mbx) => match b.session with | some y => y.id.toNat == x % 2 ^ 32 | none => false) then freshId s n (x + 1) else x % 2 ^ 32

/-- What both proofs and the message keys are computed over (R385, R386). -/
def sessionTail (x : Session) : List Byte := natBytes 4 x.id.toNat ++ natBytes 4 x.keyId ++ [BitVec.ofNat 8 x.level]
/-- PROOF and DEVICE_PROOF. -/
def proofOf (tag : String) (key : List Byte) (x : Session) : List Byte := hmac384 key (ascii tag ++ sessionTail x ++ x.hostNonce ++ x.devNonce)

/-- A session command: the request in mailbox `m` has this opcode and length, and is not yet carried out. -/
def sessionReq (m : Fin 11) (op len : Nat) (s : State) (run : State → State) : Out :=
  let k := m.val
  if !s.pkg.ready || (mbxOf s k).st != 1 || reqOp s k != op then .next s
  else if reqLen s k != len then .next (respondFail s k 0x101 0xFFFFFFFF)
  else if reqF s k 8 4 != 0 then .next (respondFail s k 0x103 0xFFFFFFFF)
  else .next (run s)

/-- SESSION_OPEN (R385, R387-R389). -/
def execSessionOpen (m : Fin 11) (s : State) : Out :=
  sessionReq m 0x001 40 s (fun s =>
    let k := m.val
    let id := bodyF s k 0 4
    let level := bodyF s k 4 1
    if s.sec.error then respondFail s k 0x10B 0xFFFFFFFF
    else
      match keyOf s id with
      | none => respondFail s k 0x107 0
      | some r =>
        if 3 < level then respondFail s k 0x107 4
        else if keyLocked s id then respondFail s k 0x10A 0
        else if !r.mask.testBit level || !levelOpen s.sec.lcs level then respondFail s k 0x106 4
        else
          let a := drawW32 s
          let b := drawBytes 32 a.2
          let sid := freshId b.2 12 a.1.toNat
          let x : Session :=
            { id := BitVec.ofNat 32 sid, keyId := id, level := level, pending := true, expect := 0, hostNonce := ((mbxOf s k).req.drop 40).take 32,
              devNonce := b.1, reqKey := [], rspKey := [], opened := s.now }
          respond (modMbx b.2 k (fun y => { y with session := some x })) k 0 (natBytes 4 sid ++ natBytes 4 0 ++ b.1))

/-- A failed authentication (R388): counted, and from the eighth on the key is locked. -/
def authFail (s : State) (id : Nat) : State :=
  let a := authOf s id
  let n := a.fails + 1
  let a := if 8 ≤ n then { a with fails := n, lock := some (s.now + a.span * 1000000000), span := min 1024 (2 * a.span) } else { a with fails := n }
  bump0 { s with sec := { s.sec with auth := SMap.put s.sec.auth id a } } .sec 0 0x018

/-- SESSION_AUTH (R385, R387, R388). -/
def execSessionAuth (m : Fin 11) (s : State) : Out :=
  sessionReq m 0x002 56 s (fun s =>
    let k := m.val
    match (mbxOf s k).session with
    | none => respondFail s k 0x103 0
    | some x =>
      if !x.pending || x.id.toNat != bodyF s k 0 4 then respondFail s k 0x103 0
      else if s.sec.error then respondFail s k 0x10B 0xFFFFFFFF
      else
        match keyOf s x.keyId with
        | none => respondFail (endSession s k) k 0x105 8
        | some r =>
          if ((mbxOf s k).req.drop 40).take 48 != proofOf "THZ1-H" r.key x then
            respondFail (authFail (endSession s k) x.keyId) k 0x105 8
          else
            let okm := hkdf384 r.key (x.hostNonce ++ x.devNonce) (ascii "THZ1-MSG" ++ sessionTail x) 96
            let y : Session := { x with pending := false, expect := 1, reqKey := okm.take 48, rspKey := okm.drop 48 }
            let s := { s with sec := { s.sec with auth := SMap.del s.sec.auth x.keyId } }
            let s := bump0 (modMbx s k (fun b => { b with session := some y })) .sec 0 0x020
            respond s k 0 (proofOf "THZ1-D" r.key x))

/-- SESSION_CLOSE (R389): the response is sealed with the ended session's key. -/
def execSessionClose (m : Fin 11) (s : State) : Out :=
  command m 0x003 0 [] [] (fun s => .ok (endSession s m.val) []) s

/-- SESSION_AUTH_TIMEOUT (R387): 1 s after the SESSION_OPEN response. -/
def execSessionAuthTimeout (m : Fin 11) (s : State) : Out :=
  match (mbxOf s m.val).session with
  | some x => if x.pending && decide (x.opened + 1000000000 ≤ s.now) then .next (endSession s m.val) else .next s
  | none => .next s

/-- KEY_LOCK_EXPIRE (R388). -/
def execKeyLockExpire (keyId : W32) (s : State) : Out :=
  match (authOf s keyId.toNat).lock with
  | some t =>
    if t ≤ s.now then .next { s with sec := { s.sec with auth := SMap.mod s.sec.auth keyId.toNat (fun (a : AuthCnt) => { a with lock := none }) } } else .next s
  | none => .next s

end Sys2Proof.Machine
end

