-- ==== Sys2Proof/Machine/Contexts.lean ====
section
/-! DEFINITION. The context, region, queue, synchronisation and tracker commands (16 R367-R373). -/

namespace Sys2Proof.Machine

/-! ### Firmware's choices and reserved areas (08 R452) -/

/-- The first number from `x` on, modulo `lim`, that is free, among `n` tries. -/
def pickFrom (free : Nat → Bool) (lim : Nat) : Nat → Nat → Option Nat
  | 0, _ => none
  | n + 1, x => if free (x % lim) then some (x % lim) else pickFrom free lim n (x + 1)

/-- A free number below `lim`, of which firmware chooses any (log entry 61). -/
def chooseFree (s : State) (free : Nat → Bool) (lim tries : Nat) : Option Nat × State :=
  let r := drawNat s
  (pickFrom free lim tries (r.1 % lim), r.2)

/-- MiB reserved at the top of a die's eDRAM. -/
def edramReserved (s : State) (d : Nat) : Nat :=
  if d = 0 then 20 else if d = 1 then 65 else if d = 2 then 33 else if ddrPerDie s = 0 then 129 else 1

/-- The firmware-reserved areas: top of each die's eDRAM, queue table and kernel cache, generation areas held for others. -/
def fwAreas (s : State) : List (Nat × Nat) :=
  (List.range 4).map (fun d => ((d + 1) * 0x40000000 - edramReserved s d * 0x100000, edramReserved s d * 0x100000))
  ++ (if ddrPerDie s = 0 then [] else [(0x10000000000 + 3 * 0x4000000000 + ddrPerDie s - 0x8000000, 0x8000000)])
  ++ s.fw.gens.map (fun (g : Nat × Nat × Nat × Nat) => (g.2.2.1, g.2.2.2))

/-- The park areas of the contexts. -/
def parkAreas (s : State) : List (Nat × Nat) := s.ctxs.map (fun (e : Nat × Ctx) => (e.2.parkBase, parkAreaBytes))
/-- The event-queue areas of the contexts. -/
def evqAreas (s : State) : List (Nat × Nat) :=
  s.ctxs.filterMap (fun (e : Nat × Ctx) => (SMap.get? s.que.descs e.2.evq).map (fun (d : QDesc) => (d.ring, 32 * 2 ^ d.log2n)))

/-- Whether two ranges overlap. -/
def overlaps (a n b m : Nat) : Bool := decide (a < b + m) && decide (b < a + n)
/-- Whether a range meets an area of a list. -/
def meets (areas : List (Nat × Nat)) (a n : Nat) : Bool := areas.any (fun r => overlaps a n r.1 r.2)

/-- Whether a range lies in eDRAM or DDR5, outside every firmware area, reservation and LOCAL region. -/
def freeMemory (s : State) (a n : Nat) : Bool :=
  oneSpace s a n && (spaceOf s a == .edram || spaceOf s a == .ddr)
  && !meets (fwAreas s ++ parkAreas s ++ evqAreas s) a n
  && !s.regions.any (fun (e : Nat × Region) => e.2.valid && !e.2.kind && overlaps a n (4096 * e.2.base) (4096 * (e.2.limit + 1 - e.2.base)))

/-! ### Queues (R373, R371) -/

/-- A new queue descriptor. -/
def newQueue (ring ty log2n esize owner flags notify nflags bind : Nat) : QDesc :=
  { valid := true, ring := ring, ty := ty, log2n := log2n, esize := esize, owner := owner, hostProd := flags.testBit 1, hostCons := flags.testBit 2,
    remote := flags.testBit 3, irq := flags.testBit 4, vector := field flags 8 8, prod := 0, cons := 0, notify := notify, notifyEn := nflags.testBit 0,
    bind := bind, appended := 0, refused := 0, lastIrq := none, irqDue := false, take := 0, startWait := none, bells := [], done := [], closing := false }

/-- A descriptor put under a free QID of firmware's choice. -/
def putQueue (s : State) (d : QDesc) : Option Nat × State :=
  let r := chooseFree s (fun q => (SMap.get? s.que.descs q).isNone) 1048576 (s.que.descs.length + 1)
  match r.1 with
  | some q => (some q, { r.2 with que := { r.2.que with descs := SMap.put r.2.que.descs q d } })
  | none => r

/-- A queue gone: its descriptor, held entries and held watch messages (R371). -/
def dropQueue (s : State) (qid : Nat) : State :=
  { s with
    que := { s.que with descs := SMap.del s.que.descs qid, held := s.que.held.filter (fun (h : HeldEv) => h.qid != qid),
                        cached := s.que.cached.filter (fun q => q != qid) }
    sync := { s.sync with held := s.sync.held.map (fun (e : Nat × List HeldMsg) => (e.1, e.2.filter (fun h => h.qid != qid))) } }

/-- Whether an entry that a queue's consumer has taken is not finished: a launch whose groups started, a descriptor being carried out. -/
def queueBusy (s : State) (qid : Nat) : Bool :=
  s.que.launches.any (fun (l : Nat × Launch) => l.2.qid == qid && !l.2.placed.isEmpty)
  || s.jobs.any (fun (j : Nat × EngJob) => match j.2.origin with | .queue q _ => q == qid | .group _ _ _ _ => false)

/-- Launches of a queue that have not started are discarded. -/
def dropUntaken (s : State) (qid : Nat) : State :=
  let s := (s.que.launches.filter (fun (l : Nat × Launch) => l.2.qid == qid && l.2.placed.isEmpty)).foldl (fun s (l : Nat × Launch) => dropLaunch s l.1 l.2) s
  dropSeqWatch s (fun w => w == .launch qid)

/-- QUEUE_CREATE (R373). -/
def execQueueCreate (m : Fin 11) (s : State) : Out :=
  command m 0x301 24 [(0, 1), (1, 1), (2, 1), (3, 1), (4, 4), (8, 8), (16, 2), (18, 2), (20, 2)] [] (fun s =>
    let f := bodyF s m.val
    let ctx := f 0 1
    let ty := f 1 1
    let es := f 3 1
    let esOk := if ty = 0 || ty = 1 then es == 2 else if ty = 2 then es == 1 else es == 1 || es == 2 || es == 4
    let ring := f 8 8
    if 3 < ty then .fail s 0x107 1
    else if f 2 1 < 4 || 20 < f 2 1 then .fail s 0x107 2
    else if !esOk then .fail s 0x107 3
    else if f 4 4 &&& 0xFFFF00E1 != 0 then .fail s 0x107 4
    else if ring % 128 != 0 || 2 ^ 48 ≤ ring || (localRegion s ctx ring (32 * es * 2 ^ f 2 1) .read).isNone
        || (localRegion s ctx ring (32 * es * 2 ^ f 2 1) .write).isNone then .fail s 0x107 8
    else if 1 < f 18 2 then .fail s 0x107 18
    else if 64 ≤ f 20 2 || (ty = 1 && field (f 20 2) 4 2 = 3) then .fail s 0x107 20
    else
      match putQueue s (newQueue ring ty (f 2 1) es ctx (f 4 4) (f 16 2) (f 18 2) (f 20 2)) with
      | (some q, s) => .ok s (natBytes 4 q ++ natBytes 4 0 ++ natBytes 8 (doorBase + 8 * q) ++ natBytes 4 (0x800000 + 8 * q))
      | (none, s) => .fail s 0x108 0xFFFFFFFF) s

/-- QUEUE_DESTROY (R371). -/
def execQueueDestroy (m : Fin 11) (s : State) : Out :=
  command m 0x302 4 [(0, 4)] [] (fun s =>
    let q := bodyF s m.val 0 4
    match SMap.get? s.que.descs q with
    | none => .fail s 0x107 0
    | some d =>
      if s.ctxs.any (fun (e : Nat × Ctx) => e.2.evq == q) then .fail s 0x10A 0
      else
        let s := dropUntaken s q
        let s := { s with que := { s.que with descs := SMap.mod s.que.descs q (fun d => { d with closing := true }) } }
        if queueBusy s q then .wait s else .ok (dropQueue s q) (natBytes 4 d.prod.toNat ++ natBytes 4 d.cons.toNat)) s

/-! ### Regions (R370, 12 R287, R288) -/

/-- Fills keyed by an entry whose request has been sent: their data is not installed (R288, 09 R221). -/
def staleFills (s : State) (idx : Nat) : State :=
  { s with cores := s.cores.map (fun (c : Core) => { c with accs := c.accs.map (fun (e : Nat × Access) =>
      (e.1, if fillSent e.2 && e.2.region == some idx then { e.2 with stale := true } else e.2)) }) }

/-- Far lines keyed by an entry dropped on every die; a prefetched one that no read used is UNUSED (R198). -/
def dropFarOf (s : State) (idx : Nat) : State :=
  let s := (List.range 64).foldl (fun s h =>
    ((sliceAt s h).filter (fun (x : SLine) => x.kind == .far && x.rgn == idx)).foldl (fun s x => pfCount s h x 0x100) s) (staleFills s idx)
  { s with mem := { s.mem with slices := s.mem.slices.map (fun (e : Nat × List SLine) => (e.1, e.2.filter (fun (x : SLine) => !(x.kind == .far && x.rgn == idx)))) } }

/-- Whether a LOCAL range lies in memory that a region may name. -/
def localRange (s : State) (a n : Nat) : Bool :=
  (oneSpace s a n && (spaceOf s a == .edram || spaceOf s a == .ddr))
  || (decide (0x100000000 ≤ a) && decide (a + n ≤ 0x10C000000)) || (decide (0x200000000 ≤ a) && decide (a + n ≤ 0x201800000))

/-- PIN and WAYS written into all slices (08 R178). -/
def pinRanges (s : State) (pin ways base limit : Nat) : State :=
  (List.range 64).foldl (fun s h =>
    let s := if ways = 15 then s else regPut s (regAddr .slc h 0x008) ways
    if pin = 0 then s
    else regPut (regPut s (regAddr .slc h (0x040 + 16 * (pin - 1))) (base + 1)) (regAddr .slc h (0x048 + 16 * (pin - 1))) (limit / 4096 * 4096)) s

/-- The first bad field of a REGION_MAP request. -/
def regionBad (s : State) (f : Nat → Nat → Nat) : Option Nat :=
  let imp := f 1 1 = 1
  let n := f 16 8 + 1 - f 8 8
  if 1 < f 1 1 then some 1
  else if 32 ≤ f 2 1 || (!imp && (f 2 1).testBit 4) || (imp && (f 2 1).testBit 3) then some 2
  else if 4 < f 3 1 % 8 || (f 3 1).testBit 3 || field (f 3 1) 4 4 = 13 || field (f 3 1) 4 4 = 14 || (imp && f 3 1 % 8 != 0) then some 3
  else if 4096 ≤ f 4 2 && f 4 2 != 0xFFFF then some 4
  else if imp && (4096 ≤ f 6 2 || s.fabricId == some (BitVec.ofNat 12 (f 6 2))) then some 6
  else if f 8 8 % 4096 != 0 || 2 ^ 48 ≤ f 8 8 then some 8
  else if (f 16 8 + 1) % 4096 != 0 || f 16 8 < f 8 8 || 2 ^ 48 ≤ f 16 8 then some 16
  else if !imp && (!localRange s (f 8 8) n || meets (fwAreas s ++ parkAreas s ++ evqAreas s) (f 8 8) n
      || s.regions.any (fun (e : Nat × Region) => e.2.valid && !e.2.kind && e.2.owner != f 0 1
        && overlaps (f 8 8) n (4096 * e.2.base) (4096 * (e.2.limit + 1 - e.2.base)))) then some 8
  else if imp && f 24 4 = 0 then some 24
  else if imp && 4096 ≤ f 28 2 then some 28
  else none

/-- The level of a mailbox's session. -/
def levelOf (s : State) (m : Nat) : Nat := match authSession s m with | some x => x.level | none => 1

/-- REGION_MAP (R370). -/
def execRegionMap (m : Fin 11) (s : State) : Out :=
  command m 0x201 32 [(0, 1), (1, 1), (2, 1), (3, 1), (4, 2), (6, 2), (8, 8), (16, 8), (24, 4), (28, 2)] [] (fun s =>
    let f := bodyF s m.val
    let ways := field (f 3 1) 4 4
    match regionBad s f with
    | some off => .fail s 0x107 off
    | none =>
      if (f 3 1 % 8 != 0 || (ways != 0 && ways != 15)) && levelOf s m.val != 0 then .fail s 0x106 3
      else
        let r := if f 4 2 = 0xFFFF then chooseFree s (fun i => !(regionAt s i).valid) 4096 4096 else (some (f 4 2), s)
        match r.1 with
        | none => .fail r.2 0x108 4
        | some i =>
          let s := r.2
          if (regionAt s i).valid && (regionAt s i).owner != f 0 1 then .fail s 0x109 4
          else
            let imp := f 1 1 = 1
            let exported := !imp && (f 2 1).testBit 3
            let k := if exported && f 24 4 = 0 then drawW32 s else (BitVec.ofNat 32 (f 24 4), s)
            let drawn := exported && f 24 4 = 0
            let key : W32 := if drawn && k.1 = 0 then 1 else k.1
            let s := dropFarOf k.2 i
            let e : Region :=
              { valid := true, kind := imp, owner := f 0 1, base := f 8 8 / 4096, limit := f 16 8 / 4096,
                peer := if imp then BitVec.ofNat 12 (f 6 2) else 0, ridx := if imp then BitVec.ofNat 12 (f 28 2) else 0, key := key,
                epoch := (regionAt s i).epoch, noncache := imp && (f 2 1).testBit 4, exported := exported, accum := (f 2 1).testBit 2,
                write := (f 2 1).testBit 1, read := (f 2 1).testBit 0, naks := (regionAt s i).naks }
            let s := { s with regions := SMap.put s.regions i e }
            let s := if levelOf s m.val = 0 then pinRanges s (f 3 1 % 8) ways (f 8 8) (f 16 8) else s
            .ok s (natBytes 4 i ++ natBytes 4 (if drawn then key.toNat else 0))) s

/-- The entry that REGION_UNMAP and REGION_EPOCH name: a status, or nothing wrong. -/
def entryStatus (s : State) (m : Nat) : Nat :=
  let i := bodyF s m 2 2
  if 4096 ≤ i || !(regionAt s i).valid then 0x107 else if (regionAt s i).owner != bodyF s m 0 1 then 0x109 else 0

/-- Whether a transaction admitted against an entry has not been performed (R287). -/
def entryBusy (s : State) (i : Nat) : Bool :=
  s.fab.conns.any (fun (e : Nat × Conn) => e.2.held.any (fun (h : HeldTxn) => !fwTxn s h.t && h.t.ridx.toNat == i))

/-- An entry removed; its count of NAKs stays (12 Table 12.4). -/
def dropEntry (s : State) (i : Nat) : State :=
  let s := if (regionAt s i).kind then dropFarOf s i else s
  let n := (regionAt s i).naks
  { s with regions := if n = 0 then SMap.del s.regions i else SMap.put s.regions i { Region.none with naks := n } }

/-- REGION_UNMAP (R287, R288): of a LOCAL entry once every admitted transaction has been performed; later ones are NAKed. -/
def execRegionUnmap (m : Fin 11) (s : State) : Out :=
  command m 0x202 4 [(0, 1), (2, 2)] [] (fun s =>
    let i := bodyF s m.val 2 2
    if entryStatus s m.val != 0 && (mbxOf s m.val).stage = 1 then .fail s (entryStatus s m.val) 2
    else
      let s := modMbx (dropEntry s i) m.val (fun x => { x with stage := 2 })
      if entryBusy s i then .wait s else .ok s []) s

/-- REGION_EPOCH (R288). -/
def execRegionEpoch (m : Fin 11) (s : State) : Out :=
  command m 0x203 4 [(0, 1), (2, 2)] [] (fun s =>
    let i := bodyF s m.val 2 2
    if entryStatus s m.val != 0 then .fail s (entryStatus s m.val) 2
    else
      let e := ((regionAt s i).epoch + 1) % 65536
      let s := staleFills s i
      .ok { s with regions := SMap.mod s.regions i (fun r => { r with epoch := e }) } (natBytes 4 e)) s

/-! ### Synchronisation maps (R372, 10 R225) -/

/-- Translation entries whose virtual IDs lie in a range, dropped from every cache (R225). -/
def invalXlat (s : State) (ctx v n : Nat) : State :=
  let hit : Nat → Bool := fun key => decide (ctx * 65536 + v ≤ key) && decide (key < ctx * 65536 + v + n)
  { s with sync := { s.sync with cache := s.sync.cache.map (fun (e : Nat × List (Nat × Nat)) => (e.1, e.2.filter (fun k => !hit k.1))) } }

/-- A translation entry written by firmware into the tables (R225). -/
def putXlat (s : State) (ctx v e : Nat) : State := memPut s (xlatAddr s 0 ctx v) (natBytes 4 e)

/-- Whether an entry names an object. -/
def named (s : State) (p : Nat) : Bool := (xlatEntries s).any (fun e => xObj e.2 == p)

/-- An object that no entry names is FREE with counter 0 (R372, R236). -/
def freeObj (s : State) (p : Nat) : State := if named s p then s else { s with sync := { s.sync with objs := SMap.del s.sync.objs p } }

/-- New objects for consecutive virtual IDs: all or none. -/
def createObjs (ctx v rights : Nat) (init : W32) : Nat → Nat → State → Option State
  | 0, _, s => some s
  | n + 1, i, s =>
    match chooseFree s (fun p => (objOf s p).st == .free && !named s p) 65536 (s.sync.objs.length + 1) with
    | (some p, s) =>
      createObjs ctx v rights init n (i + 1)
        (putXlat (setObj s p { SyncObj.reset with st := .armed, cnt := init, owner := ctx }) ctx (v + i) (p + 65536 * (1 + 2 * rights) + 2 ^ 19))
    | (none, _) => none

/-- The fields of SYNC_MAP. -/
def syncFields : List (Nat × Nat) := [(0, 1), (1, 1), (2, 1), (4, 2), (6, 2), (8, 4), (12, 1), (14, 2)]

/-- The first bad field of SYNC_MAP. -/
def syncBad (f : Nat → Nat → Nat) : Option Nat :=
  if 2 < f 1 1 then some 1
  else if 3 < f 2 1 then some 2
  else if f 6 2 = 0 || 1024 < f 6 2 || 65536 < f 4 2 + f 6 2 then some 6
  else if f 1 1 = 1 && 65536 < f 14 2 + f 6 2 then some 14
  else none

/-- A SYNC_MAP request whose OP a row carries out. -/
def syncMap (m : Fin 11) (mine : Nat → Bool) (run : (Nat → Nat → Nat) → State → Ran) (s : State) : Out :=
  if mine (bodyF s m.val 1 1) then
    command m 0x501 16 syncFields [] (fun s =>
      match syncBad (bodyF s m.val) with
      | some off => .fail s 0x107 off
      | none => run (bodyF s m.val) s) s
  else .next s

/-- SYNC_MAP_CREATE; an undefined OP fails here. -/
def execSyncMapCreate (m : Fin 11) (s : State) : Out :=
  syncMap m (fun op => op != 1 && op != 2) (fun f s =>
    let ctx := f 0 1
    if (List.range (f 6 2)).any (fun i => xValid (xlatRaw s ctx (f 4 2 + i))) then .fail s 0x10A 4
    else
      match createObjs ctx (f 4 2) (f 2 1) (BitVec.ofNat 32 (f 8 4)) (f 6 2) 0 s with
      | some s => .ok (invalXlat s ctx (f 4 2) (f 6 2)) (natBytes 4 (f 6 2))
      | none => .fail s 0x108 0xFFFFFFFF) s

/-- SYNC_MAP_SHARE: the session must be entitled to command both contexts. -/
def execSyncMapShare (m : Fin 11) (s : State) : Out :=
  syncMap m (fun op => op == 1) (fun f s =>
    let ctx := f 0 1
    let src := f 12 1
    let es := (List.range (f 6 2)).map (fun i => xlatRaw s src (f 14 2 + i))
    match SMap.get? s.ctxs src, authSession s m.val with
    | some k, some x =>
      if x.level = 1 && k.keyId != x.keyId then .fail s 0x109 12
      else if es.any (fun e => !xValid e) then .fail s 0x107 14
      else if es.any (fun e => !xOwn e) then .fail s 0x109 14
      else if (List.range (f 6 2)).any (fun i => xValid (xlatRaw s ctx (f 4 2 + i))) then .fail s 0x10A 4
      else
        let s := ((List.range (f 6 2)).zip es).foldl (fun s e => putXlat s ctx (f 4 2 + e.1) (xObj e.2 + 65536 * (1 + 2 * f 2 1))) s
        .ok (invalXlat s ctx (f 4 2) (f 6 2)) (natBytes 4 (f 6 2))
    | _, _ => .fail s 0x107 12) s

/-- SYNC_MAP_UNMAP. -/
def execSyncMapUnmap (m : Fin 11) (s : State) : Out :=
  syncMap m (fun op => op == 2) (fun f s =>
    let ctx := f 0 1
    let vs := (List.range (f 6 2)).filter (fun i => xValid (xlatRaw s ctx (f 4 2 + i)))
    let ps := (vs.map (fun i => xObj (xlatRaw s ctx (f 4 2 + i)))).eraseDups
    if ps.any (fun p => !(objOf s p).waits.isEmpty || !(objOf s p).watches.isEmpty) then .fail s 0x10A 4
    else
      let s := vs.foldl (fun s i => putXlat s ctx (f 4 2 + i) 0) s
      .ok (invalXlat (ps.foldl freeObj s) ctx (f 4 2) (f 6 2)) (natBytes 4 vs.length)) s

/-! ### Firefly grants (10 R240, R243, R245) -/

/-- FIREFLY_GRANT to a context. -/
def execFireflyGrant (m : Fin 11) (s : State) : Out :=
  if bodyF s m.val 0 1 = 0xFF then .next s
  else
    command m 0x502 72 [(0, 1), (1, 1), (2, 2), (8, 64)] [] (fun s =>
      let f := bodyF s m.val
      let g := ffGrant s
      if g.testBit 16 && field g 8 8 != f 0 1 then .fail s 0x10A 0
      else if 512 ≤ f 2 2 || ffPinReserved (f 2 2) then .fail s 0x107 2
      else
        match (List.range 8).find? (fun n => decide (2 ^ 48 ≤ f (8 + 8 * n) 8)) with
        | some n => .fail s 0x107 (8 + 8 * n)
        | none =>
          let s := regPut s (regAddr .syn 0 0x100) (f 1 1 + 256 * f 0 1 + 65536)
          let s := (List.range 8).foldl (fun s n => regPut s (regAddr .syn 0 (0x140 + 8 * n)) (if (f 1 1).testBit n then f (8 + 8 * n) 8 else 0)) s
          .ok (putFfPin (f 2 2) s) []) s

/-- FIREFLY_GRANT with context 0xFF: revoked. -/
def execFireflyRevoke (m : Fin 11) (s : State) : Out :=
  if bodyF s m.val 0 1 != 0xFF then .next s
  else command m 0x502 72 [(0, 1), (1, 1), (2, 2), (8, 64)] [] (fun s => .ok (ffRevoke s) []) s

/-! ### Trackers (03 R57, R61) -/

/-- The fields of TRACKER_ALLOC. -/
def trkFields : List (Nat × Nat) := [(0, 1), (1, 1), (2, 1), (3, 1), (4, 1), (5, 1), (6, 2), (8, 2)]

/-- Consecutive free trackers on a die. -/
def trackerRun (s : State) (d n : Nat) : Option Nat :=
  ((List.range 1024).find? (fun i => decide (i + n ≤ 1024) && !s.trackers.any (fun (e : Nat × Tracker) =>
    decide (1024 * d + i ≤ e.1) && decide (e.1 < 1024 * d + i + n) && e.2.owner != 255))).map (fun i => 1024 * d + i)

/-- TRACKER_ALLOC with OP 0; an undefined OP fails here. -/
def execTrackerAlloc (m : Fin 11) (s : State) : Out :=
  if bodyF s m.val 1 1 = 1 then .next s
  else
    command m 0x702 12 trkFields [] (fun s =>
      let f := bodyF s m.val
      if 1 < f 1 1 then .fail s 0x107 1
      else if 2 < f 2 1 then .fail s 0x107 2
      else if f 3 1 = 0 || 3 < f 3 1 then .fail s 0x107 3
      else if 3 < f 5 1 && f 5 1 != 0xFF then .fail s 0x107 5
      else if f 6 2 = 0 then .fail s 0x107 6
      else
        let r := drawNat s
        let dies := if f 5 1 = 0xFF then (List.range 4).map (fun i => (r.1 + i) % 4) else [f 5 1]
        match dies.findSome? (fun d => trackerRun s d (f 6 2)) with
        | none => .fail s 0x108 6
        | some i =>
          let t : Tracker :=
            { owner := f 0 1, enabled := true, fmt := f 2 1, headroom := f 3 1, initE := f 4 1, e := f 4 1, hist := List.replicate 16 0, count := 0,
              obs := 0, obsValid := false, satCount := 0 }
          .ok { r.2 with trackers := (List.range (f 6 2)).foldl (fun m k => SMap.put m (i + k) t) s.trackers } (natBytes 2 i ++ natBytes 2 (f 6 2))) s

/-- TRACKER_ALLOC with OP 1: the trackers are freed and their entries cleared. -/
def execTrackerFree (m : Fin 11) (s : State) : Out :=
  if bodyF s m.val 1 1 != 1 then .next s
  else
    command m 0x702 12 trkFields [] (fun s =>
      let f := bodyF s m.val
      if 4096 < f 8 2 + f 6 2 then .fail s 0x107 8
      else if (List.range (f 6 2)).any (fun k => trackerOwner s (f 8 2 + k) != f 0 1) then .fail s 0x109 8
      else .ok { s with trackers := (List.range (f 6 2)).foldl (fun m k => SMap.del m (f 8 2 + k)) s.trackers } (natBytes 2 (f 8 2) ++ natBytes 2 (f 6 2))) s

/-! ### Contexts (R367-R369) -/

/-- CTX_CREATE (R367). A board spare in relay mode runs no context (11 R264): BUSY (log entry 89). -/
def execCtxCreate (m : Fin 11) (s : State) : Out :=
  command m 0x101 28 [(0, 4), (4, 2), (8, 8), (16, 8), (24, 1)] [] (fun s =>
    let f := bodyF s m.val
    let c := SMap.freeKey s.ctxs 255 0
    let evqBytes := 32 * 2 ^ f 24 1
    if 3 < f 0 4 then .fail s 0x107 0
    else if f 8 8 % 4096 != 0 || !freeMemory s (f 8 8) parkAreaBytes then .fail s 0x107 8
    else if f 24 1 < 6 || 20 < f 24 1 then .fail s 0x107 24
    else if f 16 8 % 128 != 0 || !freeMemory s (f 16 8) evqBytes || overlaps (f 8 8) parkAreaBytes (f 16 8) evqBytes then .fail s 0x107 16
    else if s.fab.relay then .fail s 0x10A 0xFFFFFFFF
    else if 255 ≤ c then .fail s 0x108 0xFFFFFFFF
    else
      match putQueue s (newQueue (f 16 8) 2 (f 24 1) 1 c 0 0 0 0) with
      | (none, s) => .fail s 0x108 0xFFFFFFFF
      | (some q, s) =>
        let k : Ctx :=
          { canonical := (f 0 4).testBit 0, deadchk := (f 0 4).testBit 1, job := f 4 2, parkBase := f 8 8, evq := q,
            keyId := (match authSession s m.val with | some x => x.keyId | none => 0), preempted := false, preemptAt := none, rearm := false,
            quiesced := false }
        .ok { s with ctxs := SMap.put s.ctxs c k } (natBytes 4 c ++ natBytes 4 q)) s

/-- Steps 1 to 7 of R368. -/
def destroyFirst (s : State) (ctx : Nat) : State :=
  let s := abortSeqs (dropBanks (dropGroups s ctx) ctx) ctx
  let watched := (s.sync.objs.filter (fun (e : Nat × SyncObj) => e.2.watches.any (fun (w : SWatch) => w.ctx == ctx))).map (·.1)
  let s := watched.foldl (fun s p =>
    let o := objOf s p
    let gone := o.watches.filter (fun (w : SWatch) => w.ctx == ctx)
    gone.foldl (fun s w => endWatch s p w 3 o.cnt) (setObj s p { o with watches := o.watches.filter (fun (w : SWatch) => w.ctx != ctx) })) s
  let owned := (s.sync.objs.filter (fun (e : Nat × SyncObj) => e.2.owner == ctx && e.2.st == .armed)).map (·.1)
  let s := owned.foldl (fun s p => arbitrate s p true) s
  let mine := ((xlatEntries s).filter (fun e => e.1 / 65536 == ctx)).map (fun e => xObj e.2)
  let all := ((s.sync.objs.filter (fun (e : Nat × SyncObj) => e.2.owner == ctx)).map (·.1) ++ mine).eraseDups
  let s := memZero s (xlatAddr s 0 ctx 0) 0x40000
  let s := all.foldl freeObj (invalXlat s ctx 0 65536)
  let s := if (ffGrant s).testBit 16 && field (ffGrant s) 8 8 == ctx then ffRevoke s else s
  { s with trackers := s.trackers.filter (fun (e : Nat × Tracker) => e.2.owner != ctx) }

/-- Whether steps 8 and 9 must wait: an admitted transaction, or a descriptor of one of its queues. -/
def destroyWaits (s : State) (ctx : Nat) : Bool :=
  s.regions.any (fun (e : Nat × Region) => e.2.valid && e.2.owner == ctx && entryBusy s e.1)
  || s.que.descs.any (fun (e : Nat × QDesc) => e.2.owner == ctx && queueBusy s e.1)

/-- Steps 8 and 9: regions, queues, the event queue last; with the context go its tables, its checkpoint state and its reservations. -/
def destroyLast (s : State) (ctx : Nat) : State :=
  let rs := (s.regions.filter (fun (e : Nat × Region) => e.2.valid && e.2.owner == ctx)).map (·.1)
  let s := rs.foldl dropEntry s
  let evq := match SMap.get? s.ctxs ctx with | some c => c.evq | none => 0
  let qs := ((s.que.descs.filter (fun (e : Nat × QDesc) => e.2.owner == ctx)).map (·.1)).filter (fun q => q != evq)
  let s := dropQueue (qs.foldl (fun s q => dropQueue (dropUntaken s q) q) s) evq
  let s := match SMap.get? s.ckpts ctx with
    | some c => sendMgmt (sendMgmt s c.buddies.1 (.release ctx)) c.buddies.2 (.release ctx)
    | none => s
  { s with kernels := s.kernels.map (fun (e : Nat × Kernel) => (e.1, { e.2 with ctxs := e.2.ctxs.filter (fun c => c != ctx) })),
           ctxs := SMap.del s.ctxs ctx, ckpts := SMap.del s.ckpts ctx, utables := SMap.del s.utables ctx,
           heldSeq := s.heldSeq.filter (fun (h : HeldSeq) => h.ctx != ctx), fw := { s.fw with preempts := SMap.del s.fw.preempts ctx } }

/-- CTX_DESTROY (R368): it responds when all of it is done. -/
def execCtxDestroy (m : Fin 11) (s : State) : Out :=
  command m 0x102 4 [(0, 1)] [] (fun s =>
    let c := bodyF s m.val 0 1
    let s := if (mbxOf s m.val).stage = 1 then modMbx (destroyFirst s c) m.val (fun x => { x with stage := 2 }) else s
    if destroyWaits s c then .wait s else .ok (destroyLast s c) []) s

/-- CTX_PREEMPT with PREEMPT (R369): launches stop at once; the response comes with the effect. An undefined ACTION fails here. -/
def execCtxPreempt (m : Fin 11) (s : State) : Out :=
  if bodyF s m.val 1 1 = 1 then .next s
  else
    command m 0x103 4 [(0, 1), (1, 1), (2, 1)] [] (fun s =>
      let f := bodyF s m.val
      match SMap.get? s.ctxs (f 0 1) with
      | none => .fail s 0x107 0
      | some c =>
        if (mbxOf s m.val).stage = 2 then .wait s
        else if 1 < f 1 1 then .fail s 0x107 1
        else if 1 < f 2 1 then .fail s 0x107 2
        else if c.preempted then .fail s 0x10B 0
        else
          let s := { s with ctxs := SMap.mod s.ctxs (f 0 1) (fun (c : Ctx) => { c with preemptAt := some s.now, rearm := (f 2 1).testBit 0 }) }
          let s := { s with fw := { s.fw with preempts := SMap.put s.fw.preempts (f 0 1) (s.now, m.val) } }
          .wait (modMbx s m.val (fun x => { x with stage := 2 }))) s

/-- The groups of a context in slots, as (core, slot). -/
def ctxSlots (s : State) (ctx : Nat) : List (Nat × Nat) :=
  (List.range 48).flatMap (fun n => ((List.range 32).filter (fun i => match groupOf s n i with | some g => g.ctx == ctx | none => false)).map (fun i => (n, i)))

/-- Whether a preemption can take effect (R369): no bank OPEN or CLOSING (04 R89), no bucket RUNNING (13 R318), no segment in pass 2 (14 R334), every group of the
context at a point where its record can hold it, and a FREE record for each. -/
def preemptReady (s : State) (ctx : Nat) : Bool :=
  s.cores.all (fun (c : Core) => c.banks.all (fun (b : LBank) => b.owner != ctx || (b.st != .opened && b.st != .closing)))
  && !s.buckets.any (fun (e : Nat × Bucket) => e.2.ctx == ctx && e.2.st == 2)
  && !s.runs.any (fun (e : Nat × URun) => e.2.ctx == ctx && e.2.segs.any (fun g => !g.done2 && g.p2.any (fun k => k != 0)))
  && (ctxSlots s ctx).all (fun x => coreRuns s x.1 && (match groupOf s x.1 x.2 with
      | some g => g.park.isNone && mayLeave s x.1 g && g.fences.isEmpty
      | none => true))
  && (List.range 48).all (fun n => decide (((ctxSlots s ctx).filter (fun x => x.1 == n)).length ≤ ((coreOf s n).recs.filter (fun (r : Rec) => r.st == .free)).length))

/-- Every group of a context in a slot suspended. -/
def suspendAll (s : State) (ctx : Nat) : State :=
  (ctxSlots s ctx).foldl (fun s x =>
    match groupOf s x.1 x.2, freeRec (coreOf s x.1) with
    | some g, some r => suspendGroup s x.1 x.2 r g
    | _, _ => s) s

/-- PREEMPT_EFFECT (R369). -/
def execPreemptEffect (ctx : BitVec 8) (s : State) : Out :=
  let x := ctx.toNat
  match SMap.get? s.fw.preempts x with
  | none => .next s
  | some p =>
    if preemptReady s x then
      let s := abortSeqs (suspendAll s x) x
      let s := if (ffGrant s).testBit 16 && field (ffGrant s) 8 8 == x then ffRevoke s else s
      let s := { s with ctxs := SMap.mod s.ctxs x (fun (c : Ctx) => { c with preempted := true, preemptAt := none }) }
      let owned := (s.sync.objs.filter (fun (e : Nat × SyncObj) => e.2.owner == x && e.2.st == .armed)).map (·.1)
      let s := owned.foldl (fun s o => arbitrate s o true) s
      let s := { s with fw := { s.fw with preempts := SMap.del s.fw.preempts x } }
      .next (ranOut p.2 [] (.ok s []))
    else .next s

/-- PREEMPT_WITHDRAW (R369): 100 ms without effect. -/
def execPreemptWithdraw (ctx : BitVec 8) (s : State) : Out :=
  let x := ctx.toNat
  match SMap.get? s.fw.preempts x with
  | none => .next s
  | some p =>
    if p.1 + 100000000 ≤ s.now then
      let s := { s with ctxs := SMap.mod s.ctxs x (fun (c : Ctx) => { c with preemptAt := none, rearm := false })
                        fw := { s.fw with preempts := SMap.del s.fw.preempts x } }
      .next (ranOut p.2 [] (.fail s 0x10A 0))
    else .next s

/-- CTX_PREEMPT with RESUME (R369, 10 R235, R236): objects are re-armed where AUTO_REARM was given, retained waits are evaluated, records are RESTORING. -/
def execCtxResume (m : Fin 11) (s : State) : Out :=
  if bodyF s m.val 1 1 != 1 then .next s
  else
    command m 0x103 4 [(0, 1), (1, 1), (2, 1)] [] (fun s =>
      let x := bodyF s m.val 0 1
      match SMap.get? s.ctxs x with
      | none => .fail s 0x107 0
      | some c =>
        if !c.preempted then .fail s 0x10B 0
        else
          let owned := (s.sync.objs.filter (fun (e : Nat × SyncObj) => e.2.owner == x && e.2.st != .free)).map (·.1)
          let s := if c.rearm then owned.foldl (fun s p => setObj s p { objOf s p with st := .armed }) s else s
          let s := { s with ctxs := SMap.mod s.ctxs x (fun (c : Ctx) => { c with preempted := false, rearm := false }) }
          let s := { s with cores := s.cores.map (fun (k : Core) => { k with recs := k.recs.map (fun (r : Rec) =>
            match r.grp with
            | some g => if g.ctx = x && r.st = .suspended then { r with st := .restoring } else r
            | none => r) }) }
          .ok (owned.foldl (fun s p => arbitrate s p false) s) []) s

end Sys2Proof.Machine
end

