-- ==== Sys2Proof/Machine/Commands.lean ====
section
/-! DEFINITION. The fabric, training and device commands (16 R366, R451; 14 R321; 15 R338, R339, R344), and the Device Parameter Table's updates (02 R22, R23). -/

namespace Sys2Proof.Machine

/-! ### Images (R366: SOURCE) -/

/-- The bytes a request names: module memory, or host memory as the module's DMA reads it. -/
def imageOf (s : State) (source addr n : Nat) (host : List Byte) : List Byte :=
  if source = 1 then padTo n 0 (host.take n) else memBytes s addr n

/-- The RED lines of an image in module memory evicted, as its read finds them (08 R180). -/
def settleImage (s : State) (source addr n : Nat) : State := if source = 1 then s else settleReds s addr n

/-- A length rounded up to a multiple of 4 (Table 16.3). -/
def up4 (n : Nat) : Nat := (n + 3) / 4 * 4

/-! ### Training commands (Table 16.10) -/

/-- UPDATE_TABLE_SET (14 R321): the copy that is not current is written and becomes current. -/
def execUpdateTableSet (m : Fin 11) (image : List Byte) (s : State) : Out :=
  command m 0x701 16 [(0, 1), (1, 1), (2, 2), (8, 8)] image (fun s =>
    let f := bodyF s m.val
    let n := 64 * f 2 2
    let t := SMap.getD s.utables (f 0 1) ⟨([], []), true⟩
    if 1 < f 1 1 then .fail s 0x107 1
    else if f 2 2 = 0 || 1024 < f 2 2 then .fail s 0x107 2
    else if f 1 1 = 0 && !(oneSpace s (f 8 8) n && (spaceOf s (f 8 8) == .edram || spaceOf s (f 8 8) == .ddr)) then .fail s 0x107 8
    else if s.runs.any (fun (e : Nat × URun) => e.2.ctx == f 0 1 && e.2.second != t.second) then .fail s 0x10A 0xFFFFFFFF
    else
      let s := settleImage s (f 1 1) (f 8 8) n
      let bs := padTo 65536 0 (imageOf s (f 1 1) (f 8 8) n image)
      let copies := if t.second then (bs, t.copies.2) else (t.copies.1, bs)
      .ok { s with utables := SMap.put s.utables (f 0 1) ⟨copies, !t.second⟩ } []) s

/-- The regions that CKPT_CONFIG lists, as ranges. -/
def ckptRanges (s : State) (f : Nat → Nat → Nat) : List (Nat × Nat) :=
  (List.range (f 0x50 2)).map (fun i =>
    let r := regionAt s (f (0x54 + 2 * i) 2)
    (4096 * r.base, 4096 * (r.limit + 1 - r.base)))

/-- The first bad field of CKPT_CONFIG: the listed regions are the context's LOCAL ones; the buddies are distinct members of the job, not this module, and
no spare (15 R344). -/
def ckptBad (s : State) (f : Nat → Nat → Nat) : Option Nat :=
  let ctx := f 0 1
  let b0 := rankModule s ctx (f 2 2)
  let b1 := rankModule s ctx (f 4 2)
  let own := some (selfId s).toNat
  let spare := some s.fw.spare
  if b0.isNone || b0 == own || (s.fw.spare != 0 && b0 == spare) then some 2
  else if b1.isNone || b1 == own || b1 == b0 || (s.fw.spare != 0 && b1 == spare) then some 4
  else
    match SMap.get? s.que.descs (f 12 4) with
    | none => some 12
    | some d =>
      if d.owner != ctx || d.ty != 0 then some 12
      else if f 0x50 2 = 0 || 64 < f 0x50 2 then some 0x50
      else
        ((List.range (f 0x50 2)).find? (fun i =>
          let r := regionAt s (f (0x54 + 2 * i) 2)
          !(r.valid && !r.kind && r.owner == ctx))).map (fun i => 0x54 + 2 * i)

/-- CKPT_CONFIG (15 R344): it responds after both buddies have reserved GEN_BYTES twice. -/
def execCkptConfig (m : Fin 11) (s : State) : Out :=
  let n := up4 (0x54 + 2 * min 64 (bodyF s m.val 0x50 2))
  command m 0x703 n [(0, 1), (2, 2), (4, 2), (8, 4), (12, 4), (16, 64), (0x50, 2), (0x54, 2 * bodyF s m.val 0x50 2)] [] (fun s =>
    let f := bodyF s m.val
    match ckptBad s f with
    | some off => .fail s 0x107 off
    | none =>
      let ranges := ckptRanges s f
      let gen := ranges.foldl (fun t r => t + r.2) 0
      let ctx := f 0 1
      let b0 := (rankModule s ctx (f 2 2)).getD 0
      let b1 := (rankModule s ctx (f 4 2)).getD 0
      let r := drawNat s
      let s := sendMgmt (sendMgmt r.2 b0 (.reserve ctx gen)) b1 (.reserve ctx gen)
      if !Config.buddiesReserve r.1 then .fail s 0x108 0xFFFFFFFF
      else
        let c : Ckpt :=
          { ranges := ranges, buddies := (b0, b1), ranks := (f 2 2, f 4 2), period := f 8 4, resume := ((mbxOf s m.val).req.drop (32 + 16)).take 64,
            evq := (match SMap.get? s.ctxs ctx with | some k => k.evq | none => 0), mark := none, dirty := [], pend := [], imgs := ([], []), snaps := ([], []),
            gens := (CkGen.none, CkGen.none), cur := 0, crcs := [], step := 0, st := 0, parts := [], failed := (false, false), recSent := false,
            resumeQ := f 12 4, lastDone := none, segs := [], rebuild := [] }
        .ok { s with ckpts := SMap.put s.ckpts ctx c } (natBytes 8 gen)) s

/-- SPARE_POLICY (15 R339, 11 R264). In relay mode the Firefly pins are not bound (10 R243). -/
def execSparePolicy (m : Fin 11) (s : State) : Out :=
  command m 0x704 12 [(0, 1), (2, 2), (4, 4), (8, 4)] [] (fun s =>
    let f := bodyF s m.val
    if 1 < f 0 1 || (f 0 1 = 1 && (boardPos s != 8 || !s.ctxs.isEmpty)) then .fail s 0x107 0
    else if 4096 ≤ f 2 2 then .fail s 0x107 2
    else
      let was := s.fab.relay
      let s := { s with fw := { s.fw with spare := f 2 2, limCorrected := f 4 4, limContained := f 8 4 }, fab := { s.fab with relay := f 0 1 == 1 } }
      let s := if f 0 1 = 1 then putFfPin (ffPin s) s else s
      .ok (if was = (f 0 1 == 1) then s else announce s) []) s

/-! ### Fabric commands (Table 16.9) -/

/-- A legal FAB_ROUTEm value (12 Table 12.7). HOPS 0 is refused in an entry that is VALID and accepted in one that is not (log entry 87). -/
def routeLegal (v : Nat) : Bool := v &&& (2 ^ 64 - 1 - 0x8000000FFFFFFFFF) == 0 && (!v.testBit 63 || field v 32 4 != 0)

/-- ROUTE_SET (12 R289). -/
def execRouteSet (m : Fin 11) (s : State) : Out :=
  command m 0x601 (8 + 8 * min 504 (bodyF s m.val 4 2)) [(0, 1), (2, 2), (4, 2), (8, 8 * bodyF s m.val 4 2)] [] (fun s =>
    let f := bodyF s m.val
    if f 0 1 = 0 || 15 < f 0 1 then .fail s 0x107 0
    else if f 4 2 = 0 || 504 < f 4 2 || 4096 < f 2 2 + f 4 2 then .fail s 0x107 4
    else
      match (List.range (f 4 2)).find? (fun i => !routeLegal (f (8 + 8 * i) 8)) with
      | some i => .fail s 0x107 (8 + 8 * i)
      | none =>
        .ok (sendHeld ((List.range 4).foldl (fun s d => if (f 0 1).testBit d then
          (List.range (f 4 2)).foldl (fun s i => regPut s (regAddr .fab d (0x100000 + 8 * (f 2 2 + i))) (f (8 + 8 * i) 8)) s else s) s)) []) s

/-- LPM_SET (13 R302). -/
def execLpmSet (m : Fin 11) (s : State) : Out :=
  command m 0x602 (up4 (8 + 2 * min 2000 (bodyF s m.val 4 2))) [(0, 2), (2, 2), (4, 2), (8, 2 * bodyF s m.val 4 2)] [] (fun s =>
    let f := bodyF s m.val
    if f 0 2 = 0 then .fail s 0x107 0
    else if f 4 2 = 0 || 2000 < f 4 2 || 4096 < f 2 2 + f 4 2 then .fail s 0x107 4
    else
      match (List.range (f 4 2)).find? (fun i => decide (4096 ≤ f (8 + 2 * i) 2)) with
      | some i => .fail s 0x107 (8 + 2 * i)
      | none =>
        let map := (List.range (f 4 2)).foldl (fun m i => SMap.put m (f 2 2 + i) (f (8 + 2 * i) 2)) (SMap.getD s.lpm (f 0 2) [])
        .ok { s with lpm := SMap.put s.lpm (f 0 2) map } []) s

/-- The module's ID changed (R451): flash, DPT MODULE_ID, and PARAM on every live port. -/
def setFabricId (s : State) (id : Option (BitVec 12)) : State :=
  if s.fabricId = id then s
  else
    let pos := setField (dptVal s 5) 0 12 0 % 2 ^ 63
    let v := match id with | some i => pos + i.toNat + 2 ^ 63 | none => pos
    announce (dptPut { s with fabricId := id, sec := { s.sec with flashId := id } } 5 v)

/-- A FABRIC_ID_SET request. -/
def fabricIdReq (m : Fin 11) (clear : Bool) (s : State) : Out :=
  if (bodyF s m.val 0 2).testBit 15 != clear then .next s
  else
    command m 0x603 4 [(0, 2)] [] (fun s =>
      let v := bodyF s m.val 0 2
      if field v 12 3 != 0 then .fail s 0x107 0
      else if !s.ctxs.isEmpty then .fail s 0x10A 0xFFFFFFFF
      else .ok (setFabricId s (if clear then none else some (BitVec.ofNat 12 v))) []) s

/-- FABRIC_ID_SET. -/
def execFabricIdSet (m : Fin 11) (s : State) : Out := fabricIdReq m false s
/-- FABRIC_ID_SET with CLEAR. -/
def execFabricIdClear (m : Fin 11) (s : State) : Out := fabricIdReq m true s

/-! ### The Device Parameter Table (02 R22, R23) -/

/-- Whether firmware may change the table (R22): no context exists, or every context belongs to a job whose recovery is between its QUIESCE and its resumption. -/
def dptMay (s : State) : Bool :=
  s.ctxs.isEmpty || s.fw.recovs.any (fun (e : Nat × Recovery) => s.ctxs.all (fun (c : Nat × Ctx) => c.2.job == e.1 && c.2.quiesced))

/-- Whether an index is defined: by LEC 1.0 (02 Table 2.1) or as PART_0 to PART_6 (20 R450). The others are reserved and read 0. -/
def dptDefined (i : Nat) : Bool :=
  let within : Nat → Nat → Bool := fun a b => decide (a ≤ i) && decide (i ≤ b)
  within 0x00 0x05 || within 0x10 0x19 || within 0x20 0x2C || within 0x30 0x3B || within 0x40 0x52 || within 0x60 0x6A || within 0x70 0x76
    || within 0x80 0x83 || within 0x90 0x92 || within 0xF0 0xF6

/-- The entries that say which units are enabled and what follows from DDR_BYTES: firmware derives them (R21, R24, 06 R136, 20 Table 20.5). -/
def dptDerived (i : Nat) : Bool := [0x13, 0x15, 0x16, 0x30, 0x38, 0x39, 0x3A, 0xF6].contains i

/-- The entries that firmware may rewrite under R22 with any value: defined ones but DPT_ID, DPT_GEN, FW_VERSION, MODULE_ID, POWER_MW and FINALIZER_REV,
which have their own rules, and those it derives. -/
def dptWritable (i : Nat) : Bool := dptDefined i && !([0x00, 0x01, 0x04, 0x05, 0x82, 0x92] : List Nat).contains i && !dptDerived i

/-- Whether the latest Cicada record of a cluster is a failure (18 R416). -/
def clusterFailed (s : State) (k : Nat) : Bool := match SMap.get? s.cic.recs (16 + k) with | some r => r.fail | none => false

/-- The lane groups fenced in a core (06 R136). -/
def laneFence (s : State) (n : Nat) : Nat := regGet s (regAddr .vec n 0) % 16
/-- The lane groups left in a core. -/
def lanesLeft (s : State) (n : Nat) : Nat := ((List.range 4).filter (fun g => !(laneFence s n).testBit g)).length

/-- Whether a core can serve: its cluster neither DISABLED nor failed, and not all four lane groups fenced (06 R136). -/
def coreServes (s : State) (n : Nat) : Bool :=
  (clusterAt s (clusterOf n)).st != .disabled && !clusterFailed s (clusterOf n) && laneFence s n != 15

/-- Bits 0 to `n - 1` where a test holds. -/
def bitsWhere (n : Nat) (p : Nat → Bool) : Nat := (List.range n).foldl (fun m i => if p i then m + 2 ^ i else m) 0

/-- The derived entries: a core or array is enabled where the mask as given enables it, its core serves and MAT_CFG enables the array (R21, 15 R339);
VEC_LANES is what the enabled core with the fewest lane groups has, and the fence maps are VEC_CFG.FENCE (R24); PART_6 follows DDR_BYTES. -/
def derivedEntries (s : State) (es : List (Nat × Nat)) : List (Nat × Nat) :=
  let given : Nat → Nat := fun i => ((es.reverse.find? (fun e => e.1 == i)).map (·.2)).getD (dptVal s i)
  let on : Nat → Bool := fun n => (given 0x13).testBit n && coreServes s n
  let arr : Nat → Nat → Bool := fun i q => (given i).testBit (q % 64) && on (q / 2) && (regGetD s (regAddr .mat (q / 2) 0) 0x3).testBit (q % 2)
  let fences : Nat → Nat := fun j => (List.range 16).foldl (fun m i => m + laneFence s (16 * j + i) * 2 ^ (4 * i)) 0
  [(0x13, bitsWhere 48 on), (0x15, bitsWhere 64 (arr 0x15)), (0x16, bitsWhere 32 (fun b => arr 0x16 (64 + b))),
   (0x30, 16 * ((List.range 48).filter on).foldl (fun m n => min m (lanesLeft s n)) 4),
   (0x38, fences 0), (0x39, fences 1), (0x3A, fences 2), (0xF6, if given 0x4C = 0 then 0x0081002100410014 else 0x0001002100410014)]

/-- Clusters whose Cicada test failed are disabled as the change is published (18 R416, R22); one under test is at the end of its test (18 R403). -/
def disableFailed (s : State) : State :=
  (List.range 16).foldl (fun s k =>
    if clusterFailed s k && (clusterAt s k).st != .test && (clusterAt s k).st != .disabled then
      modCluster { s with pwr := { s.pwr with stagger := s.pwr.stagger.filter (fun (g : Stagger) => g.cluster != k) } } k
        (fun c => { c with st := .disabled, wake := none, idleSince := none })
    else s) s

/-- DPT entries rewritten with DPT_GEN odd before the first and even after the last (R22). -/
def dptWrite (s : State) (es : List (Nat × Nat)) : State :=
  let g := dptVal s 1
  let drv := derivedEntries s es
  let s := dptPut s 1 (g + 1)
  let s := es.foldl (fun s e => if dptWritable e.1 then dptPut s e.1 e.2 else s) s
  disableFailed (dptPut (drv.foldl (fun s e => dptPut s e.1 e.2) s) 1 (g + 2))

/-- DPT_UPDATE (R22). -/
def execDptUpdate (entries : List (Nat × W64)) (s : State) : Out :=
  if dptMay s then .next (dptWrite s (entries.map (fun e => (e.1, e.2.toNat)))) else .next s

/-- DPT_READ (R23): one consistent copy. -/
def execDptRead (m : Fin 11) (s : State) : Out :=
  command m 0x801 4 [(0, 1), (2, 2)] [] (fun s =>
    let f := bodyF s m.val
    if f 2 2 = 0 || 256 < f 0 1 + f 2 2 then .fail s 0x107 2
    else .ok s ((List.range (f 2 2)).flatMap (fun i => natBytes 8 (dptVal s (f 0 1 + i))))) s

/-! ### Device commands (Table 16.11) -/

/-- FTM_STATUS. The grandmaster has no hops, nor a module that has met no upstream; others have one more than their upstream (R268). -/
def ftmStatus (s : State) : Nat :=
  let f := s.fab.ftm
  let h := match (upstream s).map (fun p => (portOf s p).peer) with
    | none | some 0 => 0
    | some m => (1 + Config.hopsOf (m % 4096)) % 256
  b2n f.synced + 2 * b2n f.holdover.isSome + 4 * b2n (tsyncActive s) + 256 * h

/-- One port's part of SET 1. -/
def portTelemetry (s : State) (p : Nat) : List Byte :=
  let x := portOf s p
  natBytes 8 (lnkStatus x) ++ natBytes 8 x.peer ++ natBytes 8 x.serial ++ natBytes 8 (x.health + 65536 * x.peerMask)

/-- The last 10 µs sample. -/
def drawNow (s : State) : Nat := s.pwr.samples.headD 0

/-- TELEMETRY_READ. -/
def execTelemetryRead (m : Fin 11) (s : State) : Out :=
  command m 0x802 4 [(0, 1)] [] (fun s =>
    match bodyF s m.val 0 1 with
    | 0 => .ok s ((s.pwr.temps.flatMap (fun t => natBytes 2 (unsigned 16 t))) ++ natBytes 4 (drawNow s) ++ s.clusters.flatMap (fun (c : Cluster) => natBytes 4 c.khz))
    | 1 => .ok s ((List.range 16).flatMap (portTelemetry s))
    | 2 =>
      .ok s (natBytes 8 (ftmStatus s) ++ natBytes 8 (unsigned 64 s.fab.ftm.offset) ++ natBytes 8 (unsigned 64 s.fab.ftm.delay))
    | _ => .fail s 0x107 0) s

/-- ERRLOG_READ (15 R338): held records from START onward. -/
def execErrlogRead (m : Fin 11) (s : State) : Out :=
  command m 0x803 8 [(0, 4), (4, 1), (5, 1)] [] (fun s =>
    let f := bodyF s m.val
    if 3 < f 4 1 then .fail s 0x107 4
    else if f 5 1 = 0 || 126 < f 5 1 then .fail s 0x107 5
    else
      let start : W32 := BitVec.ofNat 32 (f 0 4)
      let age : W32 → Nat := fun n => (s.err.next - n).toNat
      let ls := (s.err.log.filter (fun (l : LogRec) => decide (age l.lsn ≤ age start) && (!(f 4 1).testBit 1 || !l.read))).take (f 5 1)
      let next := match ls.getLast? with | some l => l.lsn + 1 | none => s.err.next
      let got : W32 → Bool := fun n => ls.any (fun (l : LogRec) => l.lsn == n)
      let s := if (f 4 1).testBit 0 then
          { s with err := { s.err with log := s.err.log.map (fun (l : LogRec) => if got l.lsn then { l with read := true } else l) } }
        else s
      .ok s (natBytes 4 next.toNat ++ natBytes 2 ls.length ++ natBytes 2 0 ++ ls.flatMap recBytes)) s

/-- POWER_LIMIT_SET (18 R407): the applied limit is the higher of the request and 480 W. -/
def execPowerLimitSet (m : Fin 11) (s : State) : Out :=
  command m 0x804 4 [(0, 4)] [] (fun s =>
    let v := bodyF s m.val 0 4
    if v != 0 && (v < 300000 || 1400000 < v) then .fail s 0x107 0
    else
      let want := if v = 0 then 1400000 else v
      let got := max want 480000
      let s := { s with pwr := { s.pwr with raised := decide (want < got) } }
      let s := regPutD s (regAddr .pwr 0 0x018) 1400000 got
      .ok (dptPut s 0x82 (dptVal s 0x82 / 2 ^ 32 * 2 ^ 32 + got)) (natBytes 4 got)) s

/-- A Cicada record's bytes (18 Table 18.6). -/
def cicBytes (d : Nat) (r : CicRec) : List Byte :=
  natBytes 4 (d + 256 + 65536 * (b2n r.pass + 2 * b2n r.fail + 4 * r.trigger)) ++ natBytes 4 r.duration ++ natBytes 8 r.secs ++ natBytes 2 r.cov
    ++ [BitVec.ofNat 8 r.alg, BitVec.ofNat 8 r.fails] ++ natBytes 4 r.patterns ++ natBytes 8 r.version ++ r.signature ++ natBytes 8 r.loc ++ natBytes 8 0

/-- SELFTEST_REPORT (18 R416). A domain without a record reports zeros beside its number. -/
def execSelftestReport (m : Fin 11) (s : State) : Out :=
  command m 0x901 4 [(0, 1), (1, 1)] [] (fun s =>
    let f := bodyF s m.val
    if 31 < f 0 1 then .fail s 0x107 0
    else if f 1 1 = 0 || 32 < f 0 1 + f 1 1 then .fail s 0x107 1
    else
      .ok s ((List.range (f 1 1)).flatMap (fun i =>
        match SMap.get? s.cic.recs (f 0 1 + i) with
        | some r => cicBytes (f 0 1 + i) r
        | none => padTo 64 0 (natBytes 4 (f 0 1 + i + 256))))) s

end Sys2Proof.Machine
end

