-- ==== Sys2Proof/Machine/Finalizer.lean ====
section
/-! DEFINITION. KERNEL_LOAD (02 R25-R32, R453-R455): the container's checks, the words validation reaches, reconvergence points, the kernel cache. -/

namespace Sys2Proof.Machine

/-! ### The container (Table 2.2, R454) -/

/-- A field of a container. -/
def conF (bs : List Byte) (off n : Nat) : Nat := bytesNat ((bs.drop off).take n)

/-- Whether `[off, off + n)` lies between the end of the header and the end of the container, at a multiple of 8. -/
def conPart (bs : List Byte) (off n : Nat) : Bool := off % 8 == 0 && decide (128 ≤ off) && decide (off + n ≤ bs.length)

/-- The entry table: code word index and group count. -/
def conEntries (bs : List Byte) : List (Nat × Nat) :=
  (List.range (conF bs 0x2C 2)).map (fun i => (conF bs (conF bs 0x28 4 + 16 * i) 4, conF bs (conF bs 0x28 4 + 16 * i + 4) 2))

/-- Whether a container of `n` bytes is well formed (R454). -/
def wellFormed (bs : List Byte) (n : Nat) : Bool :=
  bs.take 4 == [0x4C, 0x50, 0x4B, 0x01] && conF bs 0x0C 4 == 128 && conF bs 0x10 8 == n
  && decide (1 ≤ conF bs 0x1C 4) && decide (conF bs 0x1C 4 ≤ 1048576) && decide (conF bs 0x24 4 ≤ 0x1000000)
  && decide (1 ≤ conF bs 0x2C 2) && decide (conF bs 0x2C 2 ≤ 64)
  && conPart bs (conF bs 0x18 4) (8 * conF bs 0x1C 4) && conPart bs (conF bs 0x20 4) (conF bs 0x24 4)
  && conPart bs (conF bs 0x28 4) (16 * conF bs 0x2C 2) && (conEntries bs).all (fun e => decide (1 ≤ e.2) && decide (e.2 ≤ 32))

/-- The code words. -/
def conCode (bs : List Byte) : List Nat := (List.range (conF bs 0x1C 4)).map (fun i => conF bs (conF bs 0x18 4 + 8 * i) 8)

/-- The digest as recomputed: SHA-384 with the field zero. -/
def conDigest (bs : List Byte) : List Byte := sha384 (bs.take 0x40 ++ List.replicate 48 0 ++ bs.drop 0x70)

/-! ### Validation (R28, R453, R455) -/

/-- Whether an instruction is executed always (R27). -/
def always (w : Lpk) : Bool := !w.pn && w.preg == 0

/-- Whether an instruction can fall through (R455). -/
def falls (o : LOp) (w : Lpk) : Bool := !(always w && (o == .bra || o == .ret || o == .exit || o == .trap))

/-- Where control goes after an instruction: the next one, a branch's or a call's target. -/
def succs (code : List Nat) (pc : Nat) : List Nat :=
  match codeAt code pc with
  | none => []
  | some (o, w) =>
    (if falls o w then [pc + lpkLen o] else []) ++ (if o == .bra || o == .call then [branchTarget pc w] else [])

/-- The words reached from a work list. -/
def reachFrom (next : Nat → List Nat) : Nat → List Nat → List Nat → List Nat
  | 0, _, seen => seen
  | _ + 1, [], seen => seen
  | fuel + 1, x :: todo, seen => if seen.contains x then reachFrom next fuel todo seen else reachFrom next fuel (next x ++ todo) (x :: seen)

/-- The words validation reaches. -/
def reached (code : List Nat) (entries : List (Nat × Nat)) : List Nat :=
  reachFrom (fun x => if x < code.length then succs code x else []) (3 * code.length + entries.length + 1) (entries.map (·.1)) []

/-- Whether a reached word fails R28 or R453. -/
def badClass (code : List Nat) (pc : Nat) : Bool :=
  decide (pc < code.length) &&
  match codeAt code pc with
  | none => true
  | some (o, w) => !lpkValid o w || (lopExt o && decide (code.length ≤ pc + 1))

/-- Whether an index is the extension word of a reached instruction. -/
def isExtOf (code : List Nat) (reach : List Nat) (pc : Nat) : Bool :=
  decide (0 < pc) && reach.contains (pc - 1) && (match codeAt code (pc - 1) with | some (o, _) => lopExt o | none => false)

/-- Whether an index is no code word, or is an extension word (BAD_BRANCH). -/
def badPlace (code : List Nat) (reach : List Nat) (pc : Nat) : Bool := decide (code.length ≤ pc) || isExtOf code reach pc

/-! ### Reconvergence (07: a branch's immediate post-dominator) -/

/-- Control within a function: a call returns to the word after it. -/
def succsIn (code : List Nat) (pc : Nat) : List Nat :=
  match codeAt code pc with
  | none => []
  | some (o, w) => (if falls o w then [pc + lpkLen o] else []) ++ (if o == .bra then [branchTarget pc w] else [])

/-- Whether an instruction can leave the kernel or the function: EXIT, RET, TRAP, whatever their predicate. -/
def leaves (code : List Nat) (pc : Nat) : Bool :=
  match codeAt code pc with
  | some (o, _) => o == .ret || o == .exit || o == .trap
  | none => false

/-- Whether control can leave from `pc` without passing `cut`. -/
def leavesWithout (code : List Nat) (pc cut : Nat) : Bool :=
  (reachFrom (fun x => if x = cut then [] else succsIn code x) (3 * code.length + 1) [pc] []).any (fun x => x != cut && leaves code x)

/-- The immediate post-dominator of a branch: the post-dominator that every other one post-dominates. -/
def ipdom (code : List Nat) (pc : Nat) : Option Nat :=
  let all := reachFrom (succsIn code) (3 * code.length + 1) (succsIn code pc) []
  let exits := all.any (leaves code)
  let cands := all.filter (fun x => x != pc && !(succsIn code pc).any (fun y => y != x && leavesWithout code y x))
  if exits then cands.find? (fun x => cands.all (fun y => y == x || !leavesWithout code x y)) else none

/-- The reconvergence points of the branches reached. -/
def reconvPoints (code reach : List Nat) : SMap Nat :=
  reach.foldl (fun m pc =>
    match codeAt code pc with
    | some (.bra, _) => (match ipdom code pc with | some x => SMap.put m pc x | none => m)
    | _ => m) []

/-! ### The kernel cache (R29-R31) -/

/-- LEC major and minor of the DPT. -/
def lecVersion (s : State) : Nat × Nat := (field (dptVal s 0) 48 16, field (dptVal s 0) 32 16)

/-- Whether a container's resource fields fit the DPT: THREAD_REGS, TILE_REGS, MASK_TILES, SPAD_BYTES, OPCACHE_BYTES, SYNC_VIRT. -/
def fitsDpt (s : State) (bs : List Byte) : Bool :=
  decide (conF bs 0x30 2 ≤ field (dptVal s 0x19) 0 16) && decide (conF bs 0x32 1 ≤ dptVal s 0x33) && decide (conF bs 0x33 1 ≤ dptVal s 0x35)
  && decide (conF bs 0x34 4 ≤ dptVal s 0x40 - 16384) && decide (conF bs 0x38 4 ≤ dptVal s 0x37) && decide (conF bs 0x3C 2 ≤ dptVal s 0x61)

/-- Whether a launch entry that a LAUNCH queue still holds names a handle. -/
def queueNames (s : State) (h : Nat) : Bool :=
  s.que.descs.any (fun (e : Nat × QDesc) => e.2.ty == 0 && (List.range (qHeld e.2)).any (fun i =>
    memNat s (qSlot e.2 (e.2.cons + BitVec.ofNat 32 i)) 8 == h))

/-- Entries that may be evicted: held by no live context and no launch, named by no queued entry; least recently launched first. -/
def evictable (s : State) : List (Nat × Kernel) :=
  (s.kernels.filter (fun (e : Nat × Kernel) => e.2.held.isEmpty && e.2.ctxs.isEmpty && !queueNames s e.1)).mergeSort
    (fun a b => decide (a.2.lastLaunch ≤ b.2.lastLaunch))

/-- Room for `n` bytes made in the cache, or none. -/
def kernelRoom (n : Nat) : Nat → State → Option State
  | 0, _ => none
  | fuel + 1, s =>
    let used := s.kernels.foldl (fun t (e : Nat × Kernel) => t + e.2.bytes) 0
    if used + n ≤ dptVal s 0x52 then some s
    else
      match evictable s with
      | [] => none
      | e :: _ => kernelRoom n fuel { s with kernels := SMap.del s.kernels e.1 }

/-- The kernel made of a valid container. -/
def mkKernel (s : State) (bs : List Byte) (canonical : Bool) (code reach : List Nat) (ctx : Nat) : Kernel :=
  { digest := (bs.drop 0x40).take 48, canonical := canonical, dptGen := dptVal s 1, rev := dptVal s 0x92, flags := conF bs 0x08 4, gregs := conF bs 0x30 2,
    tregs := conF bs 0x32 1, mtiles := conF bs 0x33 1, spad := conF bs 0x34 4, oc := conF bs 0x38 4, vsync := conF bs 0x3C 2, code := code,
    entries := conEntries bs, reach := reach,
    callRet := (reach.filter (fun pc => match codeAt code pc with | some (.call, _) => true | _ => false)).map (· + 1),
    rpc := reconvPoints code reach, held := [], ctxs := [ctx], lastLaunch := 0, bytes := Config.microBytes ((bs.drop 0x40).take 48) canonical (dptVal s 1) (dptVal s 0x92) }

/-- The checks of a container before the cache is looked up: a code of Table 2.5, 0 where they pass. -/
def conCheck (s : State) (bs : List Byte) (n : Nat) (canonical : Bool) : Nat :=
  let flags := conF bs 0x08 4
  if !wellFormed bs n then 0x02
  else if conF bs 4 2 != (lecVersion s).1 || (lecVersion s).2 < conF bs 6 2 then 0x03
  else if conDigest bs != (bs.drop 0x40).take 48 then 0x04
  else if (flags.testBit 0 && !canonical) || (flags.testBit 1 && canonical) then 0x08
  else 0

/-- Whether a reached tile instruction always names a tile register that the kernel does not have (06 R110). -/
def badTile (bs : List Byte) (code : List Nat) (pc : Nat) : Bool :=
  match codeAt code pc with
  | some (o, w) => (tileFields o w).any (fun r => decide (conF bs 0x32 1 ≤ r))
  | none => false

/-- Validation of the code and the resources. -/
def conValid (s : State) (bs : List Byte) (code reach : List Nat) : Nat :=
  if reach.any (badClass code) then 0x05
  else if reach.any (badPlace code reach) then 0x06
  else if !fitsDpt s bs || reach.any (badTile bs code) then 0x07
  else 0

/-- A container loaded for a context: the outcome of KERNEL_LOAD. -/
def loadKernel (s : State) (ctx : Nat) (bs : List Byte) (n : Nat) : Ran :=
  let canonical := ctxCanonical s ctx
  let c := conCheck s bs n canonical
  if c != 0 then .fail s c 0
  else
    let hit := s.kernels.find? (fun (e : Nat × Kernel) =>
      e.2.digest == (bs.drop 0x40).take 48 && e.2.canonical == canonical && e.2.dptGen == dptVal s 1 && e.2.rev == dptVal s 0x92)
    match hit with
    | some e =>
      .part { s with kernels := SMap.mod s.kernels e.1 (fun k => { k with ctxs := ctx :: k.ctxs.filter (fun x => x != ctx) }) } 0x01
        (natBytes 8 e.1 ++ natBytes 4 0)
    | none =>
      let code := conCode bs
      let reach := reached code (conEntries bs)
      let v := conValid s bs code reach
      if v != 0 then .fail s v 0
      else
        let k := mkKernel s bs canonical code reach ctx
        match kernelRoom k.bytes (s.kernels.length + 1) s with
        | none => .fail s 0x09 0
        | some s =>
          match chooseFree s (fun h => h != 0 && (SMap.get? s.kernels h).isNone) (2 ^ 64) (s.kernels.length + 2) with
          | (none, s) => .fail s 0x09 0
          | (some h, s) =>
            let r := drawW32 s
            .ok { r.2 with kernels := SMap.put r.2.kernels h k } (natBytes 8 h ++ natBytes 4 r.1.toNat)

/-- KERNEL_LOAD (R30). `image` is what host memory holds where SOURCE is 1. -/
def execKernelLoad (m : Fin 11) (image : List Byte) (s : State) : Out :=
  command m 0x401 24 [(0, 1), (1, 1), (8, 8), (16, 8)] image (fun s =>
    let f := bodyF s m.val
    if 1 < f 1 1 then .fail s 0x107 1
    else if f 1 1 = 0 && !(oneSpace s (f 8 8) (f 16 8) && (spaceOf s (f 8 8) == .edram || spaceOf s (f 8 8) == .ddr)) then .fail s 0x107 8
    else
      let s := settleImage s (f 1 1) (f 8 8) (f 16 8)
      loadKernel s (f 0 1) (imageOf s (f 1 1) (f 8 8) (f 16 8) image) (f 16 8)) s

end Sys2Proof.Machine
end

