-- ==== Sys2Proof/Machine/Package.lean ====
section
/-! DEFINITION. The life cycle and firmware images (17 R384, R392-R396), resets, rails and boot (19 R422-R441), the host's BAR2 (19 R437). -/

namespace Sys2Proof.Machine

/-! ### Resets (19 Table 19.5) -/

/-- Whether a register lies in PD_AON: the PWR block (18 R418). -/
def inAon (a : Nat) : Bool := decide (regBase ≤ a) && decide (a < regBase + 0x1000)

/-- A module reset (R426): everything except PD_AON, fuses and flash. Timers, waiting state changes and held writes of PD_AON end with the clusters and
buckets they name (log entry 63). -/
def moduleReset (s : State) : State :=
  { State.reset with
    pending := s.pending, now := s.now, free := s.free, regs := s.regs.filter (fun (e : Nat × Nat) => inAon e.1)
    sec := { s.sec with auth := [], error := false }
    pwr := { s.pwr with throttle := false, thermal := PwrSt.reset.thermal, fast := 0, slots := PwrSt.reset.slots, polled := [], stagger := [],
                        staggerEnd := 0, shadow := [], heldW := [] }
    cic := { CicSt.reset with recs := s.cic.recs, aonNs := s.cic.aonNs }
    pkg := { PkgSt.reset with perst := s.pkg.perst, position := s.pkg.position } }

/-- The firmware slot that the boot ROM starts (R393): the ACTIVE one, else the other. -/
def bootSlot (c : SecSt) : Option Nat :=
  [c.active % 2, 1 - c.active % 2].find? (fun i =>
    match c.slots[i]? with
    | some f => f.ok && decide (c.rollback ≤ f.rollback)
    | none => false)

/-- The version of the firmware that runs. -/
def runningVersion (s : State) : Nat := (nth s.sec.slots s.sec.running ⟨false, 0, 0⟩).version

/-- Whether the test of a domain is skipped at power-on (18 R417). -/
def skipsTest (s : State) (d : Nat) : Bool :=
  match SMap.get? s.cic.recs d with
  | some r => r.pass && decide (s.cic.aonNs / 1000000000 < r.secs + 604800) && r.version == runningVersion s && !s.pwr.aonLost
  | none => false

/-- DPT MODULE_ID (02 Table 2.1): the ID from flash with its valid bit, and the position of the straps, 0xF above 8 (R428). -/
def bootModuleId (s : State) : State :=
  let pos := if 8 < s.pkg.position then 15 else s.pkg.position
  let v := match s.sec.flashId with | some i => i.toNat + 2 ^ 63 | none => 0
  { dptPut s 5 (setField v 16 4 pos) with fabricId := s.sec.flashId }

/-- A state change that waits for a slot from `since` on: 0 gating, 1 power-on, 2 self-test start, 3 self-test end. -/
def addStagger (s : State) (k kind since : Nat) : State :=
  { s with pwr := { s.pwr with stagger := s.pwr.stagger ++ [{ cluster := k, kind := kind, since := since }] } }

/-- The next domain to be tested, once none is under test: a cluster waits for its stagger slot. -/
def startNextTest (s : State) : State :=
  match s.cic.busy, s.cic.todo with
  | none, d :: rest =>
    let s := { s with cic := { s.cic with busy := some (d, s.now), todo := rest } }
    if 16 ≤ d then
      if (clusterAt s (d - 16)).st == .disabled then s else addStagger s (d - 16) 2 s.now
    else s
  | _, _ => s

/-- The boot up to the Cicada decision (Table 19.7 stages 1 to 6), after any pending transition. -/
def boot (s : State) : State :=
  if s.sec.lcs = 5 then { s with pkg := { s.pkg with stage := 2 } }
  else
    match bootSlot s.sec with
    | none => { s with pkg := { s.pkg with stage := 3, noFirmware := true } }
    | some i =>
      let s := bootModuleId { s with sec := { s.sec with running := i, fallback := i != s.sec.active % 2 } }
      let s := if s.sec.fallback then unitErr s 0 0 0xF 0 0xD 0xFF 0 0 false else s
      let todo := (List.range 32).filter (fun d => !skipsTest s d)
      startNextTest { s with cic := { s.cic with todo := todo, trigger := 0, quick := todo.isEmpty }
                             pkg := { s.pkg with stage := 6, fullTest := !todo.isEmpty } }

/-! ### Life cycle (17 R394, R396) -/

/-- The effects of the transition that the TRANSITION fuse names, and the state fuse burned: entry into RMA keeps the records with the MANUFACTURE bit, resealed in
the other half of the key-store area with the next generation count; RMA to MANUFACTURE counts a pass. Scan and JTAG beyond IDCODE are enabled in BLANK,
MANUFACTURE and RMA alone (Table 17.5), on entry into RMA once the state fuse is burned. -/
def transition (c : SecSt) : SecSt :=
  if c.target = 7 then c
  else
    let c := if c.target = 4 then
        { c with keys := c.keys.filter (fun (e : Nat × KeyRec) => e.2.mask.testBit 3), keyGen := c.keyGen + 1, keyHalf := !c.keyHalf }
      else if c.target = 5 then { c with keys := [] }
      else if c.lcs = 4 && c.target = 1 then { c with rma := c.rma + 1 }
      else c
    { c with lcs := c.target, target := 7, scan := decide (c.target ≤ 1) || c.target = 4 }

/-- Whether the test access port takes an instruction: IDCODE in every life-cycle state, any other where scan and JTAG are enabled (19 R432). -/
def tapOpen (s : State) (idcode : Bool) : Bool := idcode || s.sec.scan

/-- TRANSITION_COMPLETE (R394, R396): every transition ends all sessions and resets the module, which then boots; zeroised memory is empty. -/
def execTransitionComplete (s : State) : Out :=
  if s.sec.target = 7 || !s.pkg.pwrgood || s.pkg.held then .next s
  else
    let r := moduleReset s
    .next (boot { r with sec := transition r.sec, pkg := { r.pkg with pwrgood := true, stage := 1, riseAt := s.pkg.riseAt } })

/-- Whether a transition exists (Table 17.4), and the level that issues it. -/
def transitionBy (c : SecSt) (target level : Nat) : Option Bool :=
  match c.lcs, target with
  | 1, 2 => some (level == 3)
  | 2, 3 => some (level == 0)
  | 2, 4 => some (level == 0)
  | 3, 4 => some (level == 0 || level == 2)
  | 4, 1 => some (level == 3)
  | 4, 5 => some (level == 3)
  | _, _ => none

/-- LIFECYCLE_ADVANCE (R394): the TRANSITION fuse is burned and the response written; then every session ends. -/
def execLifecycleAdvance (m : Fin 11) (s : State) : Out :=
  command m 0x904 4 [(0, 1), (1, 1)] [] (fun s =>
    let f := bodyF s m.val
    let level := match authSession s m.val with | some x => x.level | none => 4
    if f 0 1 != s.sec.lcs then .fail s 0x10B 0
    else
      match transitionBy s.sec (f 1 1) level with
      | none => .fail s 0x10B 1
      | some may =>
        if !may then .fail s 0x106 0xFFFFFFFF
        else if f 0 1 = 1 && !s.sec.keys.any (fun (e : Nat × KeyRec) => e.2.mask.testBit 0) then .fail s 0x10B 1
        else if f 0 1 = 4 && f 1 1 = 1 && 3 ≤ s.sec.rma then .fail s 0x10B 1
        else if !s.ctxs.isEmpty then .fail s 0x10A 0xFFFFFFFF
        else
          .ok { s with sec := { s.sec with target := f 1 1 }, mbx := s.mbx.map (fun (x : Mbx) => { x with session := none }) }
            [BitVec.ofNat 8 (f 1 1)]) s

/-- KEY_LOAD (R383, R384): through the test access port, in MANUFACTURE, a record whose CRC matches takes an EMPTY place, its KEY_ID being new and not 0. -/
def execKeyLoad (rec : KeyLoad) (s : State) : Out :=
  let id := rec.keyId.toNat
  if !tapOpen s false || s.sec.lcs != 1 || s.sec.target != 7 || s.sec.error || !s.pkg.pwrgood || s.pkg.held || !rec.crcOk || id = 0 || (keyOf s id).isSome then .next s
  else
    match (List.range 32).find? (fun i => (SMap.get? s.sec.keys i).isNone) with
    | some i => .next { s with sec := { s.sec with keys := SMap.put s.sec.keys i ⟨id, rec.key, rec.mask.toNat⟩ } }
    | none => .next s

/-- TRNG_HEALTH_FAIL (R392): the error state, and a FATAL_TO_MODULE record of unit type 0x10; its class is open (a free value). -/
def execTrngHealthFail (s : State) : Out :=
  if !s.pkg.pwrgood || s.pkg.held then .next s
  else
    let c := drawNat s
    .next (fatal { c.2 with sec := { c.2.sec with error := true } } 0 0x10 0 (c.1 % 256))

/-! ### Firmware images (17 R393) -/

/-- The check of an image: 0 accepted, else the status FW_UPDATE answers. -/
def imageStatus (s : State) (bs : List Byte) : Nat :=
  let f : Nat → Nat → Nat := fun o n => bytesNat ((bs.drop o).take n)
  let body := (bs.drop 256).take (f 0x14 4)
  if f 0 4 != 0x314C5547 then 3
  else if !Config.fwSigned (bs.take 0x48) ((bs.drop 0x48).take 96) then 1
  else if bs.length < 256 + f 0x14 4 || sha384 body != (bs.drop 0x18).take 48 then 3
  else if f 0x10 4 < s.sec.rollback then 2
  else 0

/-- FW_UPDATE (R393): every check precedes the write of the slot. -/
def execFwUpdate (m : Fin 11) (image : List Byte) (s : State) : Out :=
  command m 0x903 24 [(0, 1), (1, 1), (2, 2), (8, 8), (16, 8)] image (fun s =>
    let f := bodyF s m.val
    if 1 < f 0 1 then .fail s 0x107 0
    else if 1 < f 1 1 then .fail s 0x107 1
    else if 1 < f 2 2 then .fail s 0x107 2
    else if f 0 1 = 0 && !(oneSpace s (f 8 8) (f 16 8) && (spaceOf s (f 8 8) == .edram || spaceOf s (f 8 8) == .ddr)) then .fail s 0x107 8
    else if f 16 8 = 0 || 0x800000 < f 16 8 then .fail s 0x107 16
    else if f 1 1 = s.sec.running then .fail s 0x10A 1
    else
      let s := settleImage s (f 0 1) (f 8 8) (f 16 8)
      let bs := imageOf s (f 0 1) (f 8 8) (f 16 8) image
      let st := imageStatus s bs
      if st != 0 then .fail s st 0xFFFFFFFF
      else
        let slot : FwSlot := { ok := true, version := bytesNat ((bs.drop 8).take 8), rollback := bytesNat ((bs.drop 0x10).take 4) }
        .ok { s with sec := { s.sec with slots := setAt (padUp 2 ⟨false, 0, 0⟩ s.sec.slots) (f 1 1) slot, active := (if f 2 2 = 1 then f 1 1 else s.sec.active) } }
          (natBytes 8 slot.version)) s

/-! ### Supplies (19 R422-R426) -/

/-- A number for a rail: VDD_CORE0-3, VDD_MEM0-3, then the others in the order of Table 19.3. -/
def railKey : Rail → Nat
  | .vdd d => d.val
  | .other i => 4 + i.val

/-- The rail fault of R423. -/
def railFault (s : State) : State :=
  fatal { s with pkg := { s.pkg with railFault := true } } 0 0x11 0 0xB

/-- RAIL_EXCURSION_START (R423). -/
def execRailExcursionStart (rail : Rail) (s : State) : Out :=
  if s.pkg.pwrgood && (SMap.get? s.pkg.railOut (railKey rail)).isNone then
    .next { s with pkg := { s.pkg with railOut := SMap.put s.pkg.railOut (railKey rail) s.now } }
  else .next s

/-- RAIL_GLITCH (R423): shorter than 5 µs. -/
def execRailGlitch (rail : Rail) (s : State) : Out :=
  match SMap.get? s.pkg.railOut (railKey rail) with
  | some t =>
    if s.now < t + 5000 then
      .next (bump0 { s with pkg := { s.pkg with railOut := SMap.del s.pkg.railOut (railKey rail) } } .hst 0 0x28)
    else .next s
  | none => .next s

/-- RAIL_FAULT (R423): 5 µs or longer. -/
def execRailFault (rail : Rail) (s : State) : Out :=
  match SMap.get? s.pkg.railOut (railKey rail) with
  | some t => if t + 5000 ≤ s.now && s.pkg.pwrgood && !s.pkg.railFault then .next (railFault s) else .next s
  | none => .next s

/-- AVS_STATUS_FAULT (R422). -/
def execAvsStatusFault (_d : Fin 4) (s : State) : Out :=
  if s.pkg.pwrgood && !s.pkg.railFault then .next (railFault s) else .next s

/-- REFCLK_LOSS (18 R398): AONCLK comes from the internal oscillator. -/
def execRefclkLoss (s : State) : Out := .next { s with pwr := { s.pwr with refclk := false } }
/-- REFCLK_RETURN (18 R398). -/
def execRefclkReturn (s : State) : Out := .next { s with pwr := { s.pwr with refclk := true } }

/-- VDD_AON_LOSS (R425): the seconds counter stops. -/
def execVddAonLoss (s : State) : Out := .next { s with pwr := { s.pwr with aonGone := true } }

/-- COLD_RESET (R425, R426): everything resets; where VDD_AON was absent AON_LOST is set, else the seconds counter and AON_LOST stay. -/
def execColdReset (s : State) : Out :=
  if s.pkg.pwrgood then .next s
  else
    let lost := s.pwr.aonGone
    let r := moduleReset s
    .next { r with
      regs := []
      pwr := { PwrSt.reset with aonLost := lost || s.pwr.aonLost, refclk := s.pwr.refclk }
      cic := { r.cic with aonNs := if lost then 0 else s.cic.aonNs } }

/-- PWRGOOD_RISE (R428, R441, 17 R394): the straps are sampled, a pending transition is completed, and the boot begins. -/
def execPwrgoodRise (straps : Straps) (s : State) : Out :=
  if s.pkg.pwrgood || s.pwr.aonGone then .next s
  else
    .next (boot { s with sec := transition s.sec
                         pkg := { s.pkg with pwrgood := true, position := straps.position.toNat, stage := 1, riseAt := s.now } })

/-- PWRGOOD_FALL (R426, R427): a low of 10 µs or longer. -/
def execPwrgoodFall (s : State) : Out := .next (moduleReset s)

/-- HOST_RESET (R426): the endpoint, the BARs, MSI-X and mailboxes 0 to 8; their sessions end. A command that runs goes on (17 R389). -/
def execHostReset (s : State) : Out :=
  let mbx := s.mbx.zipIdx.map (fun (e : Mbx × Nat) =>
    if 9 ≤ e.2 then e.1 else if e.1.stage != 0 then { e.1 with session := none, overrun := false } else Mbx.reset)
  let s := clearRegs { s with mbx := mbx, que := { s.que with msix := [] }, pkg := { s.pkg with perst := false, barLog := 28 } } .hst 0 [0x08]
  .next (regPutD s (regAddr .hst 0 0x10) 0xFF0000000000 0xFF0000000000)

/-- PERST_DEASSERT (R426). -/
def execPerstDeassert (s : State) : Out := .next { s with pkg := { s.pkg with perst := true } }

/-! ### Ready (19 R441) -/

/-- Whether the boot may end: firmware runs and no Cicada test is left. -/
def bootEnds (s : State) : Bool :=
  s.pkg.pwrgood && !s.pkg.ready && !s.pkg.held && !s.pkg.noFirmware && s.sec.lcs != 5 && s.sec.target == 7 && s.cic.todo.isEmpty && s.cic.busy.isNone

/-- Where the sync translation tables lie (08 Table 8.12): 64 MiB below die 1's Cicada area. -/
def xlatArea : Nat := 0x80000000 - 0x100000 - 0x4000000

/-- BOOT_READY: the DPT is built, SYN_XLT_BASE set, the rollback fuse burned up to the image's value, background initialisation of DDR5 begins, and waiting mailbox commands are
taken up. -/
def execBootReady (s : State) : Out :=
  if !bootEnds s then .next s
  else
    let slot := nth s.sec.slots s.sec.running ⟨false, 0, 0⟩
    let s := dptPut (dptPut s 4 slot.version) 0x92 (Config.finalizerRev slot.version)
    let s := (List.range 4).foldl (fun s d => regPut s (regAddr .syn d 0x010) xlatArea) s
    let s := disableFailed ((derivedEntries s []).foldl (fun s e => dptPut s e.1 e.2) s)
    let s := dptPut s 0x82 (dptVal s 0x82 / 2 ^ 32 * 2 ^ 32 + regGetD s (regAddr .pwr 0 0x018) 1400000)
    let s := { s with sec := { s.sec with rollback := max s.sec.rollback slot.rollback }
                      pkg := { s.pkg with ready := true, stage := 11, readyMs := (s.now - s.pkg.riseAt) / 1000000, fullTest := false,
                                          ddrInit := decide (0 < ddrPerDie s), ddrMark := [] } }
    .next ((List.range 11).foldl (fun s m => screen m s) s)

/-- HST_STATUS (Table 19.6). -/
def hstStatus (s : State) : Nat :=
  b2n s.pkg.ready + 2 * b2n s.pkg.fullTest + 4 * b2n s.pkg.ddrInit + 16 * s.pkg.stage + 65536 * (s.pkg.readyMs % 2 ^ 32)

/-! ### BAR2 (19 R437) -/

/-- Whether a BAR2 access may be performed: one of eDRAM, bulk DDR5 and the scratchpads, outside firmware's areas and park areas. -/
def bar2Ok (s : State) (a n : Nat) : Bool :=
  s.pkg.ready && oneSpace s a n
  && (match spaceOf s a with | .edram | .ddr | .spad _ => true | _ => false)
  && !meets (fwAreas s ++ parkAreas s) a n

/-- A refused BAR2 access. -/
def bar2Refuse (s : State) : State := bump0 s .hst 0 0x20

/-- BAR2_ACCESS (R437): performed as an access of firmware at module scope, or refused; a refused read returns all ones. What a read of an
uncorrectable codeword (08 R169) returns is a free value. -/
def execBar2Access (acc : Bar2Acc) (s : State) : Out :=
  if !s.pkg.pwrgood || !s.pkg.perst || s.pkg.held || s.pkg.noFirmware then .next s
  else
    let base := regGetD s (regAddr .hst 0 0x08) 0
    match acc with
    | .read off n =>
      if bar2Size s < off + n || n = 0 then .next s
      else if !bar2Ok s (base + off) n then .next { bar2Refuse s with fw := { s.fw with rdHost := 2 ^ (8 * n) - 1 } }
      else if sleeps s (base + off) then .next s
      else
        let r := engRead s 255 (base + off) n
        if rangeBad s (base + off) n then
          let u := unitErr r.2 1 (homeSlice (base + off) / 16) 6 (homeSlice (base + off) % 16) 3 0xFF 0 (base + off) false
          let v := drawNat u
          .next { v.2 with fw := { v.2.fw with rdHost := v.1 % 2 ^ (8 * n) } }
        else .next { r.2 with fw := { r.2.fw with rdHost := bytesNat (memBytes (winView r.2 [(base + off, n)]) (base + off) n) } }
    | .write off data =>
      if bar2Size s < off + data.length || data.isEmpty then .next s
      else if !bar2Ok s (base + off) data.length then .next (bar2Refuse s)
      else if sleeps s (base + off) || rangeHeld s (base + off) data.length then .next s
      else .next (fwWrite s (base + off) data)

end Sys2Proof.Machine
end

