-- ==== Sys2Proof/Machine/Tile.lean ====
section
/-! DEFINITION. The vector engine's tile instructions (06 R108-R118, R457): lanes, masks, the operand cache, reductions and element
accesses, and what each tile instruction of the vector queue does. -/

namespace Sys2Proof.Machine

/-! ### Lanes (R108, R136) -/

/-- VEC_CFG.FENCE. -/
def vecFence (s : State) (n : Nat) : Nat := regGet s (regAddr .vec n 0) % 16
/-- The lane groups that are not fenced. -/
def laneGroups (s : State) (n : Nat) : Nat := ((List.range 4).filter (fun i => !(vecFence s n).testBit i)).length
/-- The ck a tile instruction that takes `k` ck with four lane groups takes (Table 6.1). -/
def laneCk (s : State) (n k : Nat) : Nat := (4 * k + laneGroups s n - 1) / laneGroups s n
/-- The ck the lanes take for a number of elements (R108). -/
def elemCk (s : State) (n k : Nat) : Nat := (k + 16 * laneGroups s n - 1) / (16 * laneGroups s n)

/-! ### Masks and tile registers (R110-R112) -/

/-- Mask tile `i` of a group: m0 reads all ones (R111). -/
def maskTile (g : Group) (i : Nat) : W256 := if i = 0 then BitVec.allOnes 256 else nth g.mtiles (i - 1) 0
/-- Mask tile `i` written; a write of m0 is discarded (R111). -/
def setMask (g : Group) (i : Nat) (m : W256) : Group :=
  if i = 0 then g else { g with mtiles := setAt (padTo 7 0 g.mtiles) (i - 1) m }
/-- The active elements of a tile, `16 r + c` (R112). -/
def actEls (m : W256) : List Nat := (List.range 256).filter (fun i => m.getLsbD i)
/-- Whether element (r, c) of a run is active (R112). -/
def actAt (m : W256) (r c : Nat) : Bool := m.getLsbD (16 * (r % 16) + c % 16)
/-- Element `i` of tile register `t`. -/
def tElem (g : Group) (t i : Nat) : W32 := nth (nth g.tiles t []) i 0
/-- A tile register with its active elements replaced. -/
def setTile (g : Group) (t : Nat) (m : W256) (f : Nat → W32) : Group :=
  { g with tiles := setAt g.tiles t ((List.range 256).map (fun i => if m.getLsbD i then f i else tElem g t i)) }

/-! ### The operand cache (R113, R114) -/

/-- Bytes of the operand cache from an offset of the group's window. -/
def ocBytes (s : State) (n : Nat) (g : Group) (off k : Nat) : List Byte :=
  (List.range k).map (fun i => SMap.getD (coreOf s n).opcache (g.ocBase + off + i) 0)
/-- Bytes put into a map that reads 0 where nothing is listed. -/
def bytesPut (m : SMap Byte) : Nat → List Byte → SMap Byte
  | _, [] => m
  | a, b :: bs => bytesPut (SMap.setD m a 0 b) (a + 1) bs
/-- Bytes written to the operand cache at an offset of the group's window. -/
def ocPut (s : State) (n : Nat) (g : Group) (off : Nat) (bs : List Byte) : State :=
  modCore s n (fun c => { c with opcache := bytesPut c.opcache (g.ocBase + off) bs })
/-- A word of the operand cache. -/
def ocW32 (s : State) (n : Nat) (g : Group) (off : Nat) : W32 := BitVec.ofNat 32 (bytesNat (ocBytes s n g off 4))

/-! ### Reductions (R129) -/

/-- The operation of a reduction: 0 SUM, 1 MIN, 2 MAX. -/
def redFn (op : Nat) (a b : W32) : FRes := if op = 0 then fadd a b else if op = 1 then ⟨fmin a b, 0⟩ else ⟨fmax a b, 0⟩
/-- Its identity. -/
def redId (op : Nat) : W32 := if op = 0 then 0 else if op = 1 then fPosInf else fNegInf
/-- Neighbours combined; the results with the flags. -/
def pairUp (op : Nat) : List W32 → List W32 × Nat
  | a :: b :: r => let q := redFn op a b; let t := pairUp op r; (q.v :: t.1, q.fl ||| t.2)
  | l => (l, 0)
/-- seg16: 16 values combined in the tree of R129; missing ones are the identity. -/
def seg16 (op : Nat) (xs : List W32) : W32 × Nat :=
  let a := pairUp op (padTo 16 (redId op) xs)
  let b := pairUp op a.1
  let c := pairUp op b.1
  let d := pairUp op c.1
  (d.1.headD (redId op), a.2 ||| b.2 ||| c.2 ||| d.2)

/-! ### Accesses of elements (R117, R457) -/

/-- Whether a tile or chain instruction of a group may access memory (R457). -/
def vecMay (s : State) (g : Group) (a n : Nat) (p : Perm) : Bool := engMay s g.ctx (some g.launch) a n p

/-- The fault of an access to `n` bytes with an alignment: its cause and address (Table 6.8). Where several hold, VEC_ALIGN comes before VEC_ADDR and
VEC_OCACHE before VEC_ALIGN (DESIGN CHOICE, log entry 92). -/
def vecFault (s : State) (g : Group) (oc : Bool) (a n al : Nat) (p : Perm) : Option (Nat × Nat) :=
  if oc then (if g.ocBytes < a + n then some (0x51, a) else if a % al ≠ 0 then some (0x56, a) else none)
  else if a % al ≠ 0 then some (0x56, a)
  else if !vecMay s g a n p then some (0x50, a)
  else none

/-- Contiguous elements of `k` bytes joined to ranges. -/
def joinRuns (k : Nat) : List Nat → List (Nat × Nat)
  | [] => []
  | a :: l =>
    match joinRuns k l with
    | (b, n) :: rest => if b = a + k then (a, n + k) :: rest else (a, k) :: (b, n) :: rest
    | [] => [(a, k)]

/-- What a vector-queue entry comes to. -/
inductive VRes where
  /-- It faults: cause, address, whether the error is contained. -/
  | fault (cause addr : Nat) (contained : Bool) (s : State)
  /-- It waits for a PENDING block (15 R348). -/
  | hold
  /-- It completes with IEEE flags. -/
  | done (s : State) (fl : Nat)

/-- Ranges of memory read by the engine; an uncorrectable codeword faults the instruction (08 R169). -/
def vecReads (s : State) (g : Group) (rs : List (Nat × Nat)) : Option Nat × State :=
  match rs.find? (fun r => rangeBad s r.1 r.2) with
  | some r => (some r.1, memErr s 1 r.1 g.ctx 0x03)
  | none => (none, rs.foldl (fun s r => (engRead s g.ctx r.1 r.2).2) s)

/-! ### Tile instructions (Table 6.1) -/

/-- The address of element `i` of TLD, TST and TGATHER. -/
def tileAddr (g : Group) (o : LOp) (e : VecEntry) (i : Nat) : Nat :=
  let step := 4 * modF e.w 0 16
  if o == .tgather then unsigned 64 ((e.g : Int) + (tElem g e.w.a.toNat i).toInt * (step : Int))
  else e.g + i / 16 * step + i % 16 * (if modF e.w 17 1 = 1 then 2 else 4)

/-- TLD and TGATHER. -/
def tileLoad (s : State) (n : Nat) (g : Group) (o : LOp) (e : VecEntry) (m : W256) : VRes :=
  let oc := modF e.w 20 1 == 1
  let k := if modF e.w 17 1 = 1 then 2 else 4
  let els := actEls m
  match els.findSome? (fun i => vecFault s g oc (tileAddr g o e i) k k .read) with
  | some f => .fault f.1 f.2 false s
  | none =>
    let rs := joinRuns k (els.map (tileAddr g o e))
    let r := if oc then (none, s) else vecReads s g rs
    match r.1 with
    | some a => .fault 0x03 a true r.2
    | none =>
      let found := if oc then s else winView r.2 rs
      let get : Nat → W32 := fun i =>
        let a := tileAddr g o e i
        let v := bytesNat (if oc then ocBytes s n g a k else memBytes found a k)
        if k = 2 then bf16ToFp32 (BitVec.ofNat 16 v) else BitVec.ofNat 32 v
      .done (modByAge r.2 n e.age (fun h => setTile h e.w.d.toNat m get)) 0

/-- TST. -/
def tileStore (s : State) (n : Nat) (g : Group) (e : VecEntry) (m : W256) : VRes :=
  let oc := modF e.w 20 1 == 1
  let k := if modF e.w 17 1 = 1 then 2 else 4
  let els := actEls m
  let at_ := tileAddr g .tst e
  match els.findSome? (fun i => vecFault s g oc (at_ i) k k .write) with
  | some f => .fault f.1 f.2 false s
  | none =>
    if !oc && els.any (fun i => rangeHeld s (at_ i) k) then .hold
    else
      let cv : Nat → W16 × Nat := fun i => fp32ToBf16 (tElem g e.w.a.toNat i)
      let bs : Nat → List Byte := fun i => if k = 2 then natBytes 2 (cv i).1.toNat else natBytes 4 (tElem g e.w.a.toNat i).toNat
      let fl := if k = 2 then els.foldl (fun f i => f ||| (cv i).2) 0 else 0
      .done (els.foldl (fun s i => if oc then ocPut s n g (at_ i) (bs i) else engWrite s g.ctx (at_ i) (bs i) false) s) fl

/-- An instruction that writes the active elements of D from a function of the element. -/
def tileMap (s : State) (n : Nat) (e : VecEntry) (m : W256) (f : Nat → FRes) : VRes :=
  .done (modByAge s n e.age (fun h => setTile h e.w.d.toNat m (fun i => (f i).v)))
    ((actEls m).foldl (fun fl i => fl ||| (f i).fl) 0)

/-- TRED (R129, R457): the results in row 0 or column 0. -/
def tileRed (s : State) (n : Nat) (g : Group) (e : VecEntry) (m : W256) : VRes :=
  let op := modF e.w 1 2
  let col := modF e.w 0 1 == 1
  let x : Nat → W32 := fun i => if m.getLsbD i then tElem g e.w.a.toNat i else redId op
  let line : Nat → W32 × Nat := fun k =>
    seg16 op ((List.range 16).map (fun j => x (if col then 16 * j + k else 16 * k + j)))
  let res : Nat → W32 := fun i =>
    if col then (if i / 16 = 0 then (line (i % 16)).1 else 0) else (if i % 16 = 0 then (line (i / 16)).1 else 0)
  .done (modByAge s n e.age (fun h => setTile h e.w.d.toNat m res)) ((List.range 16).foldl (fun f k => f ||| (line k).2) 0)

/-- MLD and MST (R457): 256 bits in one indivisible access. -/
def maskMove (s : State) (n : Nat) (g : Group) (e : VecEntry) (m : W256) (store : Bool) : VRes :=
  let oc := modF e.w 20 1 == 1
  if m = 0 then .done s 0
  else
    match vecFault s g oc e.g 32 32 (if store then .write else .read) with
    | some f => .fault f.1 f.2 false s
    | none =>
      let r := if oc then (none, s) else if store then (none, settleReds s e.g 32) else vecReads s g [(e.g, 32)]
      match r.1 with
      | some a => .fault 0x03 a true r.2
      | none =>
        let old : W256 := BitVec.ofNat 256 (bytesNat (if oc then ocBytes s n g e.g 32 else memBytes (winView r.2 [(e.g, 32)]) e.g 32))
        if store then
          let v := (old &&& ~~~m) ||| (maskTile g (e.w.a.toNat % 8) &&& m)
          let bs := natBytes 32 v.toNat
          if !oc && rangeHeld s e.g 32 then .hold
          else .done (if oc then ocPut s n g e.g bs else engWrite r.2 g.ctx e.g bs false) 0
        else
          let d := e.w.d.toNat % 8
          .done (modByAge r.2 n e.age (fun h => setMask h d ((maskTile h d &&& ~~~m) ||| (old &&& m)))) 0

/-- OCLOAD and OCSTORE: lines of 128 bytes; line `l` takes bit `l mod 256` of the mask. -/
def ocMove (s : State) (n : Nat) (g : Group) (e : VecEntry) (m : W256) (store : Bool) : VRes :=
  let ls := (List.range (modF e.w 0 11 + 1)).filter (fun l => m.getLsbD (l % 256))
  let mem : Nat → Nat := fun l => e.w.ext.toNat % 2 ^ 48 + 128 * l
  let off : Nat → Nat := fun l => e.g + 128 * l
  match ls.findSome? (fun l =>
      (vecFault s g false (mem l) 128 128 (if store then .write else .read)).orElse
        (fun _ => vecFault s g true (off l) 128 128 .read)) with
  | some f => .fault f.1 f.2 false s
  | none =>
    if store then
      if ls.any (fun l => rangeHeld s (mem l) 128) then .hold
      else .done (ls.foldl (fun s l => engWrite s g.ctx (mem l) (ocBytes s n g (off l) 128) false) s) 0
    else
      let r := vecReads s g (ls.map (fun l => (mem l, 128)))
      match r.1 with
      | some a => .fault 0x03 a true r.2
      | none =>
        let found := winView r.2 (ls.map (fun l => (mem l, 128)))
        .done (ls.foldl (fun s l => ocPut s n g (off l) (memBytes found (mem l) 128)) r.2) 0

/-- TEXT (R116): the element to the threads that issued it; the group waits no more. -/
def tileText (s : State) (n : Nat) (g : Group) (e : VecEntry) : VRes :=
  let v := tElem g e.w.a.toNat (modF e.w 0 8)
  .done (modByAge s n e.age (fun h =>
    { putResult (modF e.w 21 6) e.mask v none h with wait := if h.wait == .text then .none else h.wait })) 0

/-- A tile instruction at the head of the vector queue (Table 6.1). -/
def tileOp (s : State) (n : Nat) (g : Group) (o : LOp) (e : VecEntry) : VRes :=
  let m := maskTile g (modF e.w 27 3)
  let a : Nat → W32 := tElem g e.w.a.toNat
  let b : Nat → W32 := tElem g e.w.b.toNat
  let d : Nat → W32 := tElem g e.w.d.toNat
  match o with
  | .tld | .tgather => tileLoad s n g o e m
  | .tst => tileStore s n g e m
  | .tmov => tileMap s n e m (fun i => ⟨a i, 0⟩)
  | .tadd => tileMap s n e m (fun i => fadd (a i) (b i))
  | .tmul => tileMap s n e m (fun i => fmul (a i) (b i))
  | .tfma => tileMap s n e m (fun i => ffma (a i) (b i) (d i))
  | .tmin => tileMap s n e m (fun i => ⟨fmin (a i) (b i), 0⟩)
  | .tmax => tileMap s n e m (fun i => ⟨fmax (a i) (b i), 0⟩)
  | .tcmp =>
    let c : Nat → Bool × Nat := fun i => fcond (modF e.w 0 3) (a i) (b i)
    let k := e.w.d.toNat % 8
    let bits : W256 := BitVec.ofNat 256 ((actEls m).foldl (fun v i => if (c i).1 then v + 2 ^ i else v) 0)
    .done (modByAge s n e.age (fun h => setMask h k ((maskTile h k &&& ~~~m) ||| bits))) ((actEls m).foldl (fun f i => f ||| (c i).2) 0)
  | .tsel => let k := maskTile g (modF e.w 0 3); tileMap s n e m (fun i => ⟨if k.getLsbD i then a i else b i, 0⟩)
  | .tcvt => tileMap s n e m (fun i => fconvert (modF e.w 0 4) (a i))
  | .tsfu => tileMap s n e m (fun i => sfu (modF e.w 0 3) (a i))
  | .tred => tileRed s n g e m
  | .tbcast => tileMap s n e m (fun _ => ⟨BitVec.ofNat 32 e.g, 0⟩)
  | .text => tileText s n g e
  | .mld => maskMove s n g e m false
  | .mst => maskMove s n g e m true
  | .ocload => ocMove s n g e m false
  | .ocstore => ocMove s n g e m true
  | _ => .done s 0

/-- The lanes' ck of a tile instruction (Table 6.1, without the memory's). -/
def tileCk (s : State) (n : Nat) (o : LOp) (e : VecEntry) : Nat :=
  match o with
  | .tsfu => 16
  | .tred => laneCk s n 6
  | .mld | .mst => laneCk s n 1
  | .ocload | .ocstore => (4 * (modF e.w 0 11 + 1) + 2 * laneGroups s n - 1) / (2 * laneGroups s n)
  | _ => laneCk s n 4

end Sys2Proof.Machine
end

