-- ==== Sys2Proof/Machine/Chains.lean ====
section
/-! DEFINITION. Scarab chains (06 R119-R134, R461): descriptors, streams, stages, running maxima, reductions, mask planes, draws, and
what a chain pass writes. -/

namespace Sys2Proof.Machine

/-! ### Descriptors (Tables 6.2-6.5) -/

/-- A stage word (Table 6.3). -/
structure CStage where
  sop : Nat
  srcs : List Nat
  tap : Bool
  sub : Nat
  imm : W32
  deriving DecidableEq, Repr

/-- A chain descriptor (Table 6.2). -/
structure Chain where
  rows : Nat
  cols : Nat
  nstage : Nat
  flags : Nat
  kinds : List Nat
  refs : List Nat
  mask : Nat
  rowv : Nat
  colv : Nat
  tokq : Nat
  tokk : Nat
  window : Nat
  vsync : Nat
  stream : Nat
  seed : Nat
  stages : List CStage
  deriving DecidableEq, Repr

/-- How many of the operands A, B, C a stage operation uses (Table 6.5). -/
def stageArity (sop sub : Nat) : Nat :=
  match sop with
  | 1 | 7 => 3
  | 2 | 3 | 4 | 5 | 6 => 2
  | 10 => if sub = 2 then 3 else 1
  | 12 => 0
  | _ => 1

/-- A stage from its word; only the operands it uses are kept. -/
def stageOf (w : Nat) : CStage :=
  let sop := field w 58 6
  let sub := field w 32 8
  { sop := sop, srcs := ([field w 54 4, field w 50 4, field w 46 4]).take (stageArity sop sub), tap := w.testBit 45, sub := sub,
    imm := BitVec.ofNat 32 w }

/-- A descriptor from its 128 bytes. -/
def chainOf (bs : List Byte) : Chain :=
  let f : Nat → Nat → Nat := fun o k => bytesNat ((bs.drop o).take k)
  { rows := f 0 4, cols := f 4 2, nstage := f 6 1, flags := f 7 1, kinds := [f 8 1, f 9 1, f 10 1, f 11 1],
    refs := [f 0x0C 4, f 0x10 4, f 0x14 4, f 0x18 4], mask := f 0x1C 4, rowv := f 0x20 4, colv := f 0x24 4,
    tokq := f 0x28 4 % 2 ^ 22, tokk := f 0x2C 4 % 2 ^ 22, window := f 0x30 4, vsync := f 0x34 2, stream := f 0x36 2, seed := f 0x38 8,
    stages := (List.range (min (f 6 1) 8)).map (fun i => stageOf (f (0x40 + 8 * i) 8)) }

/-- The kind of stream `k`: 0 IN0, 1 IN1, 2 OUT0, 3 OUT1. -/
def Chain.kind (c : Chain) (k : Nat) : Nat := nth c.kinds k 0
/-- The reference of stream `k`. -/
def Chain.ref (c : Chain) (k : Nat) : Nat := nth c.refs k 0

/-- Whether a stage's operation, sub-operation and operand codes are defined (Tables 6.4, 6.5). -/
def CStage.ok (st : CStage) : Bool :=
  decide (1 ≤ st.sop) && decide (st.sop ≤ 15) && st.srcs.all (fun c => decide (c < 12))
  && (match st.sop with
    | 6 => decide (st.sub % 8 < 6)
    | 8 => decide (st.sub < 4)
    | 9 | 10 | 11 => decide (st.sub < 3)
    | 12 | 15 => decide (st.sub < 2)
    | 14 => st.sub % 4 != 3
    | _ => true)

/-- Whether a stage is of an operation. -/
def Chain.has (c : Chain) (sop : Nat) : Bool := c.stages.any (fun st => st.sop == sop)

/-- R121: a stage that reads an input whose kind is none. -/
def readsNone (c : Chain) (i : Nat) (st : CStage) : Bool :=
  st.srcs.any (fun k => ((k == 1 || (k == 0 && i == 0)) && c.kind 0 == 0) || (k == 2 && c.kind 1 == 0))

/-- The field rules of R119 and R121; `fused` says that a drain delivers (R124), `ncols` is the row length. The range of WINDOW is checked only where a
MASKGEN WINDOW stage uses it (DESIGN CHOICE, log entry 92). -/
def chainOk (c : Chain) (fused : Bool) (ncols : Nat) : Bool :=
  decide (1 ≤ c.nstage) && decide (c.nstage ≤ 8)
  && (if fused then c.kind 0 == 4 else decide (c.kind 0 < 4) && decide (1 ≤ c.rows) && decide (c.rows ≤ 16777216) && decide (1 ≤ c.cols))
  && decide (c.kind 1 < 4) && decide (c.kind 2 ≤ 4) && decide (c.kind 3 ≤ 4)
  && c.stages.all CStage.ok
  && decide ((c.stages.filter (·.tap)).length ≤ 1) && (c.kind 3 == 0 || c.stages.any (·.tap))
  && (List.range c.stages.length).all (fun i => !readsNone c i (nth c.stages i ⟨0, [], false, 0, 0⟩))
  && !(c.has 10 && c.has 11) && (!(c.has 10 || c.has 11) || c.mask != 0xFFFFFFFF)
  && (!c.stages.any (fun st => st.sop == 9 && st.sub == 2) || (decide (1 ≤ c.window) && decide (c.window ≤ 4194304)))
  && (!(c.has 13 || c.kind 2 == 2 || c.kind 3 == 2) || decide (ncols ≤ 256))

/-! ### A run -/

/-- A chain pass: its core, group, descriptor and mask; the coordinates of its rows and columns; the drained values of a fused delivery;
the MTDs of its streams and of the mask plane; the first tile register of each stream. -/
structure ChRun where
  n : Nat
  g : Group
  c : Chain
  m : W256
  rows : List Nat
  cols : List Nat
  fused : Option (List (List W32))
  mtds : List (Option Mtd)
  plane : Option Mtd
  tregs : List Nat

/-- The tile registers a stream covers (R120). -/
def ChRun.span (x : ChRun) : Nat := (x.rows.length + 15) / 16 * ((x.cols.length + 15) / 16)
/-- Whether stream `k` is of tile registers. -/
def ChRun.isTreg (x : ChRun) (k : Nat) : Bool := if k < 2 then x.c.kind k == 3 else x.c.kind k == 4
/-- Whether stream `k` is of the operand cache. -/
def ChRun.isOc (x : ChRun) (k : Nat) : Bool := if k < 2 then x.c.kind k == 2 else x.c.kind k == 3
/-- Whether stream `k` is of an MTD. -/
def Chain.isMtd (c : Chain) (k : Nat) : Bool := c.kind k == 1 || (decide (2 ≤ k) && c.kind k == 2)
/-- The MTD of stream `k`, where it has one. -/
def ChRun.mtd (x : ChRun) (k : Nat) : Option Mtd := nth x.mtds k none

/-- The MTD at a scratchpad offset of the group's area: 32-byte aligned (Table 4.1). -/
def chainMtd (s : State) (g : Group) (off : Nat) : Option Mtd :=
  if off % 32 = 0 then (spadAt g off 32).map (readMtd s) else none

/-- A stream's MTD checked (R119, R62): none for a violation. -/
def streamMtd (s : State) (g : Group) (c : Chain) (k : Nat) : Option (Option Mtd) :=
  if c.isMtd k then
    match chainMtd s g (c.ref k) with
    | none => none
    | some m =>
      let t := trackerOk s g.ctx m
      if m.ok && decide (m.fmt ≤ 4) && (decide (k < 2) || m.blk.isNone || (t.1 && t.2)) then some (some m) else none
  else some none

/-- A run set up from the descriptor at a scratchpad offset; none is VEC_DESC. The mask tile is read now, when the run or delivery starts, not at CHBIND
(DESIGN CHOICE, log entry 92). -/
def setupRun (s : State) (n : Nat) (g : Group) (off msel : Nat) (regs : Nat × Nat × Nat) (fused : Option (List Nat × List Nat × List (List W32))) :
    Option ChRun :=
  match (if off % 128 = 0 then spadAt g off 128 else none) with
  | none => none
  | some a =>
    let c := chainOf (memBytes s a 128)
    let rows := match fused with | some f => f.1 | none => List.range c.rows
    let cols := match fused with | some f => f.2.1 | none => List.range c.cols
    if !chainOk c fused.isSome cols.length then none
    else
      let ms := (List.range 4).map (streamMtd s g c)
      let plane := if c.has 10 || c.has 11 then chainMtd s g c.mask else none
      let x : ChRun := { n := n, g := g, c := c, m := maskTile g msel, rows := rows, cols := cols, fused := fused.map (fun f => f.2.2),
                         mtds := ms.map (fun o => o.getD none), plane := plane, tregs := [] }
      let d1 := if x.isTreg 2 then regs.1 + x.span else regs.1
      let x := { x with tregs := [regs.2.1, regs.2.2, regs.1, d1] }
      if ms.any Option.isNone || ((c.has 10 || c.has 11) && plane.isNone)
          || (List.range 4).any (fun k => x.isTreg k && decide (g.tiles.length < nth x.tregs k 0 + x.span)) then none
      else some x

/-! ### Accesses and their faults (R132, Table 6.8) -/

/-- The active columns of a row (R112). -/
def ChRun.act (x : ChRun) (r : Nat) : List Nat := x.cols.filter (actAt x.m r)
/-- Their runs of consecutive columns. -/
def ChRun.runs (x : ChRun) (r : Nat) : List (Nat × Nat) := joinRuns 1 (x.act r)
/-- The element size of a plain MTD. -/
def plainSize (m : Mtd) : Nat := if m.fmt = 4 then 2 else 4
/-- The mask plane's bytes for columns `[c, c + k)` of row `r`. -/
def planeSpan (m : Mtd) (r c k : Nat) : Nat × Nat := (m.mbase + r * m.mpitch + c / 8, (c + k - 1) / 8 - c / 8 + 1)

/-- The ranges of stream `k` for some columns of row `r`: with blocks along columns, the stream's row is the element's column (R120). -/
def streamSpans (x : ChRun) (k r : Nat) (runs : List (Nat × Nat)) : List (Nat × Nat) :=
  match x.mtd k with
  | none => []
  | some m =>
    let l := if x.c.kind k = 2 && decide (2 ≤ k) then
        runs.flatMap (fun p => (List.range p.2).flatMap (fun j => [m.span (p.1 + j) r 1, m.scaleSpan (p.1 + j) r 1]))
      else runs.flatMap (fun p => [m.span r p.1 p.2, m.scaleSpan r p.1 p.2])
    l.filter (fun p => p.2 != 0)

/-- The operand-cache offset of element (`i`, `j`) of a dense stream (R120). -/
def ocOff (x : ChRun) (k i j : Nat) : Nat := x.c.ref k + 4 * (i * x.cols.length + j)

/-- The row-vector slots a stage reads or writes. -/
def stageSlots (st : CStage) : List Nat :=
  (st.srcs.filter (fun c => decide (4 ≤ c) && decide (c ≤ 7))).map (· - 4)
  ++ (if st.sop = 13 then [0, 2] else [])
  ++ (if st.sop = 14 && !st.sub.testBit 2 then field st.sub 3 2 :: (if st.sub.testBit 5 then [2] else []) else [])
/-- Whether a stage reads or writes the column vector. -/
def stageColv (st : CStage) : Bool := st.srcs.contains 8 || (st.sop == 14 && st.sub.testBit 2)
/-- The offset of slot `v` of row `r`. -/
def slotOff (c : Chain) (r v : Nat) : Nat := c.rowv + 16 * r + 4 * v

/-- The first of a list of access faults. -/
def firstFault (l : List (Unit → Option (Nat × Nat × Bool))) : Option (Nat × Nat × Bool) := l.findSome? (fun f => f ())

/-- A memory range's fault. -/
def spanFault (s : State) (g : Group) (p : Perm) (al : Nat) (r : Nat × Nat) : Option (Nat × Nat × Bool) :=
  match vecFault s g false r.1 r.2 al p with
  | some f => some (f.1, f.2, false)
  | none => if p == .read && rangeBad s r.1 r.2 then some (0x03, r.1, true) else none

/-- An operand-cache word's fault. -/
def wordFault (s : State) (g : Group) (off : Nat) : Option (Nat × Nat × Bool) :=
  (vecFault s g true off 4 4 .read).map (fun f => (f.1, f.2, false))

/-- The faults of a row's active elements (R104, R113, R132, R457). -/
def rowFault (s : State) (x : ChRun) (i r : Nat) : Option (Nat × Nat × Bool) :=
  let acts := x.act r
  if acts.isEmpty then none
  else
    let js := (List.range x.cols.length).filter (fun j => actAt x.m r (nth x.cols j 0))
    let al : Nat → Nat := fun k => match x.mtd k with | some m => if m.blk.isSome then 1 else plainSize m | none => 1
    firstFault [
      fun _ => if (x.c.flags.testBit 2 && decide (4194303 < x.c.tokq + r))
          || (x.c.flags.testBit 3 && acts.any (fun c => decide (4194303 < x.c.tokk + c))) then some (0x54, 0, false) else none,
      fun _ => [0, 1].findSome? (fun k => (streamSpans x k r (x.runs r)).findSome? (spanFault s x.g .read (al k))),
      fun _ => [0, 1, 2, 3].findSome? (fun k => if x.isOc k then js.findSome? (fun j => wordFault s x.g (ocOff x k i j)) else none),
      fun _ => (x.c.stages.flatMap stageSlots).findSome? (fun v => wordFault s x.g (slotOff x.c r v)),
      fun _ => if x.c.stages.any stageColv then acts.findSome? (fun c => wordFault s x.g (x.c.colv + 4 * c)) else none,
      fun _ => match x.plane with
        | none => none
        | some m => (x.runs r).findSome? (fun p => spanFault s x.g (if x.c.has 10 then .write else .read) 1 (planeSpan m r p.1 p.2)),
      fun _ => [2, 3].findSome? (fun k => (streamSpans x k r (x.runs r)).findSome? (spanFault s x.g .write (al k)))]

/-- The rows of a run with their positions. -/
def ChRun.rowIx (x : ChRun) : List (Nat × Nat) := (List.range x.rows.length).zip x.rows

/-- The first fault of a run. -/
def runFault (s : State) (x : ChRun) : Option (Nat × Nat × Bool) := x.rowIx.findSome? (fun p => rowFault s x p.1 p.2)

/-- The memory ranges a run writes over its full extent, those its group may write. -/
def outSpans (s : State) (x : ChRun) : List (Nat × Nat) :=
  let all := joinRuns 1 x.cols
  (x.rows.flatMap (fun r => streamSpans x 2 r all ++ streamSpans x 3 r all
    ++ (match x.plane with | some m => if x.c.has 10 then all.map (fun p => planeSpan m r p.1 p.2) else [] | none => []))).filter
    (fun p => vecMay s x.g p.1 p.2 .write)

/-! ### Draws (R134) -/

/-- mix of R134. -/
def mix64 (z : W64) : W64 :=
  let z := (z ^^^ (z >>> 31)) * 0x7FB5D329728EA185
  let z := (z ^^^ (z >>> 27)) * 0x81DADEF4BC2DD44D
  z ^^^ (z >>> 33)

/-- ctr_draw of R134. -/
def ctrDraw (seed stream grow gcol st : Nat) : W32 :=
  let idx : W64 := BitVec.ofNat 64 (stream * 2 ^ 48) ||| BitVec.ofNat 64 (grow * 2 ^ 24) ||| BitVec.ofNat 64 gcol
  BitVec.ofNat 32 ((mix64 (BitVec.ofNat 64 seed ^^^ mix64 (idx * 0x9E3779B97F4A7C15 + BitVec.ofNat 64 st))).toNat >>> 32)

/-! ### Stages (R121, R122, R128, R129) -/

/-- A reduction into a row slot that a row leaves behind. -/
structure RowRed where
  slot : Nat
  op : Nat
  rescale : Bool
  xs : List W32

/-- A row inside a pass: PREV, the tapped result, row reductions, column reductions (stage, values), mask bits, words of the operand
cache written, flags, the counter of free values. -/
structure RowSt where
  prev : List W32
  tap : List W32
  reds : List RowRed
  cols : List (Nat × List W32)
  bits : List Bool
  oc : SMap W32
  fl : Nat
  free : Nat

/-- A word of the operand cache as the pass has left it. -/
def passWord (s : State) (x : ChRun) (oc : SMap W32) (off : Nat) : W32 := (SMap.get? oc off).getD (ocW32 s x.n x.g off)

/-- What is fixed for a row: its position and coordinate, its columns with position and activity, its inputs, its global row index. -/
structure RowIn where
  i : Nat
  r : Nat
  els : List (Nat × Nat × Bool)
  in0 : List W32
  in1 : List W32
  grow : Nat

/-- The values of an operand (Table 6.4). -/
def operand (s : State) (x : ChRun) (w : RowIn) (q : RowSt) (imm : W32) (code : Nat) : List W32 :=
  let all : W32 → List W32 := fun v => w.els.map (fun _ => v)
  if code = 0 then q.prev
  else if code = 1 then w.in0
  else if code = 2 then w.in1
  else if code = 3 then all imm
  else if code < 8 then all (passWord s x q.oc (slotOff x.c w.r (code - 4)))
  else if code = 8 then w.els.map (fun e => passWord s x q.oc (x.c.colv + 4 * e.2.1))
  else if code = 9 then all 0
  else if code = 10 then all fOne
  else all (natToFp32 w.grow)

/-- A stage operation of one element from its operands. -/
def elemOp (sop sub : Nat) (a b c : W32) : FRes :=
  match sop with
  | 1 => ffma a b c
  | 2 => fmul a b
  | 3 => fadd a b
  | 4 => ⟨fmin a b, 0⟩
  | 5 => ⟨fmax a b, 0⟩
  | 6 => let k := fcond (sub % 8) a b; ⟨if k.1 then fOne else 0, k.2⟩
  | 7 => ⟨if c &&& 0x7FFFFFFF = 0 then b else a, 0⟩
  | 8 => fconvert sub a
  | 15 => ⟨if sub = 0 then a &&& 0x7FFFFFFF else a ^^^ 0x80000000, 0⟩
  | _ => ⟨a, 0⟩

/-- The R105 bit. -/
def maskGen (sub window q k : Nat) : Bool := sub = 0 || (decide (k ≤ q) && (sub = 1 || decide (q - k < window)))

/-- MSAVE's bit (Table 6.5); a comparison with a NaN gives 0, and a NaN is not 0. -/
def saveBit (sub : Nat) (a b c : W32) : Bool :=
  let lt : W32 → W32 → Bool := fun x y => !isNaN x && !isNaN y && decide (fcmp x y < 0)
  if sub = 0 then a &&& 0x7FFFFFFF != 0 else if sub = 1 then lt 0 a else lt b a && lt a c

/-- MAPPLY (Table 6.5). -/
def applyBit (sub : Nat) (bit : Bool) (a imm : W32) : FRes :=
  if sub = 0 then ⟨if bit then a else 0, 0⟩
  else if sub = 1 then (if bit then ⟨a, 0⟩ else fmul a imm)
  else (if bit then fmul a imm else ⟨0, 0⟩)

/-- The mask-plane bit of element (r, c). -/
def planeBit (s : State) (x : ChRun) (r c : Nat) : Bool :=
  match x.plane with
  | some m => (memByte s (m.mbase + r * m.mpitch + c / 8)).getLsbD (c % 8)
  | none => false

/-- The global column index. -/
def gcolOf (x : ChRun) (c : Nat) : Nat := if x.c.flags.testBit 3 then x.c.tokk + c else c

/-- A draw (R133, R134): the counter generator, or a free value. -/
def drawOf (s : State) (x : ChRun) (w : RowIn) (st j c free : Nat) : W32 :=
  if canonOf s x.g.ctx || x.c.flags.testBit 1 then ctrDraw x.c.seed x.c.stream w.grow (gcolOf x c) st else Config.freeW32 (free + j)

/-- The result of an RNG stage from a draw. -/
def rngOf (sub : Nat) (imm d : W32) : W32 :=
  if sub = 0 then (roundFp32 false (d.toNat / 256) (-24)).v else if imm.toNat ≤ d.toNat then fOne else 0

/-- RMAX (R128): V0 and V2 of the row and the row's results. -/
def rmaxRow (old : W32) (acts : List Bool) (xs : List W32) : W32 × W32 × List W32 × Nat :=
  let new := fmax old ((acts.zip xs).foldl (fun m e => if e.1 then fmax m e.2 else m) fNegInf)
  let same := !isNaN new && !isNaN old && decide (fcmp new old = 0)
  let f : FRes :=
    if same then ⟨fOne, 0⟩
    else if old = fNegInf then ⟨0, 0⟩
    else let d := fsub old new; let e := sfuExp2 d.v; ⟨e.v, d.fl ||| e.fl⟩
  let outs : List FRes := (acts.zip xs).map (fun e =>
    if !e.1 || e.2 == fNegInf then ⟨0, 0⟩ else let d := fsub e.2 new; let y := sfuExp2 d.v; ⟨y.v, d.fl ||| y.fl⟩)
  (new, f.v, outs.map (·.v), outs.foldl (fun fl o => fl ||| o.fl) f.fl)

/-- One stage over a row (R122): inactive elements have no effect (R112). -/
def stageRow (s : State) (x : ChRun) (w : RowIn) (q : RowSt) (p : Nat × CStage) : RowSt :=
  let st := p.2
  let op : Nat → List W32 := fun k => match st.srcs[k]? with | some c => operand s x w q st.imm c | none => w.els.map (fun _ => 0)
  let a := op 0
  let b := op 1
  let c := op 2
  let rs : List FRes := (w.els.zip (a.zip (b.zip c))).map (fun e =>
    let va := e.2.1
    if !e.1.2.2 then ⟨0, 0⟩
    else if st.sop = 9 then ⟨if maskGen st.sub x.c.window w.grow (gcolOf x e.1.2.1) then va else st.imm, 0⟩
    else if st.sop = 11 then applyBit st.sub (planeBit s x w.r e.1.2.1) va st.imm
    else if st.sop = 12 then ⟨rngOf st.sub st.imm (drawOf s x w p.1 e.1.1 e.1.2.1 q.free), 0⟩
    else elemOp st.sop st.sub va e.2.2.1 e.2.2.2)
  let fl := rs.foldl (fun f r => f ||| r.fl) q.fl
  let q : RowSt :=
    if st.sop = 13 then
      let r := rmaxRow (passWord s x q.oc (slotOff x.c w.r 0)) (w.els.map (fun e => e.2.2)) a
      { q with prev := r.2.2.1, fl := q.fl ||| r.2.2.2,
               oc := SMap.put (SMap.put q.oc (slotOff x.c w.r 0) r.1) (slotOff x.c w.r 2) r.2.1 }
    else
      let q := { q with prev := rs.map (·.v), fl := fl, free := if st.sop = 12 then q.free + w.els.length else q.free }
      if st.sop = 10 then
        { q with bits := (w.els.zip (a.zip (b.zip c))).map (fun e => e.1.2.2 && saveBit st.sub e.2.1 e.2.2.1 e.2.2.2) }
      else if st.sop = 14 then
        let xs := (w.els.zip a).map (fun e => if e.1.2.2 then e.2 else redId (st.sub % 4))
        if st.sub.testBit 2 then { q with cols := q.cols ++ [(p.1, xs)] }
        else { q with reds := q.reds ++ [⟨slotOff x.c w.r (field st.sub 3 2), st.sub % 4, st.sub.testBit 5, xs⟩] }
      else q
  if st.tap then { q with tap := q.prev } else q

/-- Values combined into a slot segment by segment (R129). -/
def segFold (op : Nat) (acc : W32) (xs : List W32) : W32 × Nat :=
  (chunksOf 16 (xs.length + 1) xs).foldl (fun a seg =>
    let v := seg16 op seg
    let r := redFn op a.1 v.1
    (r.v, a.2 ||| v.2 ||| r.fl)) (acc, 0)

/-- A row's reduction into its slot, after its last element has left the chain: it starts from the words `oc` as the row's stages have left them, before
any reduction of the row (R461). -/
def redRow (s : State) (x : ChRun) (r : Nat) (oc : SMap W32) (q : RowSt) (d : RowRed) : RowSt :=
  let old := passWord s x oc d.slot
  let a : FRes := if d.rescale then fmul old (passWord s x oc (slotOff x.c r 2)) else ⟨old, 0⟩
  let f := segFold d.op a.v d.xs
  { q with oc := SMap.put q.oc d.slot f.1, fl := q.fl ||| a.fl ||| f.2 }

/-! ### Inputs -/

/-- An element of a block tensor as FP32, whether its code is reserved, whether its block is poison (R38, R42). -/
def blkElem (s : State) (m : Mtd) (f : BFmt) (r c : Nat) : W32 × Bool × Bool :=
  let e := (memByte s (m.sbase + r * m.spitch + c / 32)).toNat
  let bs := memBytes s (m.mbase + r * m.mpitch + c / 32 * f.blockBytes) f.blockBytes
  let v := nth ((blockCodes f bs).map (readMant f)) (c % 32) (0, false)
  (blkFp32 f e v.1, v.2, e == 255)

/-- The values of input stream `k` in a row, with the numeric events of its active elements. -/
def inputRow (s : State) (x : ChRun) (k i r : Nat) (els : List (Nat × Nat × Bool)) : List W32 × NumEv :=
  let plain : (Nat → Nat → W32) → List W32 × NumEv := fun f => (els.map (fun e => if e.2.2 then f e.1 e.2.1 else 0), NumEv.none)
  match x.c.kind k with
  | 1 =>
    match x.mtd k with
    | none => plain (fun _ _ => 0)
    | some m =>
      match m.blk with
      | none => plain (fun _ c => plainElem s m r c)
      | some f =>
        let vs : List (W32 × Bool × Bool) := els.map (fun e => if e.2.2 then blkElem s m f r e.2.1 else (0, false, false))
        let rsvd := (vs.filter (fun v => v.2.1)).length
        let bad := ((els.zip vs).filter (fun e => e.2.2.2)).foldl (fun l e => insertNat l (e.1.2.1 / 32)) []
        (vs.map (·.1), { NumEv.none with
          flags := (if rsvd = 0 then 0 else nfRsvd) ||| (if bad.isEmpty then 0 else nfPoisonIn), rsvd := rsvd, poison := bad.length })
  | 2 => plain (fun j _ => ocW32 s x.n x.g (ocOff x k i j))
  | 3 =>
    let tw := (x.cols.length + 15) / 16
    plain (fun j _ => tElem x.g (nth x.tregs k 0 + i / 16 * tw + j / 16) (16 * (i % 16) + j % 16))
  | 4 =>
    match x.fused with
    | some vs => plain (fun j _ => gridAt vs i j 0)
    | none => plain (fun _ _ => 0)
  | _ => plain (fun _ _ => 0)

/-! ### A pass -/

/-- What a pass has computed. -/
structure PassSt where
  out0 : List (List W32)
  out1 : List (List W32)
  bits : List (List Bool)
  cols : List (List (Nat × List W32))
  oc : SMap W32
  ev : NumEv
  fl : Nat
  free : Nat

/-- One row through the chain. -/
def chainRow (s : State) (x : ChRun) (a : PassSt) (p : Nat × Nat) : PassSt :=
  let r := p.2
  let els : List (Nat × Nat × Bool) := (List.range x.cols.length).zip (x.cols.map (fun c => (c, actAt x.m r c)))
  let i0 := inputRow s x 0 p.1 r els
  let i1 := inputRow s x 1 p.1 r els
  let w : RowIn := { i := p.1, r := r, els := els, in0 := i0.1, in1 := i1.1, grow := if x.c.flags.testBit 2 then x.c.tokq + r else r }
  let q0 : RowSt := { prev := i0.1, tap := [], reds := [], cols := [], bits := [], oc := a.oc, fl := a.fl, free := a.free }
  let q := ((List.range x.c.stages.length).zip x.c.stages).foldl (stageRow s x w) q0
  let z := q.reds.foldl (redRow s x r q.oc) q
  { out0 := a.out0 ++ [q.prev], out1 := a.out1 ++ [q.tap], bits := a.bits ++ [q.bits], cols := a.cols ++ [q.cols], oc := z.oc,
    ev := (a.ev.add i0.2).add i1.2, fl := z.fl, free := z.free }

/-- The column reductions of stage `st` at the end of the pass, from the words `oc` before any of them (R129, R461). RESCALE has no factor along
columns: the value it starts from is free. -/
def redCols (s : State) (x : ChRun) (oc : SMap W32) (a : PassSt) (p : Nat × CStage) : PassSt :=
  if p.2.sop = 14 && p.2.sub.testBit 2 then
    let rows := a.cols.map (fun l => ((l.find? (fun e => e.1 == p.1)).map (·.2)).getD [])
    (List.range x.cols.length).foldl (fun a j =>
      let off := x.c.colv + 4 * nth x.cols j 0
      let start := if p.2.sub.testBit 5 then Config.freeW32 (a.free + j) else passWord s x oc off
      let f := segFold (p.2.sub % 4) start (rows.map (fun l => nth l j (redId (p.2.sub % 4))))
      { a with oc := SMap.put a.oc off f.1, fl := a.fl ||| f.2, free := if p.2.sub.testBit 5 then a.free + 1 else a.free }) a
  else a

/-- The values of a whole pass. -/
def chainPass (s : State) (x : ChRun) : PassSt :=
  let a := x.rowIx.foldl (chainRow s x)
    { out0 := [], out1 := [], bits := [], cols := [], oc := [], ev := NumEv.none, fl := 0, free := s.free }
  ((List.range x.c.stages.length).zip x.c.stages).foldl (redCols s x a.oc) a

/-! ### Outputs (R120) -/

/-- The position of a coordinate. -/
def posOf (l : List Nat) (c : Nat) : Option Nat := (findIdxFrom (fun k => k == c) 0 l).map (·.1)

/-- The value that enters a block at coordinates (r, c): 0 outside the run and at an inactive element (R112, R120). -/
def blockVal (x : ChRun) (out : List (List W32)) (r c : Nat) : W32 :=
  match posOf x.rows r, posOf x.cols c with
  | some i, some j => if actAt x.m r c then gridAt out i j 0 else 0
  | _, _ => 0

/-- One block of an output written, where the group may write it. `along` says that blocks run along columns of the run. -/
def outBlock (x : ChRun) (m : Mtd) (f : BFmt) (out : List (List W32)) (along : Bool) (line : Nat) (st : State × NumEv) (b : Nat) :
    State × NumEv :=
  let xs := (List.range 32).map (fun q => if along then blockVal x out (32 * b + q) line else blockVal x out line (32 * b + q))
  if vecMay st.1 x.g (m.span line (32 * b) 32).1 f.blockBytes .write && vecMay st.1 x.g (m.scaleSpan line (32 * b) 32).1 1 .write then
    let w := writeBlocks x.g.ctx m f line false st.1 b [xs]
    (w.1, st.2.add w.2)
  else st

/-- The block numbers that coordinates touch. -/
def blocksOf (l : List Nat) : List Nat := l.foldl (fun a c => insertNat a (c / 32)) []

/-- An output stream to an MTD written; the flags of BF16 rounding. -/
def outMtd (s : State) (x : ChRun) (k : Nat) (m : Mtd) (out : List (List W32)) : State × NumEv × Nat :=
  let along := x.c.kind k == 2
  match m.blk with
  | some f =>
    let r := if along then
        (blocksOf x.rows).foldl (fun st b => x.cols.foldl (fun st c => outBlock x m f out true c st b) st) (s, NumEv.none)
      else x.rows.foldl (fun st r => (blocksOf x.cols).foldl (outBlock x m f out false r) st) (s, NumEv.none)
    (r.1, r.2, 0)
  | none =>
    let cells := x.rowIx.flatMap (fun p => (x.act p.2).map (fun c =>
      (if along then (m.span c p.2 1).1 else (m.span p.2 c 1).1, blockVal x out p.2 c)))
    (cells.foldl (fun s e => engWrite s x.g.ctx e.1 (plainBytes m.fmt [e.2]) false) s, NumEv.none,
      if m.fmt = 4 then cells.foldl (fun f e => f ||| (fp32ToBf16 e.2).2) 0 else 0)

/-- An output stream written. -/
def outStream (s : State) (x : ChRun) (k : Nat) (out : List (List W32)) : State × NumEv × Nat :=
  let act : Nat → Nat → Bool := fun i j => actAt x.m (nth x.rows i 0) (nth x.cols j 0)
  match x.mtd k with
  | some m => outMtd s x k m out
  | none =>
    if x.isOc k then
      (x.rowIx.foldl (fun s p => (List.range x.cols.length).foldl (fun s j =>
        if act p.1 j then ocPut s x.n x.g (ocOff x k p.1 j) (natBytes 4 (gridAt out p.1 j 0).toNat) else s) s) s, NumEv.none, 0)
    else if x.isTreg k then
      let tw := (x.cols.length + 15) / 16
      let s := modByAge s x.n x.g.age (fun g => (List.range x.span).foldl (fun g t =>
        let el : Nat → Nat × Nat := fun e => (t / tw * 16 + e / 16, t % tw * 16 + e % 16)
        let m : W256 := BitVec.ofNat 256 ((List.range 256).foldl (fun v e =>
          if decide ((el e).1 < x.rows.length) && decide ((el e).2 < x.cols.length) && act (el e).1 (el e).2 then v + 2 ^ e else v) 0)
        setTile g (nth x.tregs k 0 + t) m (fun e => gridAt out (el e).1 (el e).2 0)) g)
      (s, NumEv.none, 0)
    else (s, NumEv.none, 0)

/-- One byte of the mask plane with the bits a row saved. -/
def planeByte (s : State) (cols : List Nat) (bits : List Bool) (a b : Nat) : Byte :=
  (cols.zip bits).foldl (fun (v : Byte) e =>
    if e.1 / 8 = b then (if e.2 then v ||| (1#8 <<< (e.1 % 8)) else v &&& ~~~(1#8 <<< (e.1 % 8))) else v) (memByte s a)

/-- The mask plane written by MSAVE: 0 for inactive elements (R112). -/
def savePlane (s : State) (x : ChRun) (bits : List (List Bool)) : State :=
  match x.plane with
  | none => s
  | some m =>
    if x.c.has 10 then
      x.rowIx.foldl (fun s p => (x.cols.foldl (fun l c => insertNat l (c / 8)) []).foldl (fun s b =>
        let a := m.mbase + p.2 * m.mpitch + b
        if vecMay s x.g a 1 .write then engWrite s x.g.ctx a [planeByte s x.cols (nth bits p.1 []) a b] false else s) s) s
    else s

/-- Words of the operand cache written, those inside the window. -/
def ocCommit (s : State) (x : ChRun) (oc : SMap W32) : State :=
  oc.foldl (fun s e => if e.1 + 4 ≤ x.g.ocBytes then ocPut s x.n x.g e.1 (natBytes 4 e.2.toNat) else s) s

/-- The spans of memory that a pass reads in a row: its input streams and its mask plane. -/
def passSpans (x : ChRun) (r : Nat) : List (Nat × Nat) :=
  streamSpans x 0 r (x.runs r) ++ streamSpans x 1 r (x.runs r)
    ++ (match x.plane with | some m => if x.c.has 11 then (x.runs r).map (fun p => planeSpan m r p.1 p.2) else [] | none => [])

/-- The reads of a pass as the slices count them. -/
def passReads (s : State) (x : ChRun) : State :=
  x.rows.foldl (fun s r => (passSpans x r).foldl (fun s p => (engRead s x.g.ctx p.1 p.2).2) s) s

/-- What a pass finds in memory: the RED lines under its streams and its mask plane are evicted (08 R180). -/
def settlePass (s : State) (x : ChRun) : State :=
  settleSpans s (x.rows.flatMap (fun r =>
    passSpans x r ++ (match x.plane with | some m => if x.c.has 10 then (x.runs r).map (fun p => planeSpan m r p.1 p.2) else [] | none => [])))

/-- Bytes of memory that a faulting run leaves undefined (R132): free values. -/
def freeSpan (ctx : Nat) (s : State) (p : Nat × Nat) : State :=
  let d := drawBytes p.2 s
  engWrite d.2 ctx p.1 d.1 false

/-- The operand-cache words a run writes over its full extent. -/
def ocExtent (x : ChRun) : List Nat :=
  x.rowIx.flatMap (fun p =>
    [2, 3].flatMap (fun k => if x.isOc k then (List.range x.cols.length).map (ocOff x k p.1) else [])
    ++ x.c.stages.flatMap (fun st =>
      if st.sop = 13 then [slotOff x.c p.2 0, slotOff x.c p.2 2]
      else if st.sop = 14 && !st.sub.testBit 2 then [slotOff x.c p.2 (field st.sub 3 2)] else []))
  ++ (if x.c.stages.any (fun st => st.sop == 14 && st.sub.testBit 2) then x.cols.map (fun c => x.c.colv + 4 * c) else [])

/-- The outputs of a faulting run hold undefined values over their full extent; tile registers and mask tiles are not written (R132). -/
def undefineRun (s : State) (x : ChRun) : State :=
  let s := (outSpans s x).foldl (freeSpan x.g.ctx) s
  ((ocExtent x).filter (fun o => decide (o + 4 ≤ x.g.ocBytes))).foldl (fun s o =>
    let d := drawW32 s
    ocPut d.2 x.n x.g o (natBytes 4 d.1.toNat)) s

/-- A chain pass run to its end: everything read before anything is written (log entry 43). -/
def commitRun (s : State) (x : ChRun) : State × Nat :=
  let s := settlePass s x
  let a := chainPass (winView s (x.rows.flatMap (passSpans x))) x
  let s := { passReads s x with free := a.free }
  let s := savePlane (ocCommit s x a.oc) x a.bits
  let o := outStream s x 2 a.out0
  let t := outStream o.1 x 3 a.out1
  (numEvent t.1 x.n x.g.ctx x.g.age ((a.ev.add o.2.1).add t.2.1), a.fl ||| o.2.2 ||| t.2.2)

/-- A chain pass: it waits for PENDING blocks, faults with its outputs undefined, or completes. `broken` is a failed check's cause. -/
def chainRun (s : State) (x : ChRun) (broken : Option Nat) : VRes :=
  if (outSpans s x).any (fun p => rangeHeld s p.1 p.2) then .hold
  else
    match broken with
    | some c => .fault c 0 true (undefineRun s x)
    | none =>
      match runFault s x with
      | some f => .fault f.1 f.2.1 f.2.2 (undefineRun (if f.1 = 0x03 then memErr s 1 f.2.1 x.g.ctx 0x03 else s) x)
      | none => let r := commitRun s x; .done r.1 r.2

end Sys2Proof.Machine
end

