-- ==== Sys2Proof/Machine/Vecq.lean ====
section
/-! DEFINITION. The vector queue, fused deliveries, the tile and chain instructions at issue, and the VEC block (06 R115, R116,
R123-R127, R131-R137). -/

namespace Sys2Proof.Machine

/-! ### Checks, flags, faults -/

/-- IEEE flags of a completed instruction (R131): VEC_STICKY and sFPF; sFPL too, but not for a fused delivery. -/
def vecFlags (s : State) (n age fl : Nat) (last : Bool) : State :=
  let a := regAddr .vec n 0x010
  let s := if fl = 0 then s else regPut s a (regGet s a ||| fl)
  modByAge s n age (fun g => { g with fpf := g.fpf ||| fl, fpl := if last then fl else g.fpl })

/-- VEC_CHECK after a failed check (Table 6.13), which a recomputation followed. -/
def laneRecord (s : State) (n : Nat) (passed : Bool) (group unit stage : Nat) : State :=
  let a := regAddr .vec n 0x018
  let v := regGet s a
  let v := setField v 30 1 (b2n (v.testBit 31))
  let v := setField (setField (setField (setField v 31 1 1) 28 2 group) 26 2 unit) 23 3 stage
  let v := if passed then setField v 48 16 (min (field v 48 16 + 1) 0xFFFF) else setField v 40 8 (min (field v 40 8 + 1) 0xFF)
  regPut s a v

/-! ### Lane groups (R108) -/

/-- The lane groups that are not fenced, in rotation from the one that the next segment goes to. -/
def laneTurn (s : State) (n : Nat) : List Nat :=
  ((List.range 4).map (fun i => ((coreOf s n).lanes.next + i) % 4)).filter (fun g => !(vecFence s n).testBit g)
/-- The lane groups that a number of segments uses. -/
def lanesUsed (s : State) (n segs : Nat) : List Nat := (laneTurn s n).take segs
/-- The lanes taken for some segments and ck, and results of the special-function unit requested. -/
def laneRun (s : State) (n age : Nat) (fuse : Bool) (segs ck sfu rmax : Nat) : State :=
  let turn := laneTurn s n
  modCore s n (fun c => { c with lanes :=
    { left := ck, fuse := fuse, age := age, groups := (turn.take segs).foldl (fun m g => m + 2 ^ g) 0,
      next := nth turn (segs % turn.length) 0, sfu := c.lanes.rmax + sfu + rmax, rmax := c.lanes.rmax + rmax } })

/-- What a lane check does before an entry of some segments (R132, R133): the state with its records, and the cause of a check that failed for
good. A lane group that has no segment of the entry, a fenced one among them, has no check to fail (R108). -/
def laneCheck (s : State) (n ctx segs : Nat) (reads : Bool) (chk : LaneCheck) : State × Option Nat :=
  let err : State → Fin 4 → Nat → Nat → State := fun s sev cls info => unitErr s sev (dieOf n) 2 (n % 12) cls ctx info 0 false
  match chk with
  | .clean => (s, none)
  | .recomputed g u st => if !(lanesUsed s n segs).contains g.val then (s, none) else (err (bump (laneRecord s n true g.val u.val st.val) .vec n 0x068 ctx) 0 1 0, none)
  | .failed g u st => if !(lanesUsed s n segs).contains g.val then (s, none) else (err (bump (laneRecord s n false g.val u.val st.val) .vec n 0x068 ctx) 1 1 0x57, some 0x57)
  | .treg => if reads then (err s 1 2 0x53, some 0x53) else (s, none)

/-- Whether a tile instruction reads a tile register or a mask tile other than m0. -/
def tileReads (o : LOp) (e : VecEntry) : Bool := modF e.w 27 3 != 0 || (o != .tld && o != .tbcast && o != .mld && o != .ocload && o != .ocstore)

/-- Whether a chain reads one. -/
def chainReads (x : ChRun) (msel : Nat) : Bool := msel != 0 || x.isTreg 0 || x.isTreg 1

/-- A failed entry (R115): it and every later entry of its group leave, and the group parks. A group that waits for TEXT waits no more. -/
def vecFail (s : State) (n : Nat) (e : VecEntry) (cause addr : Nat) (contained : Bool) : State :=
  let removed := ((coreOf s n).vecq.filter (fun x => x.age == e.age)).length
  let s := modCore s n (fun c => { c with vecq := c.vecq.filter (fun x => x.age != e.age) })
  let s := modByAge s n e.age (fun g => { g with wait := if g.wait == .text then .none else g.wait })
  settleAge n e.age (deferFault s n e.age cause e.pc 0 addr 0 removed contained)

/-! ### Fused deliveries (R124-R127) -/

/-- The fused delivery that comes next on a core: that of the earliest MDRAIN (R126). -/
def fusedNext (s : State) (n : Nat) : Option (Nat × Drain) :=
  ((List.range 4).filterMap (fun b => (bankOf s n b).drain.map (fun d => (b, d)))).foldl (fun m e =>
    if !e.2.fuse then m
    else match m with
      | none => some e
      | some x => if e.2.serial < x.2.serial then some e else m) none

/-- Whether a fused MDRAIN of a0.b and what an MDRAIN of a1.b directly behind it in the queue says are delivered as one (R125): a paired contraction,
the same group, binding, row offset and ROWS. -/
def merges (s : State) (n b : Nat) (d : Drain) (fuse : Bool) (age rowOff : Nat) (bind : Option (Nat × Nat)) (rows : Option Nat) : Bool :=
  d.fuse && fuse && decide (b < 2) && (bankOf s n b).paired && age == d.age && bind == d.bind && rowOff == d.rowOff && rows == some d.dst.rows

/-- Whether the head of the matrix queue is the MDRAIN that a merged delivery waits for: nothing has passed the head since the first. -/
def partnerComes (s : State) (n b : Nat) (d : Drain) : Bool :=
  match (coreOf s n).matq with
  | e :: _ => (coreOf s n).drainSerial == d.serial + 1 &&
    (match e.op with
      | .drain mtd ro _ _ _ _ fuse _ bank bind => bank == b + 2 && merges s n b d fuse e.age ro bind ((drainMtd s n e true mtd).map (·.rows))
      | _ => false)
  | [] => false

/-- The MDRAIN delivered together with a fused one (R125). -/
def partner (s : State) (n b : Nat) (d : Drain) : Option (Nat × Drain) :=
  match (bankOf s n (b + 2)).drain with
  | some d2 => if d2.serial = d.serial + 1 && merges s n b d d2.fuse d2.age d2.rowOff d2.bind (some d2.dst.rows) then some (b + 2, d2) else none
  | none => none

/-- Whether a fused delivery may start: its sums are read, it is the next of its array, and its partner is here or cannot come. -/
def fusedReady (s : State) (n b : Nat) (d : Drain) : Bool :=
  let first : Nat → Drain → Bool := fun b d => match deliverNext s n (b / 2) with | some e => e.2.serial == d.serial | none => false
  !bankBusy (coreOf s n) b && first b d
  && (match partner s n b d with
    | some p => !bankBusy (coreOf s n) p.1 && first p.1 p.2
    | none => !partnerComes s n b d)

/-- The rows, columns and values that a delivery hands to its chain (R125). -/
def fusedRows (s : State) (n b : Nat) (d : Drain) (p : Option (Nat × Drain)) : List Nat × List Nat × List (List W32) :=
  let colsOf : Drain → List Nat := fun d => (List.range d.dst.cols).map (fun j => d.colOff + j)
  let vals : Nat → Drain → List (List W32) := fun b d =>
    (List.range d.dst.rows).map (fun i => (nth (bankBuf (bankOf s n b)) i []).take d.dst.cols)
  let rows := (List.range d.dst.rows).map (fun i => d.rowOff + i)
  match p with
  | none => (rows, colsOf d, vals b d)
  | some e => (rows, colsOf d ++ colsOf e.2, ((vals b d).zip (vals e.1 e.2)).map (fun x => x.1 ++ x.2))

/-- The banks of a delivery that failed (R127): EMPTY, without a signal; the MDRAIN's group parks and its entries leave the matrix
queue. -/
def fusedFail (s : State) (n : Nat) (d : Drain) (banks : List Nat) (cause addr : Nat) (contained : Bool) : State :=
  let removed := ((coreOf s n).matq.filter (fun x => x.age == d.age)).length + banks.length
  let s := banks.foldl (fun s b => modBank s n b (fun _ => LBank.reset)) s
  let s := modCore s n (fun c => { c with matq := c.matq.filter (fun x => x.age != d.age) })
  settleAge n d.age (deferFault s n d.age cause d.pc 0 addr 0 removed contained)

/-- The lanes' counts of a chain pass. -/
def chainCounts (s : State) (n ctx elems : Nat) : State :=
  bumpC (bumpC s .vec n 0x030 elems (some ctx)) .vec n 0x038 (elemCk s n elems) (some ctx)

/-- The segments of a chain pass (R108). -/
def chainSegs (x : ChRun) : Nat := x.rows.length * ((x.cols.length + 15) / 16)

/-- The special-function unit's ck for the requests of RMAX stages, one a row (R128). -/
def rmaxCk (x : ChRun) : Nat := if x.c.has 13 then (x.rows.length + 15) / 16 else 0

/-- FUSED_DELIVERY (R124-R127): the core's next fused delivery passes through its chain, if it is one of array `a`'s. -/
def execFusedDelivery (n : Fin 48) (a : Fin 2) (chk : LaneCheck) (s : State) : Out :=
  let k := n.val
  match fusedNext s k with
  | none => .next s
  | some (b, d) =>
    if b / 2 = a.val && coreRuns s k && vecFence s k != 15 && fusedReady s k b d then
      let p := partner s k b d
      let banks := b :: (match p with | some e => [e.1] | none => [])
      match groupByAge s k d.age, d.bind with
      | some g, some bd =>
        match setupRun s k g bd.1 bd.2 (0, 0, 0) (some (fusedRows s k b d p)) with
        | none => .next (fusedFail s k d banks 0x52 0 false)
        | some x =>
          let ck := laneCheck s k d.ctx (chainSegs x) (chainReads x bd.2) chk
          match chainRun ck.1 x ck.2 with
          | .hold => .next s
          | .fault c ad ct s1 => .next (fusedFail s1 k d banks c ad ct)
          | .done s1 fl =>
            let elems := x.rows.length * x.cols.length
            let s1 := chainCounts (vecFlags s1 k d.age fl false) k d.ctx elems
            let s1 := bumpC s1 .vec k 0x040 (elemCk s k elems) (some d.ctx)
            let s1 := bumpC s1 .vec k 0x058 (rmaxCk x) (some d.ctx)
            let s1 := laneRun s1 k d.age true (chainSegs x) (elemCk s k elems) 0 (rmaxCk x)
            let s1 := if (coreOf s k).vecq.isEmpty then s1 else bumpC s1 .vec k 0x050 (elemCk s k elems) (some d.ctx)
            let s1 := closeBank s1 k b d
            .next (match p with | some e => closeBank s1 k e.1 e.2 | none => s1)
      | _, _ => .next (banks.foldl (fun s b => modBank s k b (fun _ => LBank.reset)) s)
    else .next s

/-! ### The vector queue (R115) -/

/-- Whether a fused delivery is ready to take the lanes (R126). -/
def fusedWaits (s : State) (n : Nat) : Bool := match fusedNext s n with | some e => fusedReady s n e.1 e.2 | none => false

/-- The opcode of an entry. -/
def entryOp (e : VecEntry) : LOp := (lopOf (if e.chain then 9 else 8) e.opc).getD .nop

/-- A completed entry leaves: flags into sFPL, sFPF, VEC_STICKY, and the group may end. -/
def vecDone (s : State) (n : Nat) (e : VecEntry) (fl : Nat) : State :=
  settleAge n e.age (modCore (vecFlags s n e.age fl true) n (fun c => { c with vecq := c.vecq.drop 1 }))

/-- A tile instruction at the head (R117, R133). -/
def headTile (s : State) (n : Nat) (g : Group) (e : VecEntry) (chk : LaneCheck) : State :=
  let o : LOp := entryOp e
  let ck := laneCheck s n e.ctx 16 (tileReads o e) chk
  let res : VRes := match ck.2 with
    | some c => .fault c 0 true ck.1
    | none => tileOp ck.1 n g o e
  match res with
  | .hold => s
  | .fault c ad ct s1 => vecFail s1 n e c ad ct
  | .done s1 fl =>
    let s1 := bump s1 .vec n 0x028 e.ctx
    let s1 := bumpC s1 .vec n 0x038 (tileCk s n o e) (some e.ctx)
    let s1 := if o == LOp.tsfu then bumpC s1 .vec n 0x058 16 (some e.ctx) else s1
    let s1 := laneRun s1 n e.age false 16 (tileCk s n o e) (if o == LOp.tsfu then 16 else 0) 0
    vecDone s1 n e fl

/-- A CHRUN at the head (R119, R123): SIG signals after the run. -/
def headChain (s : State) (n : Nat) (g : Group) (e : VecEntry) (chk : LaneCheck) : State :=
  let msel := modF e.w 27 3
  match setupRun s n g e.g msel (e.w.d.toNat, e.w.a.toNat, e.w.b.toNat) none with
  | none => vecFail s n e 0x52 0 false
  | some x =>
    let sig := x.c.flags.testBit 0
    match (if sig then sigFault s (clusterOf n) e.ctx x.c.vsync else none) with
    | some c => vecFail s n e c 0 false
    | none =>
      let ck := laneCheck s n e.ctx (chainSegs x) (chainReads x msel) chk
      match chainRun ck.1 x ck.2 with
      | .hold => s
      | .fault c ad ct s1 => vecFail s1 n e c ad ct
      | .done s1 fl =>
        let s1 := chainCounts s1 n e.ctx (x.rows.length * x.cols.length)
        let s1 := bumpC s1 .vec n 0x058 (rmaxCk x) (some e.ctx)
        let s1 := laneRun s1 n e.age false (chainSegs x) (elemCk s n (x.rows.length * x.cols.length)) 0 (rmaxCk x)
        let s1 := if sig then hwSignal s1 (clusterOf n) e.ctx x.c.vsync 1 else s1
        vecDone s1 n e fl

/-- VECQ_EXECUTE (R115, R126): the entry at the head runs to its end, unless a fused delivery is ready. An entry of a group that was
aborted leaves without effect. -/
def execVecqExecute (n : Fin 48) (chk : LaneCheck) (s : State) : Out :=
  let k := n.val
  match (coreOf s k).vecq with
  | [] => .next s
  | e :: rest =>
    if coreRuns s k && vecFence s k != 15 && !fusedWaits s k then
      match groupByAge s k e.age with
      | none => .next (modCore s k (fun c => { c with vecq := rest }))
      | some g => .next (if e.chain then headChain s k g e chk else headTile s k g e chk)
    else .next s

/-! ### Issue (R115-R117, R123, R124) -/

/-- The vector queue has room (R115). -/
def vecRoom (c : Core) : Bool := decide (c.vecq.length < 32)

/-- What an entry captures of G: an address of memory from the pair, else one register (R117). -/
def captureG (o : LOp) (x : Iss) (w : Lpk) : Nat :=
  let r := modF w 21 6
  match o with
  | .tld | .tst | .tgather | .mld | .mst => if modF w 20 1 = 0 then gPair x.g (leadOf x) r else (gReg x.g (leadOf x) r).toNat
  | .text => 0
  | _ => (gReg x.g (leadOf x) r).toNat

/-- The OP value of an opcode in its class. -/
def opNumber (o : LOp) : Nat := ((findIdxFrom (fun p => p == o) 1 (classOps (lopClass o))).map (·.1)).getD 0

/-- A tile or chain instruction entered in the vector queue. -/
def vecEnter (o : LOp) (u : Issue) (w : Lpk) (s : State) : Out :=
  plainOp o u w vecRoom (fun x s1 =>
    if x.act = 0 then issueEnd x Flow.next s1
    else
      let e : VecEntry := { slot := x.i, age := x.g.age, ctx := x.g.ctx, pc := x.pc, chain := lopClass o == 9, opc := opNumber o, w := w,
                            g := captureG o x w, mask := x.act }
      issueEnd x Flow.next (modCore s1 x.n (fun c => { c with vecq := c.vecq ++ [e] }))) s

/-- TLD. -/
def execTld (u : Issue) (w : Lpk) (s : State) : Out := vecEnter .tld u w s
/-- TST. -/
def execTst (u : Issue) (w : Lpk) (s : State) : Out := vecEnter .tst u w s
/-- TGATHER. -/
def execTgather (u : Issue) (w : Lpk) (s : State) : Out := vecEnter .tgather u w s
/-- TMOV. -/
def execTmov (u : Issue) (w : Lpk) (s : State) : Out := vecEnter .tmov u w s
/-- TADD. -/
def execTadd (u : Issue) (w : Lpk) (s : State) : Out := vecEnter .tadd u w s
/-- TMUL. -/
def execTmul (u : Issue) (w : Lpk) (s : State) : Out := vecEnter .tmul u w s
/-- TFMA. -/
def execTfma (u : Issue) (w : Lpk) (s : State) : Out := vecEnter .tfma u w s
/-- TMIN. -/
def execTmin (u : Issue) (w : Lpk) (s : State) : Out := vecEnter .tmin u w s
/-- TMAX. -/
def execTmax (u : Issue) (w : Lpk) (s : State) : Out := vecEnter .tmax u w s
/-- TCMP. -/
def execTcmp (u : Issue) (w : Lpk) (s : State) : Out := vecEnter .tcmp u w s
/-- TSEL. -/
def execTsel (u : Issue) (w : Lpk) (s : State) : Out := vecEnter .tsel u w s
/-- TCVT. -/
def execTcvt (u : Issue) (w : Lpk) (s : State) : Out := vecEnter .tcvt u w s
/-- TSFU. -/
def execTsfu (u : Issue) (w : Lpk) (s : State) : Out := vecEnter .tsfu u w s
/-- TRED. -/
def execTred (u : Issue) (w : Lpk) (s : State) : Out := vecEnter .tred u w s
/-- TBCAST. -/
def execTbcast (u : Issue) (w : Lpk) (s : State) : Out := vecEnter .tbcast u w s
/-- MLD. -/
def execMld (u : Issue) (w : Lpk) (s : State) : Out := vecEnter .mld u w s
/-- MST. -/
def execMst (u : Issue) (w : Lpk) (s : State) : Out := vecEnter .mst u w s
/-- OCLOAD. -/
def execOcload (u : Issue) (w : Lpk) (s : State) : Out := vecEnter .ocload u w s
/-- OCSTORE. -/
def execOcstore (u : Issue) (w : Lpk) (s : State) : Out := vecEnter .ocstore u w s
/-- CHRUN. -/
def execChrun (u : Issue) (w : Lpk) (s : State) : Out := vecEnter .chrun u w s

/-- TEXT: its group waits for the element (R116). -/
def execText (u : Issue) (w : Lpk) (s : State) : Out :=
  plainOp .text u w vecRoom (fun x s1 =>
    if x.act = 0 then issueEnd x Flow.next s1
    else
      let e : VecEntry := { slot := x.i, age := x.g.age, ctx := x.g.ctx, pc := x.pc, chain := false, opc := opNumber .text, w := w, g := 0,
                            mask := x.act }
      modGroup (issueEnd x Flow.next (modCore s1 x.n (fun c => { c with vecq := c.vecq ++ [e] }))) x.n x.i
        (fun g => { g with wait := .text })) s

/-- TFENCE (R116). -/
def execTfence (u : Issue) (w : Lpk) (s : State) : Out :=
  plainOp .tfence u w anyRoom (fun x s1 =>
    let s2 := issueEnd x Flow.next s1
    if x.act = 0 then s2 else modGroup s2 x.n x.i (fun g => { g with wait := .tfence })) s

/-- TFENCE_COMPLETE (R116): no entry of the group is left in the vector queue. -/
def execTfenceComplete (u : Slot) (s : State) : Out :=
  let n := u.core.val
  match groupOf s n u.slot.val with
  | none => .next s
  | some g =>
    if g.wait == .tfence && (coreOf s n).vecq.all (fun e => e.age != g.age) then
      .next (modGroup s n u.slot.val (fun g => { g with wait := .none }))
    else .next s

/-- CHBIND (R124): the descriptor at g(G) with mask m(MSEL) becomes the group's fused chain. -/
def execChbind (u : Issue) (w : Lpk) (s : State) : Out :=
  plainOp .chbind u w anyRoom (fun x s1 =>
    if x.act = 0 then issueEnd x Flow.next s1
    else issueEnd x Flow.next (modGroup s1 x.n x.i (fun g =>
      { g with bind := some ((gReg x.g (leadOf x) (modF w 21 6)).toNat, modF w 27 3) }))) s

/-- CHUNBIND (R124). -/
def execChunbind (u : Issue) (w : Lpk) (s : State) : Out :=
  plainOp .chunbind u w anyRoom (fun x s1 =>
    if x.act = 0 then issueEnd x Flow.next s1
    else issueEnd x Flow.next (modGroup s1 x.n x.i (fun g => { g with bind := none }))) s

/-! ### The VEC block (R136, R137) -/

/-- The groups of a core that hold a fused binding, in slots and records. -/
def bindings (c : Core) : Nat :=
  (c.slots.filter (fun g => match g with | some (x : Group) => x.bind.isSome | none => false)).length
  + (c.recs.filter (fun r => match r.grp with | some x => x.bind.isSome | none => false)).length

/-- VEC_FENCE_WRITE (R136): a write of VEC_CFG takes effect while the vector queue is empty, no fused delivery is in progress and no
group holds a binding; else it is discarded and FENCE_REFUSED set. -/
def execVecFenceWrite (w : RegWr) (s : State) : Out :=
  ctlWrite w .vec (fun off => off == 0x000) fwOnly (fun u _ v s =>
    let c := coreOf s u
    if c.vecq.isEmpty && bindings c = 0 && (fusedNext s u).isNone then regPut s (regAddr .vec u 0) (v % 16)
    else let a := regAddr .vec u 0x008; regPut s a (setField (regGet s a) 20 1 1)) s

/-- VEC_CTRL: CLR_COUNTS, which also clears FENCE_REFUSED, and CLR_CHECK. -/
def vecCtrl (w : RegWr) (s : State) : Out :=
  ctlWrite w .vec (fun off => off == 0x020) fwOnly (fun u _ v s =>
    let s := clearIf v 0 .vec (0x008 :: offs 0x028 0x068) u s
    let a := regAddr .vec u 0x018
    if v.testBit 1 then regPut s a (regGet s a / 2 ^ 32 * 2 ^ 32) else s) s

/-- VEC_CLR_COUNTS (R137). -/
def execVecClrCounts (w : RegWr) (s : State) : Out := vecCtrl w s
/-- VEC_CLR_CHECK (R137). -/
def execVecClrCheck (w : RegWr) (s : State) : Out := vecCtrl w s

end Sys2Proof.Machine
end

