-- ==== Sys2Proof/Machine/Held.lean ====
section
/-! DEFINITION. Writes held for a stopped domain (18 R410), their shadows and their end; MAT_INJECT (04 R91). -/

namespace Sys2Proof.Machine

/-- Whether MAT_INJECT may be written (04 R91, 17 Table 17.5): in MANUFACTURE and RMA, and in DEPLOYED while a SERVICE session is open. -/
def injectOpen (s : State) : Bool :=
  s.sec.lcs = 1 || s.sec.lcs = 4
  || (s.sec.lcs = 3 && s.mbx.any (fun (x : Mbx) => match x.session with | some y => !y.pending && y.level == 2 | none => false))

/-- MAT_INJECT_ARM (R91): a write at any other time is discarded. -/
def execMatInjectArm (w : RegWr) (s : State) : Out :=
  ctlWrite w .mat (fun off => off == 0x048) fwOnly (fun u _ v s =>
    if injectOpen s then regPut s (regAddr .mat u 0x048) (v &&& 0x7F7F07) else s) s

/-- LSU_CLR_COUNTS (08 R201). -/
def execLsuClrCounts (w : RegWr) (s : State) : Out :=
  ctlWrite w .lsu (fun off => off == 0x008) fwOnly (fun u _ v s => clearIf v 0 .lsu (offs 0x010 0x030) u s) s

/-- A register's value as its shadow shows it after a held write (R410): RW and W1C fields as written; the others unchanged. -/
def shadowPut (s : State) (b : RBlk) (u off v : Nat) : State :=
  match plainReg b u off with
  | none => s
  | some p =>
    let a := regAddr b u off
    let old := SMap.getD s.pwr.shadow a (regGetD s a p.reset)
    { s with pwr := { s.pwr with shadow := SMap.put s.pwr.shadow a (p.write old v) } }

/-- A held write carried out as the write of its register. -/
def applyWrite (s : State) (w : RegWr) : State :=
  let go : Out → State := fun r => match r with | .next t => t | _ => s
  match regSplit w.addr with
  | none => s
  | some (b, _, off) =>
    match b with
    | .mat => if off = 0x040 then go (execMatClrCounts w s) else if off = 0x048 then go (execMatInjectArm w s) else go (regWrite w s)
    | .vec => if off = 0x000 then go (execVecFenceWrite w s) else if off = 0x020 then go (execVecClrCounts w s) else go (regWrite w s)
    | .thr =>
      if off = 0x018 then (if field w.value.toNat 8 2 = 2 then go (execParkctlAbort w s) else go (execParkctlReplay w s))
      else if off = 0x020 then go (execThrClrCounts w s) else go (regWrite w s)
    | .num => if off = 0x08 then go (execNumClrCounts w s) else go (regWrite w s)
    | .lsu => if off = 0x008 then go (execLsuClrCounts w s) else go (regWrite w s)
    | .xfr => if off = 0x008 then go (execXfrClrCounts w s) else go (regWrite w s)
    | _ => go (regWrite w s)

/-- The held writes of a cluster applied in arrival order as its clock returns; its shadows end. Those of a DISABLED cluster are discarded. -/
def applyHeld (s : State) (k : Nat) : State :=
  let ws := SMap.getD s.pwr.heldW k []
  let mine : Nat → Bool := fun a => match regSplit a with | some (b, u, _) => blkCluster b u == some k | none => false
  let s := { s with pwr := { s.pwr with heldW := SMap.del s.pwr.heldW k, shadow := s.pwr.shadow.filter (fun (e : Nat × Nat) => !mine e.1) } }
  if (clusterAt s k).st == .disabled then s else ws.foldl applyWrite s

end Sys2Proof.Machine
end

