-- ==== Sys2Proof/Machine/Power.lean ====
section
/-! DEFINITION. Power, clocks and self-test (18): DORMANT, stagger slots, timers, the power and thermal limits, the Cicada self-test, held writes' shadows, the PWR
and CIC registers. -/

namespace Sys2Proof.Machine

/-! ### Whether a cluster is idle (R401) -/

/-- The cluster that issued a transaction. -/
def issuerCluster (s : State) : Issuer → Option Nat
  | .thread n _ _ => some (clusterOf n)
  | .fabq n _ _ => some (clusterOf n)
  | .engine j _ => (SMap.get? s.jobs j).map (fun (x : EngJob) => x.cluster)
  | .reduction b _ => (bucketAt s b).map Bucket.cluster
  | .update _ _ => none
  | .ckpt _ _ => none
  | .mcp => none

/-- A slot is empty, or its group is in a registered sync WAIT or in FFWAIT. -/
def slotSleeps (s : State) (n : Nat) : Option Group → Bool
  | none => true
  | some g =>
    match g.wait with
    | .firefly _ _ _ _ _ => true
    | .sync _ _ => (waitObj s n g.age).isSome
    | _ => false

/-- A core has no work. -/
def coreIdle (s : State) (n : Nat) : Bool :=
  let c := coreOf s n
  c.slots.all (slotSleeps s n) && c.matq.isEmpty && c.vecq.isEmpty && c.dmaq.isEmpty && c.fabq.isEmpty && c.accs.isEmpty && c.stage.todo.isEmpty
  && c.banks.all (fun (b : LBank) => b.st == .empty || b.st == .failed) && c.rings.all (fun (r : Ring) => r.loads.isEmpty)

/-- A cluster is idle. A run in PASS1, NORM or PASS2 runs on every virtual sequencer's cluster (14 R329). -/
def clusterIdle (s : State) (k : Nat) : Bool :=
  [0, 1, 2].all (fun i => coreIdle s (3 * k + i))
  && !s.jobs.any (fun (e : Nat × EngJob) => e.2.cluster == k)
  && !s.buckets.any (fun (e : Nat × Bucket) => e.2.st == 2 && e.2.cluster == k)
  && !s.runs.any (fun (e : Nat × URun) => (e.2.st == 2 || e.2.st == 3 || e.2.st == 4) && (List.range 16).any (fun v => servesV s v == k))
  && !s.fab.waiting.any (fun (o : OutTxn) => issuerCluster s o.who == some k)
  && !s.fab.conns.any (fun (e : Nat × Conn) => e.2.unack.any (fun (u : Unack) => issuerCluster s u.who == some k))

/-- PWR_CFG.DWELL in µs. -/
def dwell (s : State) : Nat := regGetD s (regAddr .pwr 0 0) 0xC8 % 65536

/-! ### Shared timer slots (R406) -/

/-- A timer's place taken: a free slot, or none. -/
def freeTimer (s : State) : Option Nat := findIdxFrom (fun (t : Option Timer) => t.isNone) 0 s.pwr.slots |>.map (·.1)

/-- A timer put into a slot. -/
def putTimer (s : State) (i : Nat) (t : Option Timer) : State := { s with pwr := { s.pwr with slots := setAt (padUp 16 none s.pwr.slots) i t } }

/-- Whether a timer is a deadline. -/
def Timer.isDeadline (t : Timer) : Bool := match t.who with | .bucket _ => true | _ => false

/-- The wake timer with the latest compare value: its slot. -/
def latestWake (l : List (Option Timer)) : Option (Nat × Timer) :=
  l.zipIdx.foldl (fun best e =>
    match e.1 with
    | some t =>
      if t.isDeadline then best
      else match best with
        | some b => if b.2.due < t.due then some (e.2, t) else best
        | none => some (e.2, t)
    | none => best) none

/-- A wake timer takes a free slot, else the polling tick. -/
def addWake (s : State) (t : Timer) : State :=
  match freeTimer s with
  | some i => putTimer s i (some t)
  | none => { s with pwr := { s.pwr with polled := s.pwr.polled ++ [t] } }

/-- A deadline takes a free slot, else that of the latest wake timer, which falls back to the polling tick. -/
def addDeadline (s : State) (t : Timer) : State :=
  match freeTimer s with
  | some i => putTimer s i (some t)
  | none =>
    match latestWake s.pwr.slots with
    | some (i, w) =>
      let s := putTimer s i (some t)
      bump0 { s with pwr := { s.pwr with polled := s.pwr.polled ++ [w] } } .pwr 0 0x230
    | none => s

/-- The polled wake timer that is due earliest. -/
def earliestPolled (l : List Timer) : Option Timer :=
  l.foldl (fun best t => match best with | some b => if t.due < b.due then some t else best | none => some t) none

/-- A slot that frees is taken by the polled wake timer that is due earliest. -/
def freeSlotTo (s : State) (i : Nat) : State :=
  match earliestPolled s.pwr.polled with
  | none => putTimer s i none
  | some t => putTimer { s with pwr := { s.pwr with polled := s.pwr.polled.erase t } } i (some t)

/-- The timers of a cluster that wakes are no longer needed; firmware's own stay. -/
def dropTimers (s : State) (k : Nat) : State :=
  let mine : Timer → Bool := fun t => t.cluster == k && t.who != .firmware
  let s := { s with pwr := { s.pwr with polled := s.pwr.polled.filter (fun t => !mine t) } }
  (List.range 16).foldl (fun s i =>
    match nth s.pwr.slots i none with
    | some t => if mine t then freeSlotTo s i else s
    | none => s) s

/-- A time rounded to AONCLK's resolution of 80 ns, up for a timeout, which never ends early, down for a deadline, which is never late. -/
def aonUp (t : Nat) : Nat := (t + 79) / 80 * 80
/-- The same, down. -/
def aonDown (t : Nat) : Nat := t / 80 * 80

/-- The fabric time at which ck of a cluster that remain have passed, at its last CCLK. -/
def ckDue (s : State) (k left : Nat) : Nat := aonUp (s.ftime + (left * 1000000 + (clusterAt s k).khz - 1) / max 1 (clusterAt s k).khz)

/-- The wake timers of a cluster's waiting groups, in slots and SUSPENDED (10 R231). -/
def groupTimers (s : State) (k : Nat) : List Timer :=
  [0, 1, 2].flatMap (fun i =>
    let n := 3 * k + i
    ((coreOf s n).slots ++ (coreOf s n).recs.map (fun (r : Rec) => if r.st == .suspended then r.grp else none)).filterMap (fun (o : Option Group) =>
      match o with
      | none => none
      | some g =>
        let d := match g.wait with
          | .firefly _ _ _ _ d => d
          | .sync _ _ => (waitObj s n g.age).bind (fun w => w.2.deadline)
          | _ => none
        d.map (fun t => { who := .group n g.age, cluster := k, due := ckDue s k (t - toCkOf s n) })))

/-- The deadlines of a cluster's sequencer (13 R309, R317): 50 µs before the decision of an ARMED bucket and before its NO_RESULT time. -/
def bucketTimers (s : State) (k : Nat) : List Timer :=
  s.buckets.filterMap (fun (e : Nat × Bucket) =>
    if e.2.cluster = k && e.2.deadline != 0 && (e.2.st == 1 || e.2.st == 2) then
      some { who := .bucket e.1, cluster := k, due := aonDown ((if e.2.st = 1 then e.2.decideAt else e.2.limit) - 50000) }
    else none)

/-- Whether the deadlines of a cluster find slots. -/
def deadlinesFit (s : State) (k : Nat) : Bool :=
  decide ((bucketTimers s k).length + (s.pwr.slots.filter (fun (t : Option Timer) => match t with | some x => x.isDeadline | none => false)).length ≤ 16)

/-! ### Stagger slots and state changes (R401-R403) -/

/-- A cluster's wake event (R402): an entry whose gating slot has not begun is cancelled; one that has begun is followed by the wake; a DORMANT cluster
waits for its power-on slot. -/
def wakeCluster (s : State) (k : Nat) : State :=
  let c := clusterAt s k
  match c.st with
  | .entering =>
    if c.gated then (if c.wake.isSome then s else modCluster s k (fun c => { c with wake := some s.now }))
    else
      let s := { s with pwr := { s.pwr with stagger := s.pwr.stagger.filter (fun (g : Stagger) => g.cluster != k) } }
      bump0 (dropTimers (modCluster s k (fun c => { c with st := .run, wake := some s.now, idleSince := none, since := s.now })) k) .pwr 0 0x208
  | .dormant =>
    if s.pkg.held then s
    else
      let s := modCluster s k (fun c => { c with st := .waking, wake := some s.now, since := s.now })
      addStagger (bump0 (dropTimers s k) .pwr 0 0x210) k 1 s.now
  | _ => s

/-- DORMANT_ENTRY (R401): a cluster idle for DWELL begins its entry, its timers converted (R406); an entry whose gating slot has ended is complete, and a wake
that came meanwhile is served. -/
def execDormantEntry (k : Fin 16) (s : State) : Out :=
  let c := clusterAt s k.val
  match c.st with
  | .run =>
    let long := match c.idleSince with | some t => decide (t + 1000 * dwell s ≤ s.now) | none => false
    if dwell s != 0 && long && c.wake.isNone && clusterIdle s k.val && deadlinesFit s k.val then
      let s := (bucketTimers s k.val).foldl addDeadline s
      let s := (groupTimers s k.val).foldl addWake s
      .next (addStagger (modCluster s k.val (fun c => { c with st := .entering, since := s.now, gated := false, wake := none })) k.val 0 (s.now + 5500))
    else .next s
  | .entering =>
    if c.gated && decide (c.since + 8000 ≤ s.now) then
      let s := bump0 (modCluster s k.val (fun c => { c with st := .dormant, since := s.now, idleSince := none })) .pwr 0 0x200
      .next (match c.wake with
        | none => s
        | some t =>
          let s := modCluster s k.val (fun c => { c with st := .waking, wake := some t })
          addStagger (bump0 (dropTimers s k.val) .pwr 0 0x210) k.val 1 t)
    else .next s
  | _ => .next s

/-- DORMANT_WAKE (R402). -/
def execDormantWake (k : Fin 16) (_why : WakeCause) (s : State) : Out := .next (wakeCluster s k.val)

/-- Whether a waiting state change goes first (R403): wakes before the others, in the order of their wake events. -/
def staggerFirst (s : State) (g : Stagger) : Bool :=
  if g.kind = 1 then s.pwr.stagger.all (fun (x : Stagger) => x.kind != 1 || decide (g.since ≤ x.since))
  else s.pwr.stagger.all (fun (x : Stagger) => x.kind != 1)

/-- STAGGER_SLOT (R403): the cluster's state change takes its 2.5 µs slot. An entry's 8 µs (R401) are those that end with its slot. At the end of a failed test the cluster is DISABLED where that is published, else it
stays in service (02 R22). -/
def execStaggerSlot (k : Fin 16) (s : State) : Out :=
  match s.pwr.stagger.find? (fun (g : Stagger) => g.cluster == k.val && decide (g.since ≤ s.now)) with
  | none => .next s
  | some g =>
    if decide (s.now < s.pwr.staggerEnd) || !staggerFirst s g then .next s
    else
      let s := bumpC { s with pwr := { s.pwr with stagger := s.pwr.stagger.erase g, staggerEnd := s.now + 2500 } } .pwr 0 0x218 (s.now - g.since) none
      let failed := clusterFailed s k.val && field (dptVal s 0x13) (3 * k.val) 3 == 0
      let s := modCluster s k.val (fun c =>
        match g.kind with
        | 0 => { c with gated := true, since := s.now - 5500 }
        | 1 => { c with gated := false }
        | 2 => { c with st := .test, since := s.now }
        | _ => { c with st := if failed then .disabled else .run, since := s.now, idleSince := none })
      .next (if g.kind = 3 then applyHeld s k.val else s)

/-- The CCLK of the clusters that run, other than one (R407). -/
def othersKhz (s : State) (k : Nat) : Option Nat :=
  (s.clusters.zipIdx.find? (fun e => e.2 != k && (e.1.st == .run || e.1.st == .entering))).map (fun e => e.1.khz)

/-- WAKE_FIRST_ISSUE (R403, R407, R410): 45 µs after its wake event the cluster issues; held writes are applied first, at the CCLK that the others hold. -/
def execWakeFirstIssue (k : Fin 16) (s : State) : Out :=
  let c := clusterAt s k.val
  match c.wake with
  | none => .next s
  | some t =>
    if s.now < t + 45000 then .next s
    else if c.st == .run then .next (modCluster s k.val (fun c => { c with wake := none }))
    else if c.st == .waking && !s.pwr.stagger.any (fun (g : Stagger) => g.cluster == k.val) then
      let s := modCluster s k.val (fun c =>
        { c with st := .run, wake := none, since := s.now, gated := false, idleSince := none, khz := (othersKhz s k.val).getD c.khz })
      .next (applyHeld s k.val)
    else .next s

/-- Whether the writer of a held write may write the register: firmware, and the host where the owning chapter grants it (03, 07). -/
def heldMay (q : Req) (b : RBlk) (off : Nat) : Bool :=
  !q.thread && (!q.host || (b == .num && off == 0) || (b == .thr && off == 0x018))

/-- HELD_WRITE (R410): a write to a register of a stopped domain joins its cluster's 64-entry queue and shows in the shadow; one that finds the queue full wakes the
cluster and waits. A write to a DISABLED cluster is discarded by REGISTER_WRITE. -/
def execHeldWrite (w : RegWr) (s : State) : Out :=
  match reqOf s w.src true w.addr w.bytes w.value.toNat with
  | none => .next s
  | some q =>
    match regSplit q.addr with
    | none => .next s
    | some (b, u, off) =>
      match blkCluster b u with
      | none => .next s
      | some k =>
        if !blkStopped s b u then .next s
        else if regWidth b off != some q.bytes || q.addr % q.bytes != 0 then .next (reqDone w.src 0 s)
        else if !heldMay q b off then .next (reqDone w.src 0 (refuse q true s))
        else
          let l := SMap.getD s.pwr.heldW k []
          if 64 ≤ l.length then .next (wakeCluster s k)
          else
            let h : RegWr := { src := w.src, addr := q.addr, bytes := q.bytes, value := BitVec.ofNat 64 q.value }
            let s := bump0 { s with pwr := { s.pwr with heldW := SMap.put s.pwr.heldW k (l ++ [h]) } } .pwr 0 0x240
            .next (reqDone w.src 0 (shadowPut s b u off q.value))

/-! ### Timers and polling (R406) -/

/-- TIMER_SLOT_COMPARE: a slot reaches its value and wakes its cluster. -/
def execTimerSlotCompare (i : Fin 16) (s : State) : Out :=
  match nth s.pwr.slots i.val none with
  | none => .next s
  | some t =>
    if t.due ≤ s.ftime then .next (wakeCluster (freeSlotTo s i.val) t.cluster) else .next s

/-- POLL_TICK: the wake timers on the polling tick that are due fire. -/
def execPollTick (s : State) : Out :=
  let due := s.pwr.polled.filter (fun (t : Timer) => decide (t.due ≤ s.ftime))
  let s := { s with pwr := { s.pwr with polled := s.pwr.polled.filter (fun (t : Timer) => !decide (t.due ≤ s.ftime)) } }
  .next (due.foldl (fun s t => wakeCluster (bump0 s .pwr 0 0x238) t.cluster) s)

/-- SELF_REFRESH_ENTRY (R405): a channel beside a DORMANT cluster (00: channels 4k to 4k + 3) without a request for DWELL. -/
def execSelfRefreshEntry (ch : Fin 64) (s : State) : Out :=
  if (clusterAt s (ch.val / 4)).st == .dormant && dwell s != 0 && !s.mem.selfRefresh.contains ch.val
      && decide (SMap.getD s.mem.chanLast ch.val 0 + 1000 * dwell s ≤ s.now) then
    .next { s with mem := { s.mem with selfRefresh := insertNat s.mem.selfRefresh ch.val } }
  else .next s

/-! ### Power and thermal limits (R399, R407, R408) -/

/-- The applied limit in mW: the lower of 1,400 W and PWR_LIMIT (01 R15). -/
def powerLimit (s : State) : Nat := min 1400000 (regGetD s (regAddr .pwr 0 0x018) 1400000)
/-- The 1 ms average in mW; the window starts with zeros. -/
def drawAvg (s : State) : Nat := s.pwr.samples.foldl (fun a b => a + b) 0 / 100

/-- Clusters whose clocks run. -/
def awake (s : State) : Nat := (s.clusters.filter (fun (c : Cluster) => c.st == .run || c.st == .entering)).length

/-- POWER_SAMPLE (R407): above the limit on average, or a single sample above 1.10 times the limit, the clocks are lowered. -/
def execPowerSample (mW : Nat) (s : State) : Out :=
  let s := { s with pwr := { s.pwr with samples := (mW :: s.pwr.samples).take 100 } }
  let fast := if powerLimit s * 11 < mW * 10 then max s.pwr.fast (4 * awake s) else s.pwr.fast
  .next { s with pwr := { s.pwr with throttle := decide (powerLimit s < drawAvg s) || fast != 0, fast := fast } }

/-- CCLK_STEP (R399, R407, R408): a step of 25 MHz within 0.40-1.10 GHz, at most one per µs; a rise only while nothing throttles and the average is below 0.97
times the limit, one per 100 µs; a fall of a hot die one per 100 µs unless the power limit asks for it. -/
def execCclkStep (k : Fin 16) (up : Bool) (s : State) : Out :=
  let c := clusterAt s k.val
  let hot := nth s.pwr.thermal (k.val / 4) false
  let wait := if up || (hot && !s.pwr.throttle) then 100000 else 1000
  if !(c.st == .run || c.st == .entering) || s.now < c.stepAt + wait then .next s
  else if up then
    if s.pwr.throttle || hot || powerLimit s * 97 ≤ drawAvg s * 100 || 1100000 ≤ c.khz then .next s
    else .next (modCluster s k.val (fun c => { c with khz := c.khz + 25000, stepAt := s.now }))
  else if c.khz ≤ 400000 then .next s
  else
    let fast := s.pwr.fast - 1
    let s := { s with pwr := { s.pwr with fast := fast, throttle := decide (powerLimit s < drawAvg s) || fast != 0 } }
    .next (modCluster s k.val (fun c => { c with khz := c.khz - 25000, stepAt := s.now }))

/-- THERMAL_CHECK (R408), in 1/16 °C. -/
def execThermalCheck (die : Fin 4) (cTemp mTemp : Int) (s : State) : Out :=
  if !s.pkg.pwrgood && !s.pkg.ready then
    .next { s with pwr := { s.pwr with temps := setAt (setAt (padUp 8 0 s.pwr.temps) die.val cTemp) (4 + die.val) mTemp } }
  else
    let d := die.val
    let s := { s with pwr := { s.pwr with temps := setAt (setAt (padUp 8 0 s.pwr.temps) d cTemp) (4 + d) mTemp } }
    let was := nth s.pwr.thermal d false
    let hot := decide (1600 < cTemp) || (was && decide (1552 ≤ cTemp))
    let set := s.pwr.thermal.any id
    let s := { s with pwr := { s.pwr with thermal := setAt (padUp 4 false s.pwr.thermal) d hot } }
    let s := if hot && !set then unitErr s 0 d 0x11 0 0xB 0xFF 0 0 false else s
    if (1840 < cTemp || 1680 < mTemp) && !s.pkg.thermtrip then
      .next (fatal { s with pkg := { s.pkg with thermtrip := true } } d 0x11 0 0xB)
    else .next s

/-! ### The Cicada self-test (R413-R417) -/

/-- Whether a cluster's cores hold a group of a context. -/
def clusterHolds (s : State) (k : Nat) : Bool :=
  [0, 1, 2].any (fun i => (coreOf s (3 * k + i)).slots.any (fun (g : Option Group) => g.isSome) || (coreOf s (3 * k + i)).recs.any (fun (r : Rec) => r.st != .free))

/-- SELFTEST_RUN (R413, 16 Table 16.11): it responds when every requested domain has been tested. -/
def execSelftestRun (m : Fin 11) (s : State) : Out :=
  command m 0x902 4 [(0, 4)] [] (fun s =>
    let f := bodyF s m.val 0 4
    if s.cic.mailbox = some m.val then
      if s.cic.todo.isEmpty && s.cic.busy.isNone then
        .ok { s with cic := { s.cic with mailbox := none } } (natBytes 4 s.cic.passed ++ natBytes 4 s.cic.failed)
      else .wait s
    else if s.cic.mailbox.isSome then .wait s
    else if f % 4096 != 0 && !s.ctxs.isEmpty then .fail s 0x10A 0
    else if (List.range 16).any (fun k => f.testBit (16 + k) && clusterHolds s k) then .fail s 0x10A 0
    else if f = 0 then .ok s (natBytes 4 0 ++ natBytes 4 0)
    else
      .wait (startNextTest { s with cic := { s.cic with todo := (List.range 32).filter (fun d => f.testBit d), trigger := 2, mailbox := some m.val,
                                                        passed := 0, failed := 0 } })) s

/-- The memory algorithm of a domain's test (Tables 18.5, 18.6). -/
def testAlg (d : Nat) : Nat := if d = 3 then 0 else if d < 3 then 1 else if d < 8 then 2 else if d < 12 then 0 else if d < 16 then 3 else 2

/-- What firmware does with a failed domain (R416): a cluster is disabled and, where R22 permits, published; any other failure is fatal to the module. The severity of
a failed cluster's record is a free choice among the others. -/
def testFailed (s : State) (d : Nat) : State :=
  if 16 ≤ d then
    let r := drawNat s
    let s := unitErr r.2 ⟨r.1 % 3, Nat.lt_trans (Nat.mod_lt _ (by decide)) (by decide)⟩ 0 0x12 0 0xC 0xFF 0 0 false
    if dptMay s then dptWrite s [] else s
  else fatal s 0 0x12 0 0xC

/-- CICADA_TEST_DONE (R416): the record is written; a cluster waits for the slot that ends its test. Coverage, patterns, signature and failing words are free values. -/
def execCicadaTestDone (dom : Fin 32) (res : CicadaResult) (s : State) : Out :=
  let d := dom.val
  match s.cic.busy with
  | none => .next s
  | some (b, t) =>
    let ready := if 16 ≤ d then (clusterAt s (d - 16)).st == .test || (clusterAt s (d - 16)).st == .disabled else (SMap.get? s.cic.seg (d - 12)).isNone || d < 12
    if b != d || !ready then .next s
    else
      let pass := match res with | .pass => true | .fail _ => false
      let a := drawNat s
      let p := drawNat a.2
      let w := drawNat p.2
      let sig := drawBytes 16 w.2
      let logic := !(12 ≤ d && d < 16)
      let r : CicRec :=
        { pass := pass, fail := !pass, trigger := s.cic.trigger, duration := (s.now - t) / 1000, secs := s.cic.aonNs / 1000000000,
          cov := if logic then a.1 % 10001 else 0, alg := testAlg d, fails := if pass then 0 else w.1 % 256, patterns := if logic then p.1 % 2 ^ 32 else 0,
          version := runningVersion s, signature := sig.1, loc := match res with | .pass => 0 | .fail x => x % 2 ^ 64 }
      let s := sig.2
      let s := { s with cic := { s.cic with recs := SMap.put s.cic.recs d r, busy := none,
                                            passed := (if pass then setField s.cic.passed d 1 1 else s.cic.passed),
                                            failed := (if pass then s.cic.failed else setField s.cic.failed d 1 1) } }
      let s := bump0 s .pwr 0 0x318
      let s := if 16 ≤ d && (clusterAt s (d - 16)).st == .test then addStagger s (d - 16) 3 s.now else s
      .next (startNextTest (if pass then s else testFailed s d))

/-- CICADA_SEGMENT_TEST (R415): a segment is copied into the die's Cicada area, tested and copied back; its contents do not change. An uncorrectable codeword met in
the copy is logged (08 R169). -/
def execCicadaSegmentTest (die : Fin 4) (seg : Nat) (step : SegStep) (s : State) : Out :=
  let d := die.val
  let under := match s.cic.busy with | some (b, _) => b == 12 + d | none => false
  match step, SMap.get? s.cic.seg d with
  | .save, none =>
    if !under || 1024 ≤ seg || s.ctxs.isEmpty then .next s
    else
      let area := (d + 1) * 0x40000000 - 0x100000
      let cells := s.mem.cells.filter (fun (e : Nat × Byte) => inSegment d seg (e.1 / 128))
      let rest := s.mem.cells.filter (fun (e : Nat × Byte) => !(decide (area ≤ e.1) && decide (e.1 < area + 0x100000)))
      let copied := cells.foldl (fun m (e : Nat × Byte) => cellPut m (area + 128 * ((e.1 % 0x40000000) / 2048 % 8192) + e.1 % 128) e.2) rest
      let bad := (s.mem.badCw.filter (fun c => inSegment d seg (c / 4))).map (fun c => c / 4 * 128)
      let s := setCells { s with cic := { s.cic with seg := SMap.put s.cic.seg d (seg, 0) } } copied
      .next (bad.eraseDups.foldl (fun s a => memErr s 1 a 255 0) s)
  | .test _, some (g, 0) => if g = seg then .next { s with cic := { s.cic with seg := SMap.put s.cic.seg d (seg, 1) } } else .next s
  | .restore, some (g, 1) => if g = seg then .next { s with cic := { s.cic with seg := SMap.del s.cic.seg d } } else .next s
  | _, _ => .next s

/-! ### The PWR and CIC registers (Table 18.7) -/

/-- The code of a cluster's state. -/
def ClSt.code : ClSt → Nat
  | .run => 0
  | .entering => 1
  | .dormant => 2
  | .waking => 3
  | .test => 4
  | .disabled => 5

/-- PWR_STATUS. -/
def pwrStatus (s : State) : Nat :=
  b2n s.pwr.throttle + 2 * b2n (s.pwr.thermal.any id) + 4 * b2n s.pwr.raised + 8 * b2n s.pwr.aonLost + 16 * b2n (!s.pwr.polled.isEmpty)
    + 256 * (s.pwr.slots.filter (fun (t : Option Timer) => t.isSome)).length
/-- PWR_CLSTATE. -/
def pwrClstate (s : State) : Nat := s.clusters.zipIdx.foldl (fun v e => v + e.1.st.code * 2 ^ (4 * e.2)) 0
/-- PWR_TMR_STATUS. -/
def pwrTmrStatus (s : State) : Nat :=
  s.pwr.slots.zipIdx.foldl (fun v e => match e.1 with | some t => v + 2 ^ e.2 + b2n t.isDeadline * 2 ^ (16 + e.2) | none => v) 0
    + 2 ^ 32 * (s.pwr.polled.length % 65536)
/-- PWR_TMRs_OWNER. -/
def timerOwner (s : State) : Option Timer → Nat
  | none => 0
  | some t =>
    (if t.isDeadline then 1 else 2) + 16 * (t.cluster % 4) + 256 * (t.cluster / 4)
      + 65536 * (match t.who with
        | .bucket b => b % 256
        | .group n age => ((slotOfAge (coreOf s n) age).getD 0) % 256
        | .firmware => 0)
/-- CIC_STATUS. -/
def cicStatus (s : State) : Nat :=
  (match s.cic.busy with | some (d, _) => d + 256 | none => 0) + 512 * b2n s.cic.quick + 2 ^ 32 * (s.cic.aonNs / 1000000000 % 2 ^ 32)
/-- CIC_PASS and CIC_FAIL: a bit per domain whose latest record satisfies a test. -/
def cicBits (s : State) (p : CicRec → Bool) : Nat := s.cic.recs.foldl (fun v (e : Nat × CicRec) => if p e.2 then v + 2 ^ e.1 else v) 0

/-- The PWR block's registers that are not stored (Table 18.7); none for the stored ones. -/
def pwrReg (s : State) (off : Nat) : Option Nat :=
  if off = 0x008 then some (pwrStatus s)
  else if off = 0x010 then some (pwrClstate s)
  else if off = 0x018 then some (powerLimit s)
  else if off = 0x020 then some (drawNow s)
  else if off = 0x028 then some (drawAvg s)
  else if rng 0x040 0x0B8 off then some (clusterAt s ((off - 0x040) / 8)).khz
  else if off = 0x0C0 then some s.pwr.rdstat
  else if off = 0x0C8 then some (pwrTmrStatus s)
  else if rng 0x100 0x1F8 off then
    let t := nth s.pwr.slots ((off - 0x100) / 16) none
    some (if off % 16 = 0 then (match t with | some x => x.due | none => 0) else timerOwner s t)
  else if off = 0x300 then some (cicStatus s)
  else if off = 0x308 then some (cicBits s (fun r => r.pass))
  else if off = 0x310 then some (cicBits s (fun r => r.fail))
  else none

end Sys2Proof.Machine
end

