-- ==== Sys2Proof/Machine/Regfile.lean ====
section
/-! DEFINITION. Reads of registers (00 R5, R6; 18 R409; 20 R443, R444) and the control registers of trackers, slices, PWR, SEC, HST and the performance counters
(03 R57, R58; 08 R180, R200; 20 R445-R448); the background initialisation of DDR5 (19 R439). -/

namespace Sys2Proof.Machine

/-! ### Register values, block by block -/

/-- A field of a status register at a bit. -/
def at2 (bit v : Nat) : Nat := v * 2 ^ bit

/-- SEC (17 Table 17.6). -/
def secReg (s : State) (off : Nat) : Option Nat :=
  let c := s.sec
  if off = 0x000 then some (c.lcs + 16 * c.target + 256 * c.rma)
  else if off = 0x008 then
    let isOpen := (s.mbx.filter (fun (x : Mbx) => x.session.isSome)).length
    some (b2n c.error + 2 * (c.active % 2) + 4 * b2n c.fallback + 256 * (c.rollback % 64) + 65536 * isOpen)
  else if rng 0x100 0x1F8 off then
    some (match SMap.get? c.keys ((off - 0x100) / 8) with
      | some k => k.id + at2 32 k.mask + at2 36 1 + at2 37 (b2n (keyLocked s k.id))
      | none => 0)
  else none

/-- ERR and CKP (15 Table 15.8). -/
def errReg (s : State) (off : Nat) : Option Nat :=
  if off = 0x000 then some (errStatus s) else if off = 0x108 then some (ckpStatus s)
  else if off = 0x118 then some (ckpGen s 0) else if off = 0x120 then some (ckpGen s 1) else none

/-- QUE_STATUS (16 Table 16.20). -/
def queStatus (s : State) : Nat :=
  s.que.cached.length + at2 16 ((s.que.launches.filter (fun (e : Nat × Launch) => e.2.started && !allPlaced e.2)).length) + at2 32 s.que.held.length

/-- RDX (13 Table 13.7). -/
def rdxReg (s : State) (off : Nat) : Option Nat :=
  let n : (Bucket → Bool) → Nat := fun p => (s.buckets.filter (fun (e : Nat × Bucket) => p e.2)).length
  if off = 0x010 then some (s.buckets.length + at2 16 (n (fun k => k.st == 2)) + at2 32 (n (fun k => !k.settled && k.st != 1)))
  else if rng 0x1000 0x17F8 off then
    some (match bucketAt s ((off - 0x1000) / 8) with
      | some k => k.tag + at2 16 k.ctx + at2 24 k.st + at2 27 1 + at2 28 k.idx
      | none => 0)
  else none

/-- UPD (14 Table 14.9). -/
def updReg (s : State) (off : Nat) : Option Nat :=
  let busy : Nat → Bool := fun v => s.runs.any (fun (e : Nat × URun) => decide (2 ≤ e.2.st) && decide (e.2.st ≤ 4) && (nextTile e.2 v).isSome)
  if off = 0x010 then
    some (s.runs.length + at2 16 (maskWhere16 busy) + at2 32 (maskWhere16 (fun c => (List.range 16).any (fun v => v != c && servesV s v == c && busy v))))
  else if rng 0x1000 0x1038 off then
    let r := (off - 0x1000) / 16
    some (match runAt s r with
      | some u =>
        if off % 16 = 0 then u.stepNo + at2 32 u.ctx + at2 40 u.st + at2 44 1
        else (u.segs.filter (fun (g : USeg) => g.done1)).length + at2 32 (u.segs.filter (fun (g : USeg) => g.done2)).length
      | none => 0)
  else none
where
  /-- Bits 0 to 15 where a test holds. -/
  maskWhere16 (p : Nat → Bool) : Nat := (List.range 16).foldl (fun m v => if p v then m + 2 ^ v else m) 0

/-- RGN (12 Tables 12.4, 12.5). -/
def rgnReg (s : State) (off : Nat) : Option Nat :=
  let r := regionAt s (off / 32)
  if off % 32 = 0x00 then some (at2 12 r.base + at2 48 r.peer.toNat)
  else if off % 32 = 0x08 then some (at2 12 r.limit + at2 48 r.ridx.toNat)
  else if off % 32 = 0x10 then some r.key.toNat
  else if off % 32 = 0x14 then
    some (b2n r.valid + 2 * b2n r.kind + 4 * b2n r.read + 8 * b2n r.write + 16 * b2n r.accum + 32 * b2n r.exported + 64 * b2n r.noncache
      + 256 * r.owner + at2 16 r.epoch)
  else some r.naks

/-- TRK (03 Table 3.7). -/
def trkReg (s : State) (d off : Nat) : Nat :=
  let t := SMap.getD s.trackers (1024 * d + off / 32) Tracker.off
  let h : Nat → Nat := fun o => bytesNat (((List.range 8).map (fun i => BitVec.ofNat 8 (nth t.hist (o + i) 0))))
  match off % 32 with
  | 0x00 => trackerState t
  | 0x08 => h 0
  | 0x10 => h 8
  | _ => 0

/-- SYN and FF (10 Tables 10.7, 10.8); the FF registers exist on die 0 only. -/
def synReg (s : State) (d off : Nat) : Option Nat :=
  let mine := s.sync.objs.filter (fun (e : Nat × SyncObj) => objDie e.1 == d)
  let bits : (Nat → Bool) → Nat := fun p => (List.range 8).foldl (fun m l => if p l then m + 2 ^ l else m) 0
  if off = 0x000 then
    some (mine.foldl (fun n e => n + e.2.waits.length + e.2.seqWaits) 0
      + at2 16 ((List.range 4).foldl (fun n i => n + watchesTaken s (4 * d + i)) 0)
      + at2 32 ((List.range 4).foldl (fun n i => n + (segHeld s (4 * d + i)).length) 0))
  else if decide (0x100 ≤ off) && decide (off < 0x180) && d != 0 then some 0
  else if off = 0x108 then some (ffPin s)
  else if off = 0x110 then
    some (bits (ffLevel s) + at2 8 (bits (fun l => ffCores s l != 0 && ffLocalDone s l)) + at2 16 (b2n ((ffPin s).testBit 7 && (ffPin s).testBit 8))
      + at2 17 (b2n (nth s.sync.pins 0 true)) + at2 18 (b2n (nth s.sync.pins 1 true)))
  else if 0x100000 ≤ off then
    let p := 16384 * d + (off - 0x100000) / 16
    let o := objOf s p
    some (if off % 16 = 0 then o.cnt.toNat
      else o.st.code + at2 8 o.owner + at2 16 (o.waits.length + o.seqWaits) + at2 32 (objWatches s p)
        + at2 48 ((xlatEntries s).filter (fun e => xObj e.2 == p)).length)
  else none

/-- LNK (11 Tables 11.9, 11.11). -/
def lnkReg (s : State) (p off : Nat) : Option Nat :=
  let x := portOf s p
  if off = 0x008 then some (lnkStatus x)
  else if off = 0x010 then some x.peer
  else if off = 0x018 then some x.serial
  else if off = 0x028 then some (x.health + 65536 * x.peerMask)
  else none

/-- PMC_STATUS (20 Table 20.2). -/
def pmcStatus (s : State) (d : Nat) : Nat :=
  (List.range 16).foldl (fun m n => m + b2n ((regGet s (regAddr .pmc d (0x100 + 8 * n))).testBit 63) * 2 ^ n) 0
    + at2 16 (b2n (regGet s (regAddr .pmc d 0x010) != 0)) + at2 17 (b2n ((regGet s (regAddr .pmc d 0)).testBit 17))

/-- SLC_STATUS (08 Table 8.9). -/
def slcStatus (s : State) (h : Nat) : Nat :=
  let n : SKind → Nat := fun k => ((sliceAt s h).filter (fun (x : SLine) => x.kind == k)).length
  n .red + at2 16 (n .replica) + at2 32 (n .far)

/-- XFR_STATUS (08 Table 8.11): the line tags that its engines hold. -/
def xfrStatus (s : State) (k : Nat) : Nat :=
  let n : Nat → Nat := fun e => (engTags s k e).length
  min (n 0) 2047 + at2 16 (min (n 1) 1023) + at2 32 (min (n 2) 1023)

/-- The phase of an array (04 Table 4.10): what the sweep in the staging unit that names it waits for, while it stands between commands. -/
def arrPhase (s : State) (n a : Nat) : Nat :=
  let c := coreOf s n
  let x := nth c.arrays a Arr.reset
  if x.replay.isSome then 4
  else if c.stage.left != 0 && c.stage.on.contains a then
    (if c.stage.len + 6 < c.stage.left then 1 else if c.stage.len < c.stage.left then 2 else 3)
  else
    match c.stage.todo.head? with
    | none => 0
    | some v =>
      if !v.banks.any (fun b => b / 2 == a) then 0
      else
        match sweepStall s n v with
        | some 0x068 => 5
        | some 0x078 => 6
        | some _ => 7
        | none => 1

/-- MAT (04 Tables 4.8 to 4.11). -/
def matReg (s : State) (n off : Nat) : Option Nat :=
  let c := coreOf s n
  let ring : Nat → Nat := fun a =>
    let r := nth c.rings a Ring.reset
    let landed := r.loads.foldl (fun m (l : WLoad) => m - (l.rows - l.landed)) (r.stop - r.head)
    (match r.fmt with | none => at2 62 3 | some 5 => at2 61 1 + at2 62 1 | some f => at2 62 f)
      + at2 32 (min (r.stop - r.head) (2 ^ 21 - 1)) + at2 16 landed + b2n (!r.loads.isEmpty)
  if off = 0x008 then
    let code : LBank → Nat := fun b => match b.st with | .empty => 0 | .opened => 1 | .closing => 2 | .failed => 3
    some ((List.range 4).foldl (fun m b => m + at2 (2 * b) (code (nth c.banks b LBank.reset))) 0
      + at2 12 (arrPhase s n 0) + at2 16 (arrPhase s n 1)
      + (List.range 4).foldl (fun m i => m + at2 (20 + i) (b2n (nth (nth c.arrays (i / 2) Arr.reset).phys (i % 2) none).isSome)) 0
      + at2 32 c.matq.length + at2 40 (b2n ((regGet s (regAddr .mat n 0x008)).testBit 40)))
  else if off = 0x010 then some ((nth c.rings 0 Ring.reset).head % 2 ^ 32)
  else if off = 0x018 then some (ring 0)
  else if off = 0x020 then some ((nth c.rings 1 Ring.reset).head % 2 ^ 32)
  else if off = 0x028 then some (ring 1)
  else none

/-- VEC_STATUS (06 Table 6.12): the lanes work for the ck that the entry or delivery last run takes. -/
def vecStatus (s : State) (n : Nat) : Nat :=
  let c := coreOf s n
  at2 8 (b2n ((fusedNext s n).isSome || (c.lanes.left != 0 && c.lanes.fuse))) + at2 9 (b2n (c.lanes.sfu != 0))
    + at2 16 (if c.lanes.left = 0 then 0 else c.lanes.groups) + at2 10 (bindings c) + at2 20 (b2n ((regGet s (regAddr .vec n 0x008)).testBit 20)) + at2 32 c.vecq.length

/-- THR (07 Tables 7.9, 7.11). -/
def thrReg (s : State) (n off : Nat) : Option Nat :=
  let c := coreOf s n
  if off = 0x008 then
    let waiting := launchWaits s n
    some ((List.range 32).foldl (fun m i => m + b2n (nth c.slots i none).isSome * 2 ^ i) 0 + at2 32 (min 255 waiting)
      + at2 40 (field (regGet s (regAddr .thr n 0x008)) 40 2))
  else if off = 0x010 then
    let code : RecSt → Nat := fun r => match r with | .free => 0 | .parked => 1 | .suspended => 2 | .restoring => 3
    some ((List.range 32).foldl (fun m r => m + at2 (2 * r) (code (nth c.recs r Rec.reset).st)) 0)
  else none

/-- LSU_STATUS (08 Table 8.11). -/
def lsuStatus (s : State) (n : Nat) : Nat :=
  let c := coreOf s n
  (heldAccs c).length + 256 * (heldAccs c).foldl (fun m e => max m (heldOn c (capOf e.2))) 0

/-- MBXk_STATE (16 Table 16.2). -/
def mbxState (x : Mbx) : Nat := x.st + 256 * b2n x.overrun + 65536 * x.responses

/-- The value of register `off` of a block: what it reads, and the state after any free value was drawn. Write-only registers read 0. -/
def readReg (s : State) (b : RBlk) (u off : Nat) : Nat × State :=
  let kept := regGetD s (regAddr b u off) (match plainReg b u off with | some p => p.reset | none => 0)
  let v : Option Nat → Nat := fun o => o.getD kept
  if ownWrite b off && !(b == .syn && off == 0x108) && !(b == .pmc && off != 0x008) && !(b == .vec && off == 0) && !(b == .mat && off == 0x048) then (0, s)
  else
    match b with
    | .pwr => (v (pwrReg s off), s)
    | .sec => (v (secReg s off), s)
    | .dpt => (dptVal s (off / 8), s)
    | .err => (v (errReg s off), s)
    | .que => (if off = 0 then queStatus s else kept, s)
    | .ftm =>
      (if off = 0x008 then ftmStatus s else if off = 0x010 then unsigned 64 s.fab.ftm.offset else if off = 0x018 then unsigned 64 s.fab.ftm.delay else kept, s)
    | .rdx => (v (rdxReg s off), s)
    | .upd => (v (updReg s off), s)
    | .rgn => (v (rgnReg s off), s)
    | .trk => (trkReg s u off, s)
    | .syn => (v (synReg s u off), s)
    | .fab => (if off = 0x008 then fabStatus s u else kept, s)
    | .lnk => (v (lnkReg s u off), s)
    | .pmc => (if off = 0 then pmcStatus s u else kept, s)
    | .slc => (if off = 0x010 then slcStatus s u else kept, s)
    | .xfr => (if off = 0x000 then xfrStatus s u else kept, s)
    | .mat => (v (matReg s u off), s)
    | .vec => (if off = 0x008 then vecStatus s u else kept, s)
    | .thr => (v (thrReg s u off), s)
    | .lsu => (if off = 0x000 then lsuStatus s u else kept, s)
    | .num | .ctxlog => (kept, s)
    | .mbx => (mbxState (mbxOf s (off / 16)), s)
    | .hst => (if off = 0x00 then hstStatus s else kept, s)

/-- What a read does to the register (00 R5, RC): the fault log's counts and an entry's NAKs are cleared. -/
def readClears (s : State) (b : RBlk) (u off : Nat) : State :=
  match b with
  | .ctxlog => if off = 0x00 || off = 0x10 then regPut s (regAddr b u off) 0 else s
  | .rgn => if off % 32 = 0x18 then { s with regions := SMap.mod s.regions (off / 32) (fun (r : Region) => { r with naks := 0 }) } else s
  | _ => s

/-! ### REGISTER_READ -/

/-- Whether a reader may read a register: firmware all, the host and contexts what the owning chapters grant (log entry 64). -/
def mayRead (s : State) (q : Req) (b : RBlk) (u off : Nat) : Bool :=
  if q.thread then ctxReads s q.ctx b u off else !q.host || hostReads b off

/-- The requester's bit of PWR_RDSTAT (Table 18.7). -/
def rdBit (q : Req) : Nat := if q.thread then q.core else if q.host then 49 else 48

/-- The STALE bit after a read (R409); a read of PWR_RDSTAT itself leaves it. -/
def setStale (q : Req) (stale : Bool) (s : State) : State :=
  let s := if stale then bump0 s .pwr 0 0x248 else s
  { s with pwr := { s.pwr with rdstat := setField s.pwr.rdstat (rdBit q) 1 (b2n stale) } }

/-- The value a reader gets and what the read leaves. A wrong width or alignment is answered before the rights are looked at (R6; the spec does not order
the two checks: log entry 87). -/
def performRead (s : State) (q : Req) : Nat × State :=
  match regSplit q.addr with
  | none => (0, s)
  | some (b, u, off) =>
    if !touchesReg b off q.bytes then (0, s)
    else if regWidth b off != some q.bytes || q.addr % q.bytes != 0 then (2 ^ (8 * q.bytes) - 1, setStale q false s)
    else if !mayRead s q b u off then (0, refuse q false s)
    else if blkOff s b u then (0, setStale q true s)
    else if blkStopped s b u then
      let r := readReg s b u off
      (SMap.getD s.pwr.shadow (regAddr b u off) r.1, setStale q true r.2)
    else
      let r := readReg s b u off
      let s := readClears r.2 b u off
      (r.1, if b == .pwr && off == 0x0C0 then s else setStale q false s)

/-- REGISTER_READ (00 R5, R6; 08 R459; 18 R409; 20 R444): by the host through BAR0, by firmware, or the pending load of a thread. -/
def execRegisterRead (src : RegSrc) (addr : Nat) (bytes : Nat) (s : State) : Out :=
    match reqOf s src false addr bytes 0 with
    | none => .next s
    | some q =>
      if bar0Base ≤ q.addr && !q.host then .next (reqDone src 0 s)
      else if decide (0xFE0000000000 ≤ q.addr) && decide (q.addr < 0xFE0000800000) then
        let r := doorLoad s q
        .next (reqDone src r.1 (keep src r.1 r.2))
      else
        let r := performRead s q
        .next (reqDone src (r.1 % 2 ^ (8 * q.bytes)) (keep src (r.1 % 2 ^ (8 * q.bytes)) r.2))
where
  /-- What the host or firmware has read last. -/
  keep (src : RegSrc) (v : Nat) (s : State) : State :=
    match src with
    | .host => { s with fw := { s.fw with rdHost := v } }
    | .firmware => { s with fw := { s.fw with rdFw := v } }
    | .access _ _ => s
  /-- A load of a doorbell (16 R374): as one aligned 8-byte word PROD and CONS to a permitted reader, 0 to any other; who may read is
  who may store or owns the queue (log entry 65). All ones for any other width or alignment. -/
  doorLoad (s : State) (q : Req) : Nat × State :=
    let qid := (q.addr - 0xFE0000000000) / 8
    if q.bytes != 8 || q.addr % 8 != 0 then (2 ^ (8 * q.bytes) - 1, s)
    else
      match descOf s qid with
      | none => (0, s)
      | some d =>
        let may := !q.thread && !q.host || doorMay d q 0 || doorMay d q 1 || (q.thread && d.owner == q.ctx)
        if may then (d.prod.toNat + at2 32 d.cons.toNat, touchDesc s qid) else (0, s)

/-! ### REGISTER_WRITE -/

/-- REGISTER_WRITE (00 R5-R7, 20 R444): a write to a register without a command of its own; LNK_CFG with EN clear disables its port (11 R271). -/
def execRegisterWrite (w : RegWr) (s : State) : Out :=
    match reqOf s w.src true w.addr w.bytes w.value.toNat, regWrite w s with
    | some q, .next t =>
      match regSplit q.addr with
      | some (.lnk, p, 0) => if (lnkCfg s p).testBit 0 && !(lnkCfg t p).testBit 0 then .next (portDisable t p) else .next t
      | _ => .next t
    | _, r => r

/-! ### Trackers (03 R57, R58) -/

/-- TRK_CTRL: by the owner and firmware (R61); CLEAR_HIST acts before ADVANCE. -/
def trkCtrl (w : RegWr) (s : State) : Out :=
  ctlWrite w .trk (fun off => off % 32 == 0x18) (fun s q u off => !q.host && (!q.thread || trackerOwner s (1024 * u + off / 32) == q.ctx)) (fun u off v s =>
    let i := 1024 * u + off / 32
    match SMap.get? s.trackers i with
    | none => s
    | some t =>
      if !t.enabled then s
      else
        let t := if v.testBit 1 then trackerClearHist t else t
        let t := if v.testBit 0 then trackerAdvance t else t
        { s with trackers := SMap.put s.trackers i t }) s

/-- TRK_ADVANCE (R58). -/
def execTrkAdvance (w : RegWr) (s : State) : Out := trkCtrl w s
/-- TRK_CLEAR_HIST (R57). -/
def execTrkClearHist (w : RegWr) (s : State) : Out := trkCtrl w s

/-! ### Slices (08 R180, R183, R200) -/

/-- Every RED line of a slice begins its eviction (R180). -/
def flushReds (s : State) (h : Nat) : State :=
  ((sliceAt s h).filter (fun (x : SLine) => x.kind == .red && !x.evicting)).foldl (fun s x =>
    startFill (mapLines s h (isHome x.line) (fun y => { y with evicting := true })) x.line .redEvict) s

/-- SLC_CTRL. -/
def slcCtrl (w : RegWr) (s : State) : Out :=
  ctlWrite w .slc (fun off => off == 0x018) fwOnly (fun h _ v s =>
    let s := clearIf v 0 .slc (offs 0x080 0x100) h s
    let s := if v.testBit 1 then flushReds s h else s
    if v.testBit 2 then setWeevil s h [] else s) s

/-- SLC_CLR_COUNTS (R200). -/
def execSlcClrCounts (w : RegWr) (s : State) : Out := slcCtrl w s
/-- SLC_FLUSH_RED (R180). -/
def execSlcFlushRed (w : RegWr) (s : State) : Out := slcCtrl w s
/-- SLC_CLR_WEEVIL (R200). -/
def execSlcClrWeevil (w : RegWr) (s : State) : Out := slcCtrl w s

/-! ### Counters cleared -/

/-- SEC_CLR_COUNTS (17 R397). -/
def execSecClrCounts (w : RegWr) (s : State) : Out :=
  ctlWrite w .sec (fun off => off == 0x010) fwOnly (fun u _ v s => clearIf v 0 .sec (offs 0x018 0x028) u s) s

/-- PWR_CLR_COUNTS (18 R418). -/
def execPwrClrCounts (w : RegWr) (s : State) : Out :=
  ctlWrite w .pwr (fun off => off == 0x030) fwOnly (fun u _ v s => clearIf v 0 .pwr (offs 0x200 0x250 ++ [0x318]) u s) s

/-- HST_CLR_COUNTS (19 R436). -/
def execHstClrCounts (w : RegWr) (s : State) : Out :=
  ctlWrite w .hst (fun off => off == 0x18) fwHost (fun u _ v s => clearIf v 0 .hst [0x20, 0x28] u s) s

/-! ### Performance counters (20 R445-R448) -/

/-- A snapshot of a die's counters (R448). -/
def pmcSnap (s : State) (d : Nat) : State :=
  let s := (List.range 16).foldl (fun s n => regPut s (regAddr .pmc d (0x300 + 8 * n)) (regGet s (regAddr .pmc d (0x200 + 8 * n)))) s
  let s := regPut s (regAddr .pmc d 0x018) s.ftime
  regPut (regPut s (regAddr .pmc d 0x010) 0) (regAddr .pmc d 0) (2 ^ 17)

/-- PMC_CTRL: written together, SNAP_NOW copies before CLR_COUNTS clears (log entry 66). -/
def pmcCtrl (w : RegWr) (s : State) : Out :=
  ctlWrite w .pmc (fun off => off == 0x008) fwHost (fun d _ v s =>
    let s := if v.testBit 1 then pmcSnap s d else s
    clearIf v 0 .pmc (offs 0x200 0x278) d s) s

/-- PMC_CLR_COUNTS (R445). -/
def execPmcClrCounts (w : RegWr) (s : State) : Out := pmcCtrl w s
/-- PMC_SNAP_NOW (R448). -/
def execPmcSnapNow (w : RegWr) (s : State) : Out := pmcCtrl w s

/-- PMC_SNAP_TIME_WRITE (R448): a time already past takes the snapshot at once. -/
def execPmcSnapTimeWrite (w : RegWr) (s : State) : Out :=
  ctlWrite w .pmc (fun off => off == 0x010) fwHost (fun d _ v s =>
    let t := v / 4 * 4
    let s := regPut s (regAddr .pmc d 0x010) t
    if t != 0 && t ≤ s.ftime then pmcSnap s d else s) s

/-- PMC_SNAPSHOT (R448): fabric time reaches PMC_SNAP_TIME. -/
def execPmcSnapshot (die : Fin 4) (s : State) : Out :=
  let t := regGet s (regAddr .pmc die.val 0x010)
  if t != 0 && t ≤ s.ftime then .next (pmcSnap s die.val) else .next s

/-- The instances of an event's source on a die (20 Table 20.3, R443): 12 cores, 16 slices, 4 clusters, 4 ports; a die event has 0 only. -/
def pmcInstOk (event inst : Nat) : Bool :=
  match event / 256 with
  | 0 => inst == 0
  | 1 => decide (inst < 12) || inst == 0xFF
  | 2 => decide (inst < 16) || inst == 0xFF
  | _ => decide (inst < 4) || inst == 0xFF

/-- PMC_SEL_WRITE (R445): an EVENT that Table 20.4 does not list, or an INSTANCE that its source does not have (00 R7), discards the write. -/
def execPmcSelWrite (w : RegWr) (s : State) : Out :=
  ctlWrite w .pmc (fun off => rng 0x100 0x178 off) fwHost (fun d off v s =>
    if pmcListed (v % 4096) && pmcInstOk (v % 4096) (field v 32 8) then regPut s (regAddr .pmc d off) (v &&& 0xC0FF00FF00000FFF) else s) s

/-! ### DDR5 initialisation (19 R439) -/

/-- DDR_INIT_LINE: a channel's watermark passes one line; at the top of every channel DDR_INIT ends. Lines read zero before and after. -/
def execDdrInitLine (ch : Fin 8) (s : State) : Out :=
  let top := ddrPerDie s / 256
  let m := SMap.getD s.pkg.ddrMark ch.val 0
  if !s.pkg.ddrInit || top ≤ m then .next s
  else
    let marks := SMap.put s.pkg.ddrMark ch.val (m + 1)
    .next { s with pkg := { s.pkg with ddrMark := marks, ddrInit := !(List.range 8).all (fun c => decide (top ≤ SMap.getD marks c 0)) } }

end Sys2Proof.Machine
end

