-- ==== Sys2Proof/Machine/Clock.lean ====
section
/-! DEFINITION. What passes in one UCLK cycle when no command waits (log entry 1): time, clocks, the counters that count time in a condition, due MSI-X
messages, forwarded error records, the slew of fabric time. -/

namespace Sys2Proof.Machine

/-- A counter advanced by `d`, where `d` is not 0. -/
def tickC (s : State) (b : RBlk) (u off d : Nat) (ctx : Option Nat) : State := if d = 0 then s else bumpC s b u off d ctx

/-! ### Clocks -/

/-- CCLK cycles of a cluster that end within this nanosecond. -/
def ckStep (c : Cluster) : Nat := (c.ckPhase + c.khz) / 1000000 - c.ckPhase / 1000000

/-- A cluster's clock moves on: sCLK stands while the cluster sleeps (18 R404); timeouts go on at the last CCLK (10 R231). It is seen idle or not (18 R401). -/
def clusterTick (s : State) (k : Nat) : State :=
  let idle := clusterIdle s k
  modCluster s k (fun c =>
    let runs := c.st == .run || c.st == .entering
    { c with ckPhase := if runs then c.ckPhase + c.khz else c.ckPhase
             toPhase := c.toPhase + c.khz
             idleSince := if c.st == .run && c.wake.isNone && idle then (match c.idleSince with | some t => some t | none => some s.now) else none })

/-- Fabric time: 4 ns per FTCLK cycle (11 R265), and its slew of at most 100 ppm (11 R267): 4 ns every 40 µs, in a cycle of the counter, so that it never
decreases. In HOLDOVER it goes on at its last rate correction (R270). -/
def fabricTick (s : State) : State :=
  let f := s.fab.ftm
  let cycle := (s.now + 1) % 4 == 0
  let acc := f.slewAcc + 1
  let racc := f.rateAcc + f.rate
  let part : Bool → Bool → Int := fun up down => if cycle && up then 4 else if cycle && down then -4 else 0
  let due := decide (40000 ≤ acc)
  let d := part (due && decide (4 ≤ f.slew)) (due && decide (f.slew ≤ -4))
  let h := part (decide (4000000 ≤ racc)) (decide (racc ≤ -4000000))
  let base : Int := (s.ftime : Int) + (if cycle then 4 else 0)
  if f.holdover.isSome then
    { s with ftime := (base + h).toNat, fab := { s.fab with ftm := { f with rateAcc := racc - 1000000 * h } } }
  else
    { s with ftime := (base + d).toNat
             fab := { s.fab with ftm := { f with slew := f.slew - d, slewAcc := if due && cycle then 0 else acc } } }

/-- The frames of the ports that drive their lanes (11 R250). -/
def portsTick (s : State) : State :=
  if s.fab.ports.any framing then (List.range 16).foldl framesTick s else s

/-! ### Counters of time -/

/-- A pending load of a group. -/
def loadPends (c : Core) (age : Nat) : Bool := c.accs.any (fun e => e.2.age == age && !(accWrites e.2).isEmpty)

/-- Whether a subset of a group could issue, its loads waiting or, with `bare`, all returned. Where the kernel is not in the cache, a subset is
taken to need what any load of the group writes (log entry 7). -/
def subCould (s : State) (n : Nat) (g : Group) (bare : Bool) (m : BitVec 32) : Bool :=
  let c := if bare then { coreOf s n with accs := [] } else coreOf s n
  match codeOf s g m with
  | some e => subReady c g e.2 (lpkNeed e.1 e.2) (opRoom e.1) m
  | none => bare || !loadPends c g.age

/-- Whether a group could issue, its loads waiting or all returned (07 Issue, R164). -/
def groupCould (s : State) (n : Nat) (bare : Bool) (g : Group) : Bool :=
  groupIdle g && !barrierDone g && (subsetOrder g).any (subCould s n g bare)

/-- Whether the arrays wait for the lanes (06 R135): an MSWEEP waits for a CLOSING bank, or a native sweep for a physical bank, while a fused delivery
waits for the lanes or they are busy with one, or with an entry of the group whose delivery has closed a bank. -/
def boundByLanes (s : State) (n : Nat) (fused : Bool) : Bool :=
  let c := coreOf s n
  let closing : Nat → Bool := fun b => (nth c.banks b LBank.reset).st == .closing
  let head := match c.matq.head?.map (·.op) with
    | some (.sweep _ _ _ _ pair _ bank _ _) => c.stage.todo.isEmpty && (closing bank || (pair && closing (bank + 2)))
    | _ => false
  let stall := match c.stage.todo.head? with | some v => sweepStall s n v == some 0x068 | none => false
  (head || stall) && (fused || (c.lanes.left != 0 && (c.lanes.fuse
    || c.banks.any (fun b => match b.drain with | some d => d.age == c.lanes.age | none => false))))

/-- A core's counters over `d` ck: THR_IDLE_CK, THR_LOADWAIT_CK, LSU and MAT stalls, VEC_QWAIT_CK and VEC_EW_BOUND_CK. -/
def coreTick (s : State) (n d : Nat) : State :=
  let c := coreOf s n
  let gs := c.slots.filterMap id
  let wait := gs.find? (fun g => !groupCould s n false g && groupCould s n true g)
  let ready := gs.any (groupCould s n false)
  let s := if ready then s else tickC s .thr n 0x030 d none
  let s := match wait with | some g => tickC s .thr n 0x070 d (some g.ctx) | none => s
  let capped := c.accs.find? (fun e => e.2.st == .waiting && decide (32 ≤ heldOn c (capOf e.2)))
  let s := match capped with | some e => tickC s .lsu n 0x020 d (some e.2.ctx) | none => s
  let s := if 128 ≤ (heldAccs c).length then tickC s .lsu n 0x028 d none else s
  let closing : Nat → Bool := fun b => (nth c.banks b LBank.reset).st == .closing
  let s := match c.matq.head? with
    | some e =>
      match e.op with
      | .sweep _ _ _ _ pair _ bank _ _ =>
        if c.stage.todo.isEmpty && (closing bank || (pair && closing (bank + 2))) then tickC s .mat n 0x070 d (some e.ctx) else s
      | _ => s
    | none => s
  let s := match c.stage.todo.head? with
    | some v => if c.stage.left != 0 then s else (match sweepStall s n v with | some off => tickC s .mat n off d (some v.ctx) | none => s)
    | none => s
  let s := if c.stage.left = 0 then s else modCore s n (fun c => { c with stage := { c.stage with left := c.stage.left - d } })
  let fused := fusedWaits s n
  let s := match c.vecq.head? with
    | some e =>
      let s := if fused then tickC s .vec n 0x050 d (some e.ctx) else s
      if entryOp e == LOp.tsfu && c.lanes.rmax != 0 then tickC s .vec n 0x060 (min d c.lanes.rmax) (some e.ctx) else s
    | none => s
  let s := if boundByLanes s n fused then tickC s .vec n 0x048 d none else s
  if c.lanes.left = 0 && c.lanes.sfu = 0 then s
  else modCore s n (fun c => { c with lanes := { c.lanes with
    left := c.lanes.left - d, sfu := c.lanes.sfu - d, rmax := c.lanes.rmax - d } })

/-- The counters of every running core. -/
def coresTick (s : State) : State :=
  (List.range 48).foldl (fun t n =>
    let c := clusterAt s (clusterOf n)
    if c.st == .run || c.st == .entering then coreTick t n (ckStep c) else t) s

/-- CCLK cycles of cluster `k` that end within this nanosecond; none while its clock stands (00 R4). -/
def ckNow (s : State) (k : Nat) : Nat :=
  let c := clusterAt s k
  if c.st == .run || c.st == .entering then ckStep c else 0

/-- The ck in which accesses wait for a PENDING block of a checkpoint (15 R348), each access in the clock of its core's cluster; writes and signals of
sequencers behind such a block wait in one line, in the clock of the first cluster that is not DISABLED (log entry 88). -/
def ckptWaitCk (s : State) : Nat :=
  (if s.heldSeq.any (fun h => match h with | .write _ a bs => (linesOf a bs.length).any (fun l => ckptHeld s (128 * l)) | .signal _ _ _ => false)
    then ckNow s (servesV s 0) else 0)
  + (List.range 48).foldl (fun m n =>
      m + ckNow s (clusterOf n) * ((coreOf s n).accs.filter (fun e => e.2.op.writes && e.2.st == .held && ckptHeld s (128 * e.2.line))).length) 0

/-- The ck in which a PENDING block holds the next tile of a virtual sequencer (14 R334), in the clock of the cluster that serves it. -/
def tileWaitCk (s : State) : Nat :=
  s.runs.foldl (fun m (e : Nat × URun) =>
    (List.range 16).foldl (fun m v => match nextTile e.2 v with
      | some (false, j, t) => (match e.2.segs[j]? with | some g => if tileHeld s e.2 g t then m + ckNow s (servesV s v) else m | none => m)
      | _ => m) m) 0

/-- The counters of the module: of nanoseconds, and of the ck in which a checkpoint holds back writes. -/
def moduleTick (s : State) : State :=
  let s := if s.que.held.isEmpty then s else tickC s .que 0 0x040 1 none
  let s := tickC s .err 0 0x148 (ckptWaitCk s) none
  let s := tickC s .upd 0 0x080 (tileWaitCk s) none
  let s := (List.range 4).foldl (fun s d =>
    if s.fab.waiting.any (fun (o : OutTxn) => o.t.dst.toNat % 4 == d && decide (4096 ≤ (connOf s o.t.dst.toNat).unack.length))
    then tickC s .fab d 0x078 1 none else s) s
  let s := (List.range 16).foldl (fun s p =>
    let x := portOf s p
    if portLive s p && (List.range 4).any (fun v => !(txOf x v).isEmpty && nth x.credits v 0 == 0) then tickC s .lnk p 0x078 1 none else s) s
  let s := if s.pwr.throttle then tickC s .pwr 0 0x220 1 none else s
  let s := if s.pwr.thermal.any id then tickC s .pwr 0 0x228 1 none else s
  let held := (s.mem.fills.filter (fun (f : Nat × Fill) => f.2.waiting && cicHeld s f.2.line)).length
  let s := tickC s .pwr 0 0x250 held none
  (List.range 4).foldl (fun s d => (List.range 16).foldl (fun s i =>
    let v := regGet s (regAddr .pmc d (0x100 + 8 * i))
    let a := regAddr .pmc d (0x200 + 8 * i)
    if v.testBit 63 && !v.testBit 62 && v % 4096 == 1 then regPut s a ((regGet s a + 1) % 2 ^ 64) else s) s) s

/-- MSI-X messages that were held back to the end of their microsecond (16 R375). -/
def irqTick (s : State) : State :=
  s.que.descs.foldl (fun t (e : Nat × QDesc) =>
    if e.2.irqDue && (match e.2.lastIrq with | some l => decide (l + 1000 ≤ s.now) | none => true) then queueIrq t e.1 else t) s

/-- The DMA and gather engines of the running clusters (08 R190). -/
def enginesTick (s : State) : State :=
  if s.jobs.isEmpty then s else (List.range 16).foldl (fun s k => engineTick k (ckNow s k) s) s

/-- One idle cycle of UCLK. -/
def idleTick (s : State) : State :=
  let s := enginesTick ((List.range 16).foldl clusterTick (coresTick (moduleTick s)))
  let s := fabricTick (portsTick s)
  let s := { s with now := s.now + 1, cic := { s.cic with aonNs := if s.pwr.aonGone then s.cic.aonNs else s.cic.aonNs + 1 } }
  irqTick (raiseLimits (forwardErrs s))

end Sys2Proof.Machine
end

