-- ==== Sys2Proof/Machine/Float.lean ====
section
/-! DEFINITION. The scalar FP class (07 Table 7.3, R149). -/

namespace Sys2Proof.Machine

/-- FP flags raised by instructions of a group: ORed into sFPF and VEC_STICKY (R149). -/
def raiseFp (s : State) (n i fl : Nat) : State :=
  if fl = 0 then s
  else
    let s := modGroup s n i (fun g => { g with fpf := g.fpf ||| fl })
    let a := regAddr .vec n 0x010
    regPut s a (regGet s a ||| fl)

/-- The OR of the flags over the active threads. -/
def orFlags (x : Iss) (f : Nat → Nat) : Nat := (tids x.act).foldl (fun a t => a ||| f t) 0

/-- A scalar FP instruction that writes D from A, B and D, and raises flags. -/
def fpOp (o : LOp) (f : W32 → W32 → W32 → FRes) (u : Issue) (w : Lpk) (s : State) : Out :=
  scalarOp o u w (fun x s1 =>
    let r : Nat → FRes := fun t => f (gReg x.g t w.a.toNat) (gReg x.g t w.b.toNat) (gReg x.g t w.d.toNat)
    perThread (fun _ t h => h.setReg w.d.toNat (r t).v) x (raiseFp s1 x.n x.i (orFlags x (fun t => (r t).fl)))) s

/-- FADD: rne_fp32(A + B). -/
def execFadd (u : Issue) (w : Lpk) (s : State) : Out := fpOp .fadd (fun a b _ => fadd a b) u w s
/-- FSUB: rne_fp32(A - B). -/
def execFsub (u : Issue) (w : Lpk) (s : State) : Out := fpOp .fsub (fun a b _ => fsub a b) u w s
/-- FMUL: rne_fp32(A * B). -/
def execFmul (u : Issue) (w : Lpk) (s : State) : Out := fpOp .fmul (fun a b _ => fmul a b) u w s
/-- FFMA: rne_fp32(A * B + D), one rounding. -/
def execFfma (u : Issue) (w : Lpk) (s : State) : Out := fpOp .ffma (fun a b d => ffma a b d) u w s
/-- FMIN: as TMIN. -/
def execFmin (u : Issue) (w : Lpk) (s : State) : Out := fpOp .fmin (fun a b _ => ⟨fmin a b, 0⟩) u w s
/-- FMAX: as TMAX. -/
def execFmax (u : Issue) (w : Lpk) (s : State) : Out := fpOp .fmax (fun a b _ => ⟨fmax a b, 0⟩) u w s
/-- FABS: A with the sign bit clear. -/
def execFabs (u : Issue) (w : Lpk) (s : State) : Out := fpOp .fabs (fun a _ _ => ⟨a &&& 0x7FFFFFFF, 0⟩) u w s
/-- FNEG: A with the sign bit inverted. -/
def execFneg (u : Issue) (w : Lpk) (s : State) : Out := fpOp .fneg (fun a _ _ => ⟨a ^^^ 0x80000000, 0⟩) u w s

/-- The conversions of FCVT (Table 7.3): 0 to 3 as TCVT, 4 BF16 to FP32, 5 FP32 to BF16. -/
def fcvt (kind : Nat) (a : W32) : FRes :=
  match kind with
  | 4 => ⟨bf16ToFp32 (BitVec.ofNat 16 a.toNat), 0⟩
  | 5 => let r := fp32ToBf16 a; ⟨BitVec.ofNat 32 r.1.toNat, r.2⟩
  | k => fconvert k a

/-- FCVT: D receives convert(A). -/
def execFcvt (u : Issue) (w : Lpk) (s : State) : Out := fpOp .fcvt (fun a _ _ => fcvt (modF w 0 4) a) u w s

/-- The condition codes of SETP as those of TCMP (06 Table 6.1). -/
def setpToTcmp (code : Nat) : Nat :=
  match code with
  | 0 => 2
  | 1 => 3
  | 2 => 0
  | 3 => 1
  | 4 => 5
  | _ => 4

/-- FSETP: predicate D[2:0] receives the comparison, NaN as TCMP. -/
def execFsetp (u : Issue) (w : Lpk) (s : State) : Out :=
  scalarOp .fsetp u w (fun x s1 =>
    let r : Nat → Bool × Nat := fun t =>
      fcond (setpToTcmp (modF w 25 3)) (gReg x.g t w.a.toNat) (gReg x.g t w.b.toNat)
    perThread (fun _ t h => h.setPred (w.d.toNat % 8) (r t).1) x
      (raiseFp s1 x.n x.i (orFlags x (fun t => (r t).2)))) s

end Sys2Proof.Machine
end

