-- ==== Sys2Proof/Machine/Integer.lean ====
section
/-! DEFINITION. The integer class (07 R147, Table 7.2) and the special registers (R141, Table 7.1). -/

namespace Sys2Proof.Machine

/-- The second operand of the integer class: an immediate where MOD[29] is set (R147). -/
def intB (g : Group) (t : Nat) (w : Lpk) : W32 :=
  if modF w 29 1 = 1 then BitVec.ofNat 32 (unsigned 32 (signed 20 (modF w 0 20))) else gReg g t w.b.toNat

/-- Signed division that never traps (R147). -/
def divS (a b : W32) : W32 := if b = 0 then 0xFFFFFFFF else BitVec.sdiv a b
/-- Unsigned division that never traps. -/
def divU (a b : W32) : W32 := if b = 0 then 0xFFFFFFFF else a / b
/-- Signed remainder A - B*DIVS(A, B). -/
def remS (a b : W32) : W32 := if b = 0 then a else a - b * BitVec.sdiv a b
/-- Unsigned remainder. -/
def remU (a b : W32) : W32 := if b = 0 then a else a % b
/-- The high half of the signed product. -/
def mulHS (a b : W32) : W32 := BitVec.ofNat 32 (unsigned 64 (a.toInt * b.toInt) >>> 32)
/-- The high half of the unsigned product. -/
def mulHU (a b : W32) : W32 := BitVec.ofNat 32 ((a.toNat * b.toNat) >>> 32)
/-- Leading zeros. -/
def clz32 (a : W32) : W32 := if a = 0 then 32 else BitVec.ofNat 32 (31 - a.toNat.log2)
/-- Set bits. -/
def popc32 (a : W32) : W32 := BitVec.ofNat 32 (((List.range 32).filter (fun i => a.getLsbD i)).length)
/-- The conditions of SETP (Table 7.2). -/
def intCond (code : Nat) (uns : Bool) (a b : W32) : Bool :=
  let lt := if uns then a.ult b else a.slt b
  match code with
  | 0 => a == b
  | 1 => a != b
  | 2 => lt
  | 3 => lt || a == b
  | 4 => !(lt || a == b)
  | _ => !lt

/-- An integer instruction that writes D from A and the second operand. -/
def intOp (o : LOp) (f : W32 → W32 → W32) (u : Issue) (w : Lpk) (s : State) : Out :=
  scalarOp o u w (perThread (fun g t h => h.setReg w.d.toNat (f (gReg g t w.a.toNat) (intB g t w)))) s

/-- ADD (Table 7.2): A + B modulo 2^32. -/
def execAdd (u : Issue) (w : Lpk) (s : State) : Out := intOp .add (fun a b => a + b) u w s
/-- SUB (Table 7.2): A - B. -/
def execSub (u : Issue) (w : Lpk) (s : State) : Out := intOp .sub (fun a b => a - b) u w s
/-- MUL (Table 7.2): the low half of the product. -/
def execMul (u : Issue) (w : Lpk) (s : State) : Out := intOp .mul (fun a b => a * b) u w s
/-- MULHS (Table 7.2): the high half of the signed product. -/
def execMulhs (u : Issue) (w : Lpk) (s : State) : Out := intOp .mulhs mulHS u w s
/-- MULHU (Table 7.2): the high half of the unsigned product. -/
def execMulhu (u : Issue) (w : Lpk) (s : State) : Out := intOp .mulhu mulHU u w s
/-- DIVS (Table 7.2): signed division, truncated. -/
def execDivs (u : Issue) (w : Lpk) (s : State) : Out := intOp .divs divS u w s
/-- DIVU (Table 7.2): unsigned division. -/
def execDivu (u : Issue) (w : Lpk) (s : State) : Out := intOp .divu divU u w s
/-- REMS (Table 7.2): signed remainder. -/
def execRems (u : Issue) (w : Lpk) (s : State) : Out := intOp .rems remS u w s
/-- REMU (Table 7.2): unsigned remainder. -/
def execRemu (u : Issue) (w : Lpk) (s : State) : Out := intOp .remu remU u w s
/-- AND (Table 7.2): bitwise and. -/
def execAnd (u : Issue) (w : Lpk) (s : State) : Out := intOp .and_ (fun a b => a &&& b) u w s
/-- OR (Table 7.2): bitwise or. -/
def execOr (u : Issue) (w : Lpk) (s : State) : Out := intOp .or_ (fun a b => a ||| b) u w s
/-- XOR (Table 7.2): bitwise exclusive or. -/
def execXor (u : Issue) (w : Lpk) (s : State) : Out := intOp .xor_ (fun a b => a ^^^ b) u w s
/-- SHL (Table 7.2): left shift by B mod 32. -/
def execShl (u : Issue) (w : Lpk) (s : State) : Out := intOp .shl (fun a b => a <<< (b.toNat % 32)) u w s
/-- SHR (Table 7.2): logical right shift by B mod 32. -/
def execShr (u : Issue) (w : Lpk) (s : State) : Out := intOp .shr (fun a b => a >>> (b.toNat % 32)) u w s
/-- SAR (Table 7.2): arithmetic right shift by B mod 32. -/
def execSar (u : Issue) (w : Lpk) (s : State) : Out := intOp .sar (fun a b => a.sshiftRight (b.toNat % 32)) u w s
/-- MINS (Table 7.2): signed minimum. -/
def execMins (u : Issue) (w : Lpk) (s : State) : Out := intOp .mins (fun a b => if a.slt b then a else b) u w s
/-- MAXS (Table 7.2): signed maximum. -/
def execMaxs (u : Issue) (w : Lpk) (s : State) : Out := intOp .maxs (fun a b => if a.slt b then b else a) u w s
/-- MINU (Table 7.2): unsigned minimum. -/
def execMinu (u : Issue) (w : Lpk) (s : State) : Out := intOp .minu (fun a b => if a.ult b then a else b) u w s
/-- MAXU (Table 7.2): unsigned maximum. -/
def execMaxu (u : Issue) (w : Lpk) (s : State) : Out := intOp .maxu (fun a b => if a.ult b then b else a) u w s
/-- CLZ (Table 7.2): leading zeros of A. -/
def execClz (u : Issue) (w : Lpk) (s : State) : Out := intOp .clz (fun a _ => clz32 a) u w s
/-- POPC (Table 7.2): set bits of A. -/
def execPopc (u : Issue) (w : Lpk) (s : State) : Out := intOp .popc (fun a _ => popc32 a) u w s

/-- SETP (Table 7.2): predicate D[2:0] receives the comparison. -/
def execSetp (u : Issue) (w : Lpk) (s : State) : Out :=
  scalarOp .setp u w (perThread (fun g t h =>
    h.setPred (w.d.toNat % 8) (intCond (modF w 25 3) (modF w 24 1 == 1) (gReg g t w.a.toNat) (intB g t w)))) s
/-- SEL (Table 7.2): D receives A where predicate MOD[22:20] is 1, else the second operand. -/
def execSel (u : Issue) (w : Lpk) (s : State) : Out :=
  scalarOp .sel u w (perThread (fun g t h =>
    h.setReg w.d.toNat (if gPred g t (modF w 20 3) then gReg g t w.a.toNat else intB g t w))) s
/-- MOVI (Table 7.2): D receives the sign-extended MOD[19:0]. -/
def execMovi (u : Issue) (w : Lpk) (s : State) : Out :=
  scalarOp .movi u w (perThread (fun _ _ h =>
    h.setReg w.d.toNat (BitVec.ofNat 32 (unsigned 32 (signed 20 (modF w 0 20)))))) s
/-- MOVHI (Table 7.2): the upper halfword of D receives MOD[15:0]. -/
def execMovhi (u : Issue) (w : Lpk) (s : State) : Out :=
  scalarOp .movhi u w (perThread (fun g t h =>
    h.setReg w.d.toNat (BitVec.ofNat 32 (modF w 0 16 * 65536 + (gReg g t w.d.toNat).toNat % 65536)))) s

/-! ### Special registers -/

/-- The value of special register `r` for thread `t` of the issuing group (Table 7.1). -/
def specialValue (s : State) (x : Iss) (g : Group) (t r : Nat) : Nat :=
  match r with
  | 0x00 => t
  | 0x01 => g.sgid
  | 0x02 => g.gcount
  | 0x03 => x.n
  | 0x04 => g.ctx
  | 0x05 => x.i
  | 0x06 => (thr g t).tok.toNat
  | 0x07 => g.arg
  | 0x08 => 0xFF0000002000
  | 0x09 => g.numf
  | 0x0A => g.fpl
  | 0x0B => g.fpf
  | 0x0C => ckOf s x.n
  | 0x0D => s.ftime
  | 0x0E => (liveMask g).toNat
  | 0x0F => x.sub.toNat
  | 0x10 => g.age
  | _ => g.spadBase

/-- SRD (R141): a pair where the register is 64 bits wide. -/
def execSrd (u : Issue) (w : Lpk) (s : State) : Out :=
  scalarOp .srd u w (fun x s1 =>
    let r := modF w 0 6
    perThread (fun g t h =>
      let v := specialValue s1 x g t r
      let h := h.setReg w.d.toNat (BitVec.ofNat 32 v)
      if special64 r then h.setReg (w.d.toNat + 1) (BitVec.ofNat 32 (v >>> 32)) else h) x s1) s

/-- The OR of register `r` over the active threads (R141). -/
def orRegs (x : Iss) (r : Nat) : W32 := (tids x.act).foldl (fun a t => a ||| gReg x.g t r) 0

/-- The bits of `v` that are 1 in `m` cleared. -/
def clearBits (v : Nat) (m : W32) : Nat := (BitVec.ofNat 32 v &&& ~~~m).toNat

/-- SWR (R141): sTOK per thread (06 R104: 22 bits), the W1C registers sNUMF and sFPF cleared by the OR of the written
values; any other is read-only and parks with THR_SPECIAL. -/
def execSwr (u : Issue) (w : Lpk) (s : State) : Out :=
  scalarOp .swr u w (fun x s1 =>
    let a := w.a.toNat
    match modF w 0 6 with
    | 0x06 => perThread (fun g t h => { h with tok := BitVec.ofNat 32 ((gReg g t a).toNat % 2 ^ 22) }) x s1
    | 0x09 => issueEnd x Flow.next (modGroup s1 x.n x.i (fun g => { g with numf := clearBits g.numf (orRegs x a) }))
    | 0x0B => issueEnd x Flow.next (modGroup s1 x.n x.i (fun g => { g with fpf := clearBits g.fpf (orRegs x a) }))
    | _ => if x.act = 0 then issueEnd x Flow.next s1 else issueFault x 0x0C 0 0 x.act false s1) s

end Sys2Proof.Machine
end

