-- ==== Sys2Proof/Machine/Dispatch.lean ====
section
/-! DEFINITION. One arm per command: the meaning it calls, or a rejection by name. -/

namespace Sys2Proof.Machine

open Sys2Proof

/-- A command's effect on everything but the queue. -/
def exec (i : Instr) (s : State) : Host.Outcome State Fault Refusal :=
  match i with
  | .registerWrite w => Sys2Proof.Machine.execRegisterWrite w s
  | .dptUpdate entries => Sys2Proof.Machine.execDptUpdate entries s
  | .add u w => Sys2Proof.Machine.execAdd u w s
  | .sub u w => Sys2Proof.Machine.execSub u w s
  | .mul u w => Sys2Proof.Machine.execMul u w s
  | .mulhs u w => Sys2Proof.Machine.execMulhs u w s
  | .mulhu u w => Sys2Proof.Machine.execMulhu u w s
  | .divs u w => Sys2Proof.Machine.execDivs u w s
  | .divu u w => Sys2Proof.Machine.execDivu u w s
  | .rems u w => Sys2Proof.Machine.execRems u w s
  | .remu u w => Sys2Proof.Machine.execRemu u w s
  | .and u w => Sys2Proof.Machine.execAnd u w s
  | .or u w => Sys2Proof.Machine.execOr u w s
  | .xor u w => Sys2Proof.Machine.execXor u w s
  | .shl u w => Sys2Proof.Machine.execShl u w s
  | .shr u w => Sys2Proof.Machine.execShr u w s
  | .sar u w => Sys2Proof.Machine.execSar u w s
  | .mins u w => Sys2Proof.Machine.execMins u w s
  | .maxs u w => Sys2Proof.Machine.execMaxs u w s
  | .minu u w => Sys2Proof.Machine.execMinu u w s
  | .maxu u w => Sys2Proof.Machine.execMaxu u w s
  | .clz u w => Sys2Proof.Machine.execClz u w s
  | .popc u w => Sys2Proof.Machine.execPopc u w s
  | .setp u w => Sys2Proof.Machine.execSetp u w s
  | .sel u w => Sys2Proof.Machine.execSel u w s
  | .movi u w => Sys2Proof.Machine.execMovi u w s
  | .movhi u w => Sys2Proof.Machine.execMovhi u w s
  | .srd u w => Sys2Proof.Machine.execSrd u w s
  | .swr u w => Sys2Proof.Machine.execSwr u w s
  | .fadd u w => Sys2Proof.Machine.execFadd u w s
  | .fsub u w => Sys2Proof.Machine.execFsub u w s
  | .fmul u w => Sys2Proof.Machine.execFmul u w s
  | .ffma u w => Sys2Proof.Machine.execFfma u w s
  | .fmin u w => Sys2Proof.Machine.execFmin u w s
  | .fmax u w => Sys2Proof.Machine.execFmax u w s
  | .fsetp u w => Sys2Proof.Machine.execFsetp u w s
  | .fcvt u w => Sys2Proof.Machine.execFcvt u w s
  | .fabs u w => Sys2Proof.Machine.execFabs u w s
  | .fneg u w => Sys2Proof.Machine.execFneg u w s
  | .ldb u w => Sys2Proof.Machine.execLdb u w s
  | .ldbu u w => Sys2Proof.Machine.execLdbu u w s
  | .ldh u w => Sys2Proof.Machine.execLdh u w s
  | .ldhu u w => Sys2Proof.Machine.execLdhu u w s
  | .ldw u w => Sys2Proof.Machine.execLdw u w s
  | .ldd u w => Sys2Proof.Machine.execLdd u w s
  | .stb u w => Sys2Proof.Machine.execStb u w s
  | .sth u w => Sys2Proof.Machine.execSth u w s
  | .stw u w => Sys2Proof.Machine.execStw u w s
  | .std u w => Sys2Proof.Machine.execStd u w s
  | .pref u w => Sys2Proof.Machine.execPref u w s
  | .fence u w => Sys2Proof.Machine.execFence u w s
  | .farinv u w => Sys2Proof.Machine.execFarinv u w s
  | .bra u w => Sys2Proof.Machine.execBra u w s
  | .call u w => Sys2Proof.Machine.execCall u w s
  | .ret u w => Sys2Proof.Machine.execRet u w s
  | .exit u w => Sys2Proof.Machine.execExit u w s
  | .gbar u w => Sys2Proof.Machine.execGbar u w s
  | .yield u w => Sys2Proof.Machine.execYield u w s
  | .trap u w => Sys2Proof.Machine.execTrap u w s
  | .nop u w => Sys2Proof.Machine.execNop u w s
  | .presume u w => Sys2Proof.Machine.execPresume u w s
  | .aadd u w => Sys2Proof.Machine.execAadd u w s
  | .amins u w => Sys2Proof.Machine.execAmins u w s
  | .amaxs u w => Sys2Proof.Machine.execAmaxs u w s
  | .aminu u w => Sys2Proof.Machine.execAminu u w s
  | .amaxu u w => Sys2Proof.Machine.execAmaxu u w s
  | .aand u w => Sys2Proof.Machine.execAand u w s
  | .aor u w => Sys2Proof.Machine.execAor u w s
  | .axor u w => Sys2Proof.Machine.execAxor u w s
  | .afadd u w => Sys2Proof.Machine.execAfadd u w s
  | .aexch u w => Sys2Proof.Machine.execAexch u w s
  | .acas u w => Sys2Proof.Machine.execAcas u w s
  | .signal u w => Sys2Proof.Machine.execSignal u w s
  | .wait u w => Sys2Proof.Machine.execWait u w s
  | .watch u w => Sys2Proof.Machine.execWatch u w s
  | .sread u w => Sys2Proof.Machine.execSread u w s
  | .sarm u w => Sys2Proof.Machine.execSarm u w s
  | .wcancel u w => Sys2Proof.Machine.execWcancel u w s
  | .ffarrive u w => Sys2Proof.Machine.execFfarrive u w s
  | .ffwait u w => Sys2Proof.Machine.execFfwait u w s
  | .tld u w => Sys2Proof.Machine.execTld u w s
  | .tst u w => Sys2Proof.Machine.execTst u w s
  | .tgather u w => Sys2Proof.Machine.execTgather u w s
  | .tmov u w => Sys2Proof.Machine.execTmov u w s
  | .tadd u w => Sys2Proof.Machine.execTadd u w s
  | .tmul u w => Sys2Proof.Machine.execTmul u w s
  | .tfma u w => Sys2Proof.Machine.execTfma u w s
  | .tmin u w => Sys2Proof.Machine.execTmin u w s
  | .tmax u w => Sys2Proof.Machine.execTmax u w s
  | .tcmp u w => Sys2Proof.Machine.execTcmp u w s
  | .tsel u w => Sys2Proof.Machine.execTsel u w s
  | .tcvt u w => Sys2Proof.Machine.execTcvt u w s
  | .tsfu u w => Sys2Proof.Machine.execTsfu u w s
  | .tred u w => Sys2Proof.Machine.execTred u w s
  | .tbcast u w => Sys2Proof.Machine.execTbcast u w s
  | .text u w => Sys2Proof.Machine.execText u w s
  | .mld u w => Sys2Proof.Machine.execMld u w s
  | .mst u w => Sys2Proof.Machine.execMst u w s
  | .ocload u w => Sys2Proof.Machine.execOcload u w s
  | .ocstore u w => Sys2Proof.Machine.execOcstore u w s
  | .tfence u w => Sys2Proof.Machine.execTfence u w s
  | .chrun u w => Sys2Proof.Machine.execChrun u w s
  | .chbind u w => Sys2Proof.Machine.execChbind u w s
  | .chunbind u w => Sys2Proof.Machine.execChunbind u w s
  | .msweep u w => Sys2Proof.Machine.execMsweep u w s
  | .mzero u w => Sys2Proof.Machine.execMzero u w s
  | .mwload u w => Sys2Proof.Machine.execMwload u w s
  | .mdrain u w => Sys2Proof.Machine.execMdrain u w s
  | .mcheck u w => Sys2Proof.Machine.execMcheck u w s
  | .mwreset u w => Sys2Proof.Machine.execMwreset u w s
  | .dma u w => Sys2Proof.Machine.execDma u w s
  | .gather u w => Sys2Proof.Machine.execGather u w s
  | .dmafence u w => Sys2Proof.Machine.execDmafence u w s
  | .fsignal u w => Sys2Proof.Machine.execFsignal u w s
  | .fmsg u w => Sys2Proof.Machine.execFmsg u w s
  | .fqfence u w => Sys2Proof.Machine.execFqfence u w s
  | .fstatus u w => Sys2Proof.Machine.execFstatus u w s
  | .qput u w => Sys2Proof.Machine.execQput u w s
  | .qget u w => Sys2Proof.Machine.execQget u w s
  | .qstat u w => Sys2Proof.Machine.execQstat u w s
  | .loadReturn n id ecc => Sys2Proof.Machine.execLoadReturn n id ecc s
  | .requestSlotGrant n id => Sys2Proof.Machine.execRequestSlotGrant n id s
  | .fenceComplete u id => Sys2Proof.Machine.execFenceComplete u id s
  | .farinvComplete u id => Sys2Proof.Machine.execFarinvComplete u id s
  | .tfenceComplete u => Sys2Proof.Machine.execTfenceComplete u s
  | .dmafenceComplete u => Sys2Proof.Machine.execDmafenceComplete u s
  | .fqfenceComplete u => Sys2Proof.Machine.execFqfenceComplete u s
  | .gbarComplete u => Sys2Proof.Machine.execGbarComplete u s
  | .gbarWatchdogExpiry u => Sys2Proof.Machine.execGbarWatchdogExpiry u s
  | .reconvRelease u pc => Sys2Proof.Machine.execReconvRelease u pc s
  | .park u => Sys2Proof.Machine.execPark u s
  | .suspend u => Sys2Proof.Machine.execSuspend u s
  | .suspendedRestore n rec => Sys2Proof.Machine.execSuspendedRestore n rec s
  | .parkctlReplay w => Sys2Proof.Machine.execParkctlReplay w s
  | .parkctlAbort w => Sys2Proof.Machine.execParkctlAbort w s
  | .matqHead n => Sys2Proof.Machine.execMatqHead n s
  | .sweepStart n upsets => Sys2Proof.Machine.execSweepStart n upsets s
  | .fillRowLand n a => Sys2Proof.Machine.execFillRowLand n a s
  | .drainRead n a => Sys2Proof.Machine.execDrainRead n a s
  | .drainDelivery n a => Sys2Proof.Machine.execDrainDelivery n a s
  | .fusedDelivery n a chk => Sys2Proof.Machine.execFusedDelivery n a chk s
  | .matInjectArm w => Sys2Proof.Machine.execMatInjectArm w s
  | .wbufWindowAccess n id => Sys2Proof.Machine.execWbufWindowAccess n id s
  | .vecqExecute n chk => Sys2Proof.Machine.execVecqExecute n chk s
  | .vecFenceWrite w => Sys2Proof.Machine.execVecFenceWrite w s
  | .sliceAccess n id => Sys2Proof.Machine.execSliceAccess n id s
  | .sliceFill id => Sys2Proof.Machine.execSliceFill id s
  | .farLineFill n id => Sys2Proof.Machine.execFarLineFill n id s
  | .redEviction line => Sys2Proof.Machine.execRedEviction line s
  | .channelAccess id symErrs => Sys2Proof.Machine.execChannelAccess id symErrs s
  | .edramRefresh ch bank => Sys2Proof.Machine.execEdramRefresh ch bank s
  | .scrubStep mem inst found => Sys2Proof.Machine.execScrubStep mem inst found s
  | .dmaqDispatch n => Sys2Proof.Machine.execDmaqDispatch n s
  | .descriptorComplete e id => Sys2Proof.Machine.execDescriptorComplete e id s
  | .descriptorFault e id ecc => Sys2Proof.Machine.execDescriptorFault e id ecc s
  | .ddrInitLine ch => Sys2Proof.Machine.execDdrInitLine ch s
  | .syncArbitration obj => Sys2Proof.Machine.execSyncArbitration obj s
  | .waitTimeout n at_ => Sys2Proof.Machine.execWaitTimeout n at_ s
  | .watchMsgDeliver seg qid => Sys2Proof.Machine.execWatchMsgDeliver seg qid s
  | .fireflyRelease l => Sys2Proof.Machine.execFireflyRelease l s
  | .fflyPinEdge pin high => Sys2Proof.Machine.execFflyPinEdge pin high s
  | .tsyncEdge => Sys2Proof.Machine.execTsyncEdge s
  | .ffPinWrite w => Sys2Proof.Machine.execFfPinWrite w s
  | .dataFlitReceive p raw => Sys2Proof.Machine.execDataFlitReceive p raw s
  | .retryReqReceive p raw => Sys2Proof.Machine.execRetryReqReceive p raw s
  | .heartbeatReceive p raw => Sys2Proof.Machine.execHeartbeatReceive p raw s
  | .paramReceive p raw => Sys2Proof.Machine.execParamReceive p raw s
  | .degradeReceive p raw => Sys2Proof.Machine.execDegradeReceive p raw s
  | .idleReceive p raw => Sys2Proof.Machine.execIdleReceive p raw s
  | .alignmentFrameReceive p fr => Sys2Proof.Machine.execAlignmentFrameReceive p fr s
  | .retryReqRepeat p => Sys2Proof.Machine.execRetryReqRepeat p s
  | .linkSilenceTimeout p => Sys2Proof.Machine.execLinkSilenceTimeout p s
  | .laneLockLoss p lane => Sys2Proof.Machine.execLaneLockLoss p lane s
  | .laneErrorLimit p lane errors => Sys2Proof.Machine.execLaneErrorLimit p lane errors s
  | .degradeRetrainDone p => Sys2Proof.Machine.execDegradeRetrainDone p s
  | .portDownTimeout p => Sys2Proof.Machine.execPortDownTimeout p s
  | .portBringupStart => Sys2Proof.Machine.execPortBringupStart s
  | .signalDetect p => Sys2Proof.Machine.execSignalDetect p s
  | .trainComplete p found => Sys2Proof.Machine.execTrainComplete p found s
  | .alignComplete p => Sys2Proof.Machine.execAlignComplete p s
  | .bringupTimeout p => Sys2Proof.Machine.execBringupTimeout p s
  | .paramResend p => Sys2Proof.Machine.execParamResend p s
  | .heartbeatSend p => Sys2Proof.Machine.execHeartbeatSend p s
  | .holdoverLimit => Sys2Proof.Machine.execHoldoverLimit s
  | .numberSend k => Sys2Proof.Machine.execNumberSend k s
  | .fabricReadReceive die t => Sys2Proof.Machine.execFabricReadReceive die t s
  | .fabricWriteReceive die t => Sys2Proof.Machine.execFabricWriteReceive die t s
  | .fabricAccumReceive die t => Sys2Proof.Machine.execFabricAccumReceive die t s
  | .fabricAtomicReceive die t => Sys2Proof.Machine.execFabricAtomicReceive die t s
  | .fabricSignalReceive die t => Sys2Proof.Machine.execFabricSignalReceive die t s
  | .fabricMsgReceive die t => Sys2Proof.Machine.execFabricMsgReceive die t s
  | .fabricMgmtReceive die t => Sys2Proof.Machine.execFabricMgmtReceive die t s
  | .transitForward die m => Sys2Proof.Machine.execTransitForward die m s
  | .flagRelease src seq => Sys2Proof.Machine.execFlagRelease src seq s
  | .ackSend src => Sys2Proof.Machine.execAckSend src s
  | .fabricAckReceive r => Sys2Proof.Machine.execFabricAckReceive r s
  | .readRspReceive r => Sys2Proof.Machine.execReadRspReceive r s
  | .atomicRspReceive r => Sys2Proof.Machine.execAtomicRspReceive r s
  | .nakReceive r => Sys2Proof.Machine.execNakReceive r s
  | .rtoExpiry peer seq => Sys2Proof.Machine.execRtoExpiry peer seq s
  | .transactionTimeout peer seq => Sys2Proof.Machine.execTransactionTimeout peer seq s
  | .atomicRspExpire peer seq => Sys2Proof.Machine.execAtomicRspExpire peer seq s
  | .rdxArm w => Sys2Proof.Machine.execRdxArm w s
  | .bucketStartMet b => Sys2Proof.Machine.execBucketStartMet b s
  | .bucketDecision b => Sys2Proof.Machine.execBucketDecision b s
  | .readyRecord b side => Sys2Proof.Machine.execReadyRecord b side s
  | .chunkPullLand b side => Sys2Proof.Machine.execChunkPullLand b side s
  | .downRecord b => Sys2Proof.Machine.execDownRecord b s
  | .bucketDeliver b => Sys2Proof.Machine.execBucketDeliver b s
  | .comet b => Sys2Proof.Machine.execComet b s
  | .bucketNoResult b => Sys2Proof.Machine.execBucketNoResult b s
  | .updArm w => Sys2Proof.Machine.execUpdArm w s
  | .segmentStart r j => Sys2Proof.Machine.execSegmentStart r j s
  | .updateTile r v => Sys2Proof.Machine.execUpdateTile r v s
  | .normReadyRecord r side => Sys2Proof.Machine.execNormReadyRecord r side s
  | .normDownRecord r => Sys2Proof.Machine.execNormDownRecord r s
  | .segmentDone r j => Sys2Proof.Machine.execSegmentDone r j s
  | .updateRunFail r cause => Sys2Proof.Machine.execUpdateRunFail r cause s
  | .errorRecord rec => Sys2Proof.Machine.execErrorRecord rec s
  | .coalesceWindowClose lsn => Sys2Proof.Machine.execCoalesceWindowClose lsn s
  | .ckpMark w => Sys2Proof.Machine.execCkpMark w s
  | .ckptBlockCopy ctx block => Sys2Proof.Machine.execCkptBlockCopy ctx block s
  | .ckptGenerationDone ctx => Sys2Proof.Machine.execCkptGenerationDone ctx s
  | .copyRebuild ctx segAddr => Sys2Proof.Machine.execCopyRebuild ctx segAddr s
  | .moduleHeartbeatSend => Sys2Proof.Machine.execModuleHeartbeatSend s
  | .moduleHeartbeatMiss peer => Sys2Proof.Machine.execModuleHeartbeatMiss peer s
  | .recoveryOpen job lost faultId => Sys2Proof.Machine.execRecoveryOpen job lost faultId s
  | .mbxGo k req => Sys2Proof.Machine.execMbxGo k req s
  | .sessionOpen m => Sys2Proof.Machine.execSessionOpen m s
  | .sessionAuth m => Sys2Proof.Machine.execSessionAuth m s
  | .sessionClose m => Sys2Proof.Machine.execSessionClose m s
  | .sessionAuthTimeout m => Sys2Proof.Machine.execSessionAuthTimeout m s
  | .keyLockExpire keyId => Sys2Proof.Machine.execKeyLockExpire keyId s
  | .ctxCreate m => Sys2Proof.Machine.execCtxCreate m s
  | .ctxDestroy m => Sys2Proof.Machine.execCtxDestroy m s
  | .ctxPreempt m => Sys2Proof.Machine.execCtxPreempt m s
  | .ctxResume m => Sys2Proof.Machine.execCtxResume m s
  | .preemptEffect ctx => Sys2Proof.Machine.execPreemptEffect ctx s
  | .preemptWithdraw ctx => Sys2Proof.Machine.execPreemptWithdraw ctx s
  | .regionMap m => Sys2Proof.Machine.execRegionMap m s
  | .regionUnmap m => Sys2Proof.Machine.execRegionUnmap m s
  | .regionEpoch m => Sys2Proof.Machine.execRegionEpoch m s
  | .queueCreate m => Sys2Proof.Machine.execQueueCreate m s
  | .queueDestroy m => Sys2Proof.Machine.execQueueDestroy m s
  | .kernelLoad m image => Sys2Proof.Machine.execKernelLoad m image s
  | .syncMapCreate m => Sys2Proof.Machine.execSyncMapCreate m s
  | .syncMapShare m => Sys2Proof.Machine.execSyncMapShare m s
  | .syncMapUnmap m => Sys2Proof.Machine.execSyncMapUnmap m s
  | .fireflyGrant m => Sys2Proof.Machine.execFireflyGrant m s
  | .fireflyRevoke m => Sys2Proof.Machine.execFireflyRevoke m s
  | .routeSet m => Sys2Proof.Machine.execRouteSet m s
  | .lpmSet m => Sys2Proof.Machine.execLpmSet m s
  | .fabricIdSet m => Sys2Proof.Machine.execFabricIdSet m s
  | .fabricIdClear m => Sys2Proof.Machine.execFabricIdClear m s
  | .updateTableSet m image => Sys2Proof.Machine.execUpdateTableSet m image s
  | .trackerAlloc m => Sys2Proof.Machine.execTrackerAlloc m s
  | .trackerFree m => Sys2Proof.Machine.execTrackerFree m s
  | .ckptConfig m => Sys2Proof.Machine.execCkptConfig m s
  | .sparePolicy m => Sys2Proof.Machine.execSparePolicy m s
  | .dptRead m => Sys2Proof.Machine.execDptRead m s
  | .telemetryRead m => Sys2Proof.Machine.execTelemetryRead m s
  | .errlogRead m => Sys2Proof.Machine.execErrlogRead m s
  | .powerLimitSet m => Sys2Proof.Machine.execPowerLimitSet m s
  | .selftestReport m => Sys2Proof.Machine.execSelftestReport m s
  | .selftestRun m => Sys2Proof.Machine.execSelftestRun m s
  | .fwUpdate m image => Sys2Proof.Machine.execFwUpdate m image s
  | .lifecycleAdvance m => Sys2Proof.Machine.execLifecycleAdvance m s
  | .transitionComplete => Sys2Proof.Machine.execTransitionComplete s
  | .keyLoad rec => Sys2Proof.Machine.execKeyLoad rec s
  | .smbBlockWrite m off frag => Sys2Proof.Machine.execSmbBlockWrite m off frag s
  | .smbBlockRead m => Sys2Proof.Machine.execSmbBlockRead m s
  | .smbStateRead m => Sys2Proof.Machine.execSmbStateRead m s
  | .smbGo m => Sys2Proof.Machine.execSmbGo m s
  | .smbStatusRead => Sys2Proof.Machine.execSmbStatusRead s
  | .doorbell w => Sys2Proof.Machine.execDoorbell w s
  | .launchEntryTake qid => Sys2Proof.Machine.execLaunchEntryTake qid s
  | .launchWatchRetry qid => Sys2Proof.Machine.execLaunchWatchRetry qid s
  | .launchPlace id n => Sys2Proof.Machine.execLaunchPlace id n s
  | .launchComplete id => Sys2Proof.Machine.execLaunchComplete id s
  | .dmaQueueTake qid => Sys2Proof.Machine.execDmaQueueTake qid s
  | .heldEventPost qid => Sys2Proof.Machine.execHeldEventPost qid s
  | .trngHealthFail => Sys2Proof.Machine.execTrngHealthFail s
  | .dormantEntry k => Sys2Proof.Machine.execDormantEntry k s
  | .dormantWake k why => Sys2Proof.Machine.execDormantWake k why s
  | .staggerSlot k => Sys2Proof.Machine.execStaggerSlot k s
  | .wakeFirstIssue k => Sys2Proof.Machine.execWakeFirstIssue k s
  | .selfRefreshEntry ch => Sys2Proof.Machine.execSelfRefreshEntry ch s
  | .timerSlotCompare k => Sys2Proof.Machine.execTimerSlotCompare k s
  | .pollTick => Sys2Proof.Machine.execPollTick s
  | .powerSample mW => Sys2Proof.Machine.execPowerSample mW s
  | .cclkStep k up => Sys2Proof.Machine.execCclkStep k up s
  | .thermalCheck die cTemp mTemp => Sys2Proof.Machine.execThermalCheck die cTemp mTemp s
  | .heldWrite w => Sys2Proof.Machine.execHeldWrite w s
  | .cicadaTestDone dom res => Sys2Proof.Machine.execCicadaTestDone dom res s
  | .cicadaSegmentTest die seg step => Sys2Proof.Machine.execCicadaSegmentTest die seg step s
  | .railFault rail => Sys2Proof.Machine.execRailFault rail s
  | .coldReset => Sys2Proof.Machine.execColdReset s
  | .pwrgoodRise straps => Sys2Proof.Machine.execPwrgoodRise straps s
  | .pwrgoodFall => Sys2Proof.Machine.execPwrgoodFall s
  | .hostReset => Sys2Proof.Machine.execHostReset s
  | .bootReady => Sys2Proof.Machine.execBootReady s
  | .bar2Access acc => Sys2Proof.Machine.execBar2Access acc s
  | .trkAdvance w => Sys2Proof.Machine.execTrkAdvance w s
  | .trkClearHist w => Sys2Proof.Machine.execTrkClearHist w s
  | .numClrCounts w => Sys2Proof.Machine.execNumClrCounts w s
  | .matClrCounts w => Sys2Proof.Machine.execMatClrCounts w s
  | .matClrCheck w => Sys2Proof.Machine.execMatClrCheck w s
  | .vecClrCounts w => Sys2Proof.Machine.execVecClrCounts w s
  | .vecClrCheck w => Sys2Proof.Machine.execVecClrCheck w s
  | .thrClrCounts w => Sys2Proof.Machine.execThrClrCounts w s
  | .slcClrCounts w => Sys2Proof.Machine.execSlcClrCounts w s
  | .slcFlushRed w => Sys2Proof.Machine.execSlcFlushRed w s
  | .slcClrWeevil w => Sys2Proof.Machine.execSlcClrWeevil w s
  | .lsuClrCounts w => Sys2Proof.Machine.execLsuClrCounts w s
  | .xfrClrCounts w => Sys2Proof.Machine.execXfrClrCounts w s
  | .synClrCounts w => Sys2Proof.Machine.execSynClrCounts w s
  | .synXltInval w => Sys2Proof.Machine.execSynXltInval w s
  | .lnkClrCounts w => Sys2Proof.Machine.execLnkClrCounts w s
  | .lnkRetrain w => Sys2Proof.Machine.execLnkRetrain w s
  | .lnkDisable w => Sys2Proof.Machine.execLnkDisable w s
  | .fabClrCounts w => Sys2Proof.Machine.execFabClrCounts w s
  | .rdxClrCounts w => Sys2Proof.Machine.execRdxClrCounts w s
  | .updClrCounts w => Sys2Proof.Machine.execUpdClrCounts w s
  | .errClrCounts w => Sys2Proof.Machine.execErrClrCounts w s
  | .errClrOverflow w => Sys2Proof.Machine.execErrClrOverflow w s
  | .ckpClrCounts w => Sys2Proof.Machine.execCkpClrCounts w s
  | .queClrCounts w => Sys2Proof.Machine.execQueClrCounts w s
  | .queFlush w => Sys2Proof.Machine.execQueFlush w s
  | .secClrCounts w => Sys2Proof.Machine.execSecClrCounts w s
  | .pwrClrCounts w => Sys2Proof.Machine.execPwrClrCounts w s
  | .hstClrCounts w => Sys2Proof.Machine.execHstClrCounts w s
  | .pmcClrCounts w => Sys2Proof.Machine.execPmcClrCounts w s
  | .pmcSnapNow w => Sys2Proof.Machine.execPmcSnapNow w s
  | .pmcSnapTimeWrite w => Sys2Proof.Machine.execPmcSnapTimeWrite w s
  | .pmcSnapshot die => Sys2Proof.Machine.execPmcSnapshot die s
  | .pmcSelWrite w => Sys2Proof.Machine.execPmcSelWrite w s
  | .registerRead src addr bytes => Sys2Proof.Machine.execRegisterRead src addr bytes s
  | .fireflyHoldEnd l => Sys2Proof.Machine.execFireflyHoldEnd l s
  | .railExcursionStart rail => Sys2Proof.Machine.execRailExcursionStart rail s
  | .railGlitch rail => Sys2Proof.Machine.execRailGlitch rail s
  | .avsStatusFault d => Sys2Proof.Machine.execAvsStatusFault d s
  | .refclkLoss => Sys2Proof.Machine.execRefclkLoss s
  | .refclkReturn => Sys2Proof.Machine.execRefclkReturn s
  | .perstDeassert => Sys2Proof.Machine.execPerstDeassert s
  | .vddAonLoss => Sys2Proof.Machine.execVddAonLoss s

end Sys2Proof.Machine
end

