-- ==== Sys2Proof/Safety.lean ====
section
/-! DEFINITION. The terms the statements use: a step that answers a next state, a command that completes, the issue of an
instruction and what it leaves alone. -/

namespace Sys2Proof.Machine

/-- A step that answers a next state. -/
def stepsOn (s : State) : Prop := ∃ t, step s = .next t

/-- A command answers a next state of which `P` holds. -/
def completes (c : Instr) (s : State) (P : State → Prop) : Prop := ∃ t, exec c s = .next t ∧ P t

/-- The word `w` of opcode `o` is one the finalizer accepts, no residue error meets it, and the group in the slot that `u` names issues
it: `x` is the issue (its subset, active threads, PC and group), `s1` the state at its start (07 R142-R144, R150, R453). -/
def issuing (o : LOp) (u : Issue) (w : Lpk) (room : Core → Bool) (s : State) (x : Iss) (s1 : State) : Prop :=
  lpkValid o w = true ∧ u.chk = .clean ∧ issueBegin s u o w room = some (x, s1)

/-- The stored registers an issue on core `n` may count in: THR_ISSUED, THR_SWITCHES, THR_STARVED and the performance counters of the
core's die. -/
def issueReg (n a : Nat) : Prop :=
  a = regAddr .thr n 0x028 ∨ a = regAddr .thr n 0x038 ∨ a = regAddr .thr n 0x040
  ∨ ∃ i, i < 16 ∧ a = blkAddr .pmc (dieOf n) 0 + 0x200 + 8 * i

/-- From `s` to `t` nothing changes but the group in slot `i` of core `n` and stored registers that `may` names: no other group, no other
part of any core, no memory byte, no queue, no accumulator, no other register. -/
def groupOnly (n i : Nat) (may : Nat → Prop) (s t : State) : Prop :=
  { t with cores := s.cores, regs := s.regs } = s
  ∧ (∀ m, { coreOf t m with slots := (coreOf s m).slots } = coreOf s m)
  ∧ (∀ m j, ¬(m = n ∧ j = i) → groupOf t m j = groupOf s m j)
  ∧ (∀ a, ¬ may a → regGet t a = regGet s a)

/-- A thread after an instruction that falls through and changes its active threads by `f`: a thread of the subset goes on at the next
instruction. -/
def stepThread (x : Iss) (f : Nat → Thread → Thread) (k : Nat) (h : Thread) : Thread :=
  let h := if x.act.getLsbD k then f k h else h
  if x.sub.getLsbD k then { h with pc := x.pc + x.len } else h

/-- The group of an issue in `t` is `g0` but for its threads and for what the choice of subsets moves. -/
def groupNow (x : Iss) (g0 : Group) (t : State) (P : Group → Prop) : Prop :=
  ∃ g, groupOf t x.n x.i = some g
    ∧ g = { g0 with threads := g.threads, splits := g.splits, cur := g.cur, curIssues := g.curIssues } ∧ P g

/-- A command issues opcode `o`, and then each active thread is changed by `F`, each thread of the subset goes on at the next instruction,
and nothing else changes but the registers that count issues. -/
def threadResult (c : Issue → Lpk → Instr) (o : LOp) (F : Lpk → Iss → Nat → Thread → Thread) : Prop :=
  ∀ (u : Issue) (w : Lpk) (s : State) (x : Iss) (s1 : State), issuing o u w anyRoom s x s1 →
    completes (c u w) s (fun t =>
      groupNow x x.g t (fun g => ∀ k, k < x.g.threads.length → thr g k = stepThread x (F w x) k (thr x.g k))
      ∧ groupOnly x.n x.i (issueReg x.n) s t)

/-- The second operand of the integer class (07 R147): the sign-extension of MOD[19:0] where MOD[29] is set, else register B. -/
def operandB (g : Group) (k : Nat) (w : Lpk) : W32 :=
  if w.mod.getLsbD 29 then (w.mod.setWidth 20).signExtend 32 else gReg g k w.b.toNat

/-- An integer opcode writes D of each active thread with `f` of A and the second operand. -/
def integerResult (c : Issue → Lpk → Instr) (o : LOp) (f : W32 → W32 → W32) : Prop :=
  threadResult c o (fun w x k h => h.setReg w.d.toNat (f (gReg x.g k w.a.toNat) (operandB x.g k w)))

/-- The conditions of SETP (07 Table 7.2). -/
def setpHolds (code : Nat) (uns : Bool) (a b : W32) : Bool :=
  match code with
  | 0 => a == b
  | 1 => a != b
  | 2 => if uns then a.ult b else a.slt b
  | 3 => if uns then a.ule b else a.sle b
  | 4 => if uns then b.ult a else b.slt a
  | _ => if uns then b.ule a else b.sle a

/-- VEC_STICKY of a core. -/
def vecSticky (n : Nat) : Nat := regAddr .vec n 0x010

/-- A scalar FP opcode writes D of each active thread with `f` of A, B and D, and ORs the flags of all active threads into sFPF and
VEC_STICKY; sFPL and everything else stay (07 R149). -/
def fpResult (c : Issue → Lpk → Instr) (o : LOp) (f : Lpk → W32 → W32 → W32 → FRes) : Prop :=
  ∀ (u : Issue) (w : Lpk) (s : State) (x : Iss) (s1 : State), issuing o u w anyRoom s x s1 →
    let r : Nat → FRes := fun k => f w (gReg x.g k w.a.toNat) (gReg x.g k w.b.toNat) (gReg x.g k w.d.toNat)
    let flags := orFlags x (fun k => (r k).fl)
    completes (c u w) s (fun t =>
      groupNow x { x.g with fpf := x.g.fpf ||| flags } t (fun g =>
        ∀ k, k < x.g.threads.length → thr g k = stepThread x (fun k h => h.setReg w.d.toNat (r k).v) k (thr x.g k))
      ∧ regGet t (vecSticky x.n) = (regGet s (vecSticky x.n) ||| flags)
      ∧ groupOnly x.n x.i (fun a => issueReg x.n a ∨ a = vecSticky x.n) s t)

/-- A thread after an instruction whose active threads jump. -/
def jumpThread (x : Iss) (dest : Nat → Nat) (k : Nat) (h : Thread) : Thread :=
  if x.sub.getLsbD k then { h with pc := if x.act.getLsbD k then dest k else x.pc + x.len } else h

/-- A precise fault found at issue (07 R158): the group's PCs, registers and everything else stay, and a park is asked of it. -/
def faultsAt (x : Iss) (cause info addr : Nat) (mask : BitVec 32) (contained : Bool) (s t : State) : Prop :=
  let p : ParkReq :=
    { cause := cause, precise := true, contained := contained, pc := x.pc, info := info, addr := addr, mask := mask,
      subset := x.sub, removed := 0 }
  groupOf t x.n x.i = some { x.g with park := some p } ∧ groupOnly x.n x.i (issueReg x.n) s t

/-! ### Memory instructions -/

/-- A thread's memory instruction meets the scratchpad at once: thread `k` is the only active one, its target is a scratchpad the launch
may use and whose cluster is awake, the core has no other access, no FARINV of the group stands, and the checkpoint engine does not
hold the line (07 R148, 08 R172, R184). -/
def spadAlone (s1 : State) (x : Iss) (k a n : Nat) (p : Perm) (atomic : Bool) : Prop :=
  x.act = maskOf [k] ∧ k < 32 ∧ (∃ c, target s1 x.g a n p atomic = .loc (.spad c)) ∧ (coreOf s1 x.n).accs = []
  ∧ slotOfAge (coreOf s1 x.n) x.g.age = some x.i ∧ x.g.farinvs = []
  ∧ sleeps s1 (128 * (a / 128)) = false ∧ ckptHeld s1 (128 * (a / 128)) = false

/-- A load instruction of `n` bytes: the access it makes is performed with the bytes the scratchpad holds, and no memory byte changes. -/
def loadResult (c : Issue → Lpk → Instr) (o : LOp) (n : Nat) (sgn : Bool) : Prop :=
  ∀ (u : Issue) (w : Lpk) (s : State) (x : Iss) (s1 : State) (k : Nat), issuing o u w anyRoom s x s1 →
    let a := ldstAddr x.g k w
    spadAlone s1 x k a n .read false →
    completes (c u w) s (fun t =>
      (∃ e l, SMap.get? (coreOf t x.n).accs (coreOf s1 x.n).nextAcc = some e ∧ e.st = .done ∧ e.op = .ld n sgn ∧ e.d = w.d.toNat
        ∧ e.age = x.g.age ∧ e.ord = x.ord ∧ e.bad = 0 ∧ e.lanes = [l] ∧ l.tid = k ∧ l.old = BitVec.ofNat 64 (memNat s a n))
      ∧ (∀ b, memByte t b = memByte s b)
      ∧ groupNow x x.g t (fun g => ∀ j, j < x.g.threads.length → thr g j = stepThread x (fun _ h => h) j (thr x.g j)))

/-- A store instruction of `n` bytes without FLAG: the scratchpad holds the low bytes of B, every other byte stays, and no thread
register changes. -/
def storeResult (c : Issue → Lpk → Instr) (o : LOp) (n : Nat) : Prop :=
  ∀ (u : Issue) (w : Lpk) (s : State) (x : Iss) (s1 : State) (k : Nat), issuing o u w anyRoom s x s1 →
    let a := ldstAddr x.g k w
    let v := if n = 8 then gPair x.g k w.b.toNat else (gReg x.g k w.b.toNat).toNat
    spadAlone s1 x k a n .write false → w.mod.getLsbD 18 = false →
    completes (c u w) s (fun t =>
      (∀ i, i < n → memByte t (a + i) = BitVec.ofNat 8 (v / 256 ^ i))
      ∧ (∀ b, (b < a ∨ a + n ≤ b) → memByte t b = memByte s b)
      ∧ groupNow x x.g t (fun g => ∀ j, j < x.g.threads.length → thr g j = stepThread x (fun _ h => h) j (thr x.g j)))

/-- An atomic instruction: the scratchpad word becomes `f` of its old value, B and D; the access carries the old value back, unless MOD[16]
says that none is wanted; every other byte stays. -/
def atomicResult (c : Issue → Lpk → Instr) (o : LOp) (op : AtOp) (f : W32 → W32 → W32 → W32) : Prop :=
  ∀ (u : Issue) (w : Lpk) (s : State) (x : Iss) (s1 : State) (k : Nat), issuing o u w anyRoom s x s1 →
    let a := ldstAddr x.g k w
    let old := BitVec.ofNat 32 (memNat s a 4)
    let new := f old (gReg x.g k w.b.toNat) (gReg x.g k w.d.toNat)
    spadAlone s1 x k a 4 .accum true →
    completes (c u w) s (fun t =>
      (∀ i, i < 4 → memByte t (a + i) = BitVec.ofNat 8 (new.toNat / 256 ^ i))
      ∧ (∀ b, (b < a ∨ a + 4 ≤ b) → memByte t b = memByte s b)
      ∧ (w.mod.getLsbD 16 = false → ∃ e l, SMap.get? (coreOf t x.n).accs (coreOf s1 x.n).nextAcc = some e ∧ e.st = .done
          ∧ e.op = .at op false ∧ e.d = w.d.toNat ∧ e.age = x.g.age ∧ e.bad = 0 ∧ e.lanes = [l] ∧ l.tid = k
          ∧ l.old = BitVec.ofNat 64 old.toNat)
      ∧ groupNow x x.g t (fun g => ∀ j, j < x.g.threads.length → thr g j = stepThread x (fun _ h => h) j (thr x.g j)))

/-- The memory bytes an instruction of `n` bytes per thread may touch. -/
def laneByte (x : Iss) (w : Lpk) (n b : Nat) : Prop :=
  ∃ k, x.act.getLsbD k = true ∧ ldstAddr x.g k w % 2 ^ 48 ≤ b ∧ b < ldstAddr x.g k w % 2 ^ 48 + n

/-- The load, store and atomic instructions with their opcodes and sizes (07 Tables 7.4, 7.6). -/
def memoryInstrs : List ((Issue → Lpk → Instr) × LOp × Nat) :=
  [(.ldb, .ldb, 1), (.ldbu, .ldbu, 1), (.ldh, .ldh, 2), (.ldhu, .ldhu, 2), (.ldw, .ldw, 4), (.ldd, .ldd, 8),
   (.stb, .stb, 1), (.sth, .sth, 2), (.stw, .stw, 4), (.std, .std, 8),
   (.aadd, .aadd, 4), (.amins, .amins, 4), (.amaxs, .amaxs, 4), (.aminu, .aminu, 4), (.amaxu, .amaxu, 4), (.aand, .aand, 4),
   (.aor, .aor, 4), (.axor, .axor, 4), (.afadd, .afadd, 4), (.aexch, .aexch, 4), (.acas, .acas, 4)]

/-! ### Register commands -/

/-- Firmware's write of `v` to the register at an offset of a unit's block, at the register's own width. -/
def fwWr (b : RBlk) (u off : Nat) (v : W64) : RegWr :=
  { src := .firmware, addr := regAddr b u off, bytes := (regWidth b off).getD 8, value := v }

/-- A register write command of firmware, whose block runs, completes with `P`. -/
def fwStore (c : RegWr → Instr) (b : RBlk) (u off : Nat) (v : W64) (s : State) (P : State → Prop) : Prop :=
  s.pkg.held = false → blkStopped s b u = false → blkOff s b u = false → completes (c (fwWr b u off v)) s P

/-- A CLR_COUNTS command sets the counters of its block to 0 and changes nothing else. -/
def countsCleared (c : RegWr → Instr) (b : RBlk) (ctrl units : Nat) (counters : List Nat) : Prop :=
  ∀ (u : Nat) (s : State), u < units → fwStore c b u ctrl 1 s (fun t =>
    (∀ o ∈ counters, regGet t (regAddr b u o) = 0)
    ∧ (∀ a, (∀ o ∈ counters, a ≠ regAddr b u o) → regGet t a = regGet s a)
    ∧ { t with regs := s.regs } = s)

/-! ### Synchronisation instructions -/

/-- A sync instruction whose virtual ID grants the right sends `op` to its object for its group, which goes on, or waits where `waits` says
so (10 R226-R228, R230). -/
def syncSends (c : Issue → Lpk → Instr) (o : LOp) (right : Nat → Bool) (waits : Bool) (op : Iss → Lpk → SyncOp)
    (also : State → Iss → Lpk → Prop) : Prop :=
  ∀ (u : Issue) (w : Lpk) (s : State) (x : Iss) (s1 : State) (e : Nat), issuing o u w anyRoom s x s1 → x.act ≠ 0 →
    e = xlatSeen s (clusterOf x.n) x.g.ctx ((gReg x.g ((lowTid x.act).getD 0) w.a.toNat).toNat % 65536) → also s x w →
    (e.testBit 16 = true → right e = true → completes (c u w) s (fun t =>
      t.sync.msgs = s.sync.msgs ++
        [{ obj := e % 65536, frm := some (x.n, x.g.age), ctx := x.g.ctx, ord := x.ord, pc := x.pc, mask := x.act, op := op x w }]
      ∧ groupNow x { x.g with wait := if waits then .sync w.d.toNat x.act else x.g.wait } t (fun g =>
          ∀ k, k < x.g.threads.length → thr g k = stepThread x (fun _ h => h) k (thr x.g k))
      ∧ t.mem = s.mem ∧ t.sync.objs = s.sync.objs))
    ∧ (e.testBit 16 = false → completes (c u w) s (fun t => t.sync.msgs = s.sync.msgs ∧ ∃ g p, groupOf t x.n x.i = some g
        ∧ g.park = some p ∧ p.cause = (if e.testBit 32 then 0x24 else 0x20) ∧ p.precise = true ∧ p.mask = x.act ∧ g.threads = x.g.threads))
    ∧ (e.testBit 16 = true → right e = false → completes (c u w) s (fun t => t.sync.msgs = s.sync.msgs ∧ ∃ g p,
        groupOf t x.n x.i = some g ∧ g.park = some p ∧ p.cause = 0x21 ∧ p.precise = true ∧ p.mask = x.act ∧ g.threads = x.g.threads))

/-! ### Threads that only go on -/

/-- The group of an issue goes on: its threads stay as they were but for the PCs of the subset. -/
def goesOn (x : Iss) (t : State) : Prop :=
  groupNow x x.g t (fun g => ∀ k, k < x.g.threads.length → thr g k = stepThread x (fun _ h => h) k (thr x.g k))

/-- The group of an issue goes on with the value `v` in D of its active threads, and `y` in D + 1 where there is one. -/
def replied (x : Iss) (w : Lpk) (v : W32) (y : Option W32) (t : State) : Prop :=
  groupNow x x.g t (fun g => ∀ k, k < x.g.threads.length →
    thr g k = stepThread x (fun _ h =>
      match y with
      | some y => (h.setReg w.d.toNat v).setReg (w.d.toNat + 1) y
      | none => h.setReg w.d.toNat v) k (thr x.g k))

/-- A precise fault was found at issue: the group is asked to park with its threads unchanged, and memory is unchanged. -/
def parkedAt (x : Iss) (cause : Nat) (mask : BitVec 32) (s t : State) : Prop :=
  (∃ g p, groupOf t x.n x.i = some g ∧ g.park = some p ∧ p.cause = cause ∧ p.precise = true ∧ p.pc = x.pc ∧ p.mask = mask
    ∧ g.threads = x.g.threads) ∧ t.mem = s.mem

/-- No slice holds a RED line. -/
def noRed (s : State) : Prop := ∀ h, ∀ y ∈ sliceAt s h, y.kind ≠ .red

/-- No weight-buffer window refuses accesses: no array and no fill engine works. -/
def winsIdle (s : State) : Prop := ∀ a, winHit s a = none

/-! ### The vector queue -/

/-- A tile or chain instruction enters the vector queue of its core with what it captures of G, and its group goes on. -/
def vecEnters (c : Issue → Lpk → Instr) (o : LOp) (chain : Bool) (opc : Nat) (cap : Iss → Lpk → Nat) (wait : Option GWait) : Prop :=
  ∀ (u : Issue) (w : Lpk) (s : State) (x : Iss) (s1 : State), issuing o u w vecRoom s x s1 → x.act ≠ 0 →
    completes (c u w) s (fun t =>
      (coreOf t x.n).vecq = (coreOf s x.n).vecq ++
        [{ slot := x.i, age := x.g.age, ctx := x.g.ctx, pc := x.pc, chain := chain, opc := opc, w := w, g := cap x w, mask := x.act }]
      ∧ groupNow x { x.g with wait := wait.getD x.g.wait } t (fun g =>
          ∀ k, k < x.g.threads.length → thr g k = stepThread x (fun _ h => h) k (thr x.g k))
      ∧ t.mem = s.mem)

/-- The entry `e` is at the head of the vector queue of core `n`, which runs it now for its live group `g` in slot `i`. -/
def vecHead (s : State) (n i : Nat) (g : Group) (e : VecEntry) (rest : List VecEntry) : Prop :=
  (coreOf s n).vecq = e :: rest ∧ coreRuns s n = true ∧ vecFence s n ≠ 15 ∧ fusedWaits s n = false
  ∧ slotOfAge (coreOf s n) e.age = some i ∧ groupOf s n i = some g ∧ liveMask g ≠ 0

/-- A tile instruction at the head of the vector queue writes the active elements of tile register D with `f`, ORs its flags into sFPF and
VEC_STICKY, writes sFPL, and leaves the queue. -/
def tileResult (o : LOp) (f : VecEntry → Group → Nat → FRes) : Prop :=
  ∀ (n : Fin 48) (s : State) (i : Nat) (g : Group) (e : VecEntry) (rest : List VecEntry), vecHead s n.val i g e rest →
    e.chain = false → entryOp e = o → e.w.d.toNat < g.tiles.length →
    let m := maskTile g (modF e.w 27 3)
    let fl := (actEls m).foldl (fun k j => k ||| (f e g j).fl) 0
    completes (.vecqExecute n .clean) s (fun t =>
      (∃ g', groupOf t n.val i = some g' ∧ g' = { g with tiles := g'.tiles, fpf := g.fpf ||| fl, fpl := fl }
        ∧ (∀ j, j < 256 → tElem g' e.w.d.toNat j = if m.getLsbD j then (f e g j).v else tElem g e.w.d.toNat j)
        ∧ ∀ k, k ≠ e.w.d.toNat → nth g'.tiles k [] = nth g.tiles k [])
      ∧ (coreOf t n.val).vecq = rest
      ∧ regGet t (vecSticky n.val) = (regGet s (vecSticky n.val) ||| fl)
      ∧ t.mem = s.mem)

/-! ### The matrix arrays -/

/-- A matrix instruction enters the matrix queue of its core with the registers of its lowest active thread, and its group goes on. -/
def matEnters (c : Issue → Lpk → Instr) (o : LOp) (op : Iss → Lpk → (BitVec 6 → Nat) → MatOp) : Prop :=
  ∀ (u : Issue) (w : Lpk) (s : State) (x : Iss) (s1 : State), issuing o u w matRoom s x s1 → x.act ≠ 0 →
    let r : BitVec 6 → Nat := fun f => (gReg x.g ((lowTid x.act).getD 0) f.toNat).toNat
    completes (c u w) s (fun t =>
      (coreOf t x.n).matq = (coreOf s x.n).matq ++
        [{ slot := x.i, age := x.g.age, ctx := x.g.ctx, launch := x.g.launch, pc := x.pc, op := op x w r, checked := false }]
      ∧ goesOn x t ∧ t.mem = s.mem)

/-- The entry `e` is at the head of the matrix queue of a core that runs, and has not been handed to its unit. -/
def matHead (s : State) (n : Nat) (e : MatEntry) (rest : List MatEntry) : Prop :=
  (coreOf s n).matq = e :: rest ∧ coreRuns s n = true ∧ e.checked = false

/-- The next native sweep of core `n` is `v`, of one pass for bank `b` of array `b / 2`: its physical bank is free, its rows have landed, no
replay is under way and no fault is to be injected. -/
def sweepDue (s : State) (n b : Nat) (v : Native) (rest : List Native) : Prop :=
  (coreOf s n).stage.todo = v :: rest ∧ (coreOf s n).stage.pass = 0 ∧ actsHere s v = true ∧ coreRuns s n = true ∧ v.banks = [b] ∧ b < 4 ∧ v.afmt ≠ 2
  ∧ (arrOf s n 0).replay = none ∧ (arrOf s n 1).replay = none ∧ (arrOf s n (b / 2)).next < 2
  ∧ nth (arrOf s n (b / 2)).phys (arrOf s n (b / 2)).next none = none ∧ rowsHere (ringOf s n (b / 2)) v = true
  ∧ injectArmed s n (b / 2) = none

/-! ### The fabric -/

/-- The module has sent `i` between `s` and `t`. -/
def sentOut (s t : State) (i : OutItem) : Prop := ∃ l, t.fab.out = s.fab.out ++ l ∧ i ∈ l

/-- The module has answered with `r`, on a port or, where no port leads to the source, on none. -/
def answered (s t : State) (r : Resp) : Prop := ∃ p, sentOut s t (.resp p r)

/-- The bytes `bs` are stored at `a`, and no other byte of module memory has changed. -/
def stores (s t : State) (a : Nat) (bs : List Byte) : Prop :=
  (∀ i, i < bs.length → memByte t (a + i) = nth bs i 0) ∧ ∀ b, (b < a ∨ a + bs.length ≤ b) → memByte t b = memByte s b

/-- No byte of module memory has changed. -/
def sameBytes (s t : State) : Prop := ∀ a, memByte t a = memByte s a

/-- From `s` to `t` the fabric queue of core `n` becomes `q`, and nothing else changes but the group in slot `i` and registers that `may` names. -/
def queueAndGroup (n i : Nat) (q : List FabEntry) (may : Nat → Prop) (s t : State) : Prop :=
  (coreOf t n).fabq = q ∧ groupOnly n i may s (modCore t n (fun c => { c with fabq := (coreOf s n).fabq }))

/-- A fabric instruction enters its core's fabric queue with the registers of its lowest active thread (FSTATUS: the peer and D too), and its group goes
on, or waits as `wait` says. -/
def fabEnters (c : Issue → Lpk → Instr) (o : LOp) (op : FabOp) (wait : GWait → GWait) (when_ : State → Iss → Prop) : Prop :=
  ∀ (u : Issue) (w : Lpk) (s : State) (x : Iss) (s1 : State), issuing o u w fabqRoom s x s1 → x.act ≠ 0 → when_ s x →
    let r : BitVec 6 → Nat := fun f => (gReg x.g ((lowTid x.act).getD 0) f.toNat).toNat
    completes (c u w) s (fun t =>
      queueAndGroup x.n x.i ((coreOf s x.n).fabq ++
        [{ slot := x.i, age := x.g.age, ctx := x.g.ctx, pc := x.pc, op := op, d := w.d.toNat, entry := w.mod.toNat % 2 ^ 12,
           id := if op == .status then r w.a % 4096 else r w.a, value := r w.b,
           len := w.mod.toNat / 2 ^ 12 % 2 ^ 7, ord := x.ord, mask := x.act, sent := false }]) (issueReg x.n) s t
      ∧ groupNow x { x.g with wait := wait x.g.wait } t (fun g => ∀ k, k < x.g.threads.length → thr g k = stepThread x (fun _ h => h) k (thr x.g k)))

/-- A response for this module arrives that answers the unacknowledged transaction `u`. -/
def answers (s : State) (r : Resp) (u : Unack) : Prop :=
  s.fabricId = some r.dst ∧ (connOf s r.src.toNat).unack.find? (fun (v : Unack) => v.t.seq == r.seq) = some u

/-- The transaction with a number is unacknowledged no more; the others are as before. -/
def unacked (s t : State) (q : Nat) (seq : W32) : Prop :=
  (connOf t q).unack = (connOf s q).unack.filter (fun (v : Unack) => v.t.seq != seq)

/-- A transaction arrives at a die that is the next of its source, of which nothing has been NAKed or has landed ahead. -/
def nextArrives (s : State) (x : Txn) : Prop :=
  let c := connOf s x.src.toNat
  s.pkg.held = false ∧ s.fabricId = some x.dst ∧ c.st ≠ .resetting ∧ x.seq = c.a + 1 ∧ c.landed = [] ∧ c.nakked = [] ∧ c.held = []

/-- It passes every check of Table 12.6, and nothing holds it. -/
def admitted (s : State) (x : Txn) : Prop := nextArrives s x ∧ admitStatus s x = 0 ∧ txnHeld s x = false

/-- A transaction has landed: the cumulative acknowledgement of its source covers it, and one is owed. -/
def landed (t : State) (x : Txn) : Prop := (connOf t x.src.toNat).a = x.seq ∧ (connOf t x.src.toNat).ackDue = true

/-- A transaction is NAKed with a status, counted against its entry, and changes no byte of memory. -/
def nakked (s t : State) (x : Txn) (status : Nat) : Prop :=
  answered s t { ty := 3, status := status, src := selfId s, dst := x.src, seq := x.seq, data := [] } ∧ landed t x ∧ sameBytes s t

/-! ### The links -/

/-- A flit of a KIND has been sent on a port whose payload begins with `pay`. -/
def flitSent (s t : State) (p kind : Nat) (pay : List Byte) : Prop :=
  ∃ bs, sentOut s t (.flit p bs) ∧ (flitHdr bs).kind = kind ∧ (bs.drop 12).take pay.length = pay

/-- A flit of a KIND arrives whole at a port that receives. -/
def flitComes (s : State) (p kind : Nat) (raw : Flit) : Prop :=
  s.pkg.held = false ∧ receives (portOf s p) = true ∧ flitOk raw = true ∧ (flitHdr raw.bytes).kind = kind

/-- A port has failed for a cause (11 R257). -/
def portFailed (t : State) (p cause : Nat) : Prop := (portOf t p).st = 8 ∧ (portOf t p).cause = cause ∧ (portOf t p).failedAt.isSome = true

/-- A port moves to a state of bring-up and changes nothing else (11 Table 11.5). -/
def portMoves (s t : State) (p st : Nat) (f : Port → Port) : Prop :=
  portOf t p = f { portOf s p with st := st, since := s.now } ∧ (∀ q, q ≠ p → portOf t q = portOf s q)
  ∧ { t with fab := { t.fab with ports := s.fab.ports } } = s

/-! ### Sequencers -/

/-- A thread's store of `v` to a register, in the name of context `ctx`, completes with `P`. -/
def threadStore (c : RegWr → Instr) (b : RBlk) (u off : Nat) (ctx : Nat) (v : W64) (s : State) (P : State → Prop) : Prop :=
  ∀ (n : Fin 48) (id : Nat) (a : Access) (l : Lane), s.pkg.held = false → dueAccess s n.val id true = some (a, l) → a.ctx = ctx →
    l.addr = regAddr b u off → regWidth b off = some a.op.size → l.v = v → blkStopped s b u = false → blkOff s b u = false →
    completes (c { src := .access n id, addr := l.addr, bytes := a.op.size, value := v }) s P

/-- No write of a sequencer waits, and no bucket is at work. -/
def seqIdle (s : State) : Prop := s.heldSeq = [] ∧ ∀ b k, bucketAt s b = some k → k.st ≠ 2

/-- Nothing waits for the checkpoint engine or an outstanding fill, no RED line stands, and no weight-buffer window is at work. -/
def calm (s : State) : Prop := s.heldSeq = [] ∧ s.ckpts = [] ∧ (∀ l, fillPending s l = false) ∧ noRed s ∧ winsIdle s

/-- From `s` to `t` no byte changes outside the ranges. -/
def onlyBytes (s t : State) (rs : List (Nat × Nat)) : Prop := ∀ a, (∀ r ∈ rs, a < r.1 ∨ r.1 + r.2 ≤ a) → memByte t a = memByte s a

/-- Bucket `b` is `k`, and neither child's record lies in its control area. -/
def bucketQuiet (s : State) (b : Nat) (k : Bucket) : Prop :=
  bucketAt s b = some k ∧ takeReady s k false = .nothing ∧ takeReady s k true = .nothing

/-- A bucket ends FAILED with a cause: STATUS says so, and its slot is free. -/
def bucketFails (s t : State) (b : Nat) (k : Bucket) (cause : Nat) : Prop :=
  bucketAt t b = none ∧ memNat t (k.hdr + 0x68) 4 = 4 + 256 * cause ∧ onlyBytes s t [(k.hdr + 0x68, 4)]

/-- A run ends FAILED with a cause: STATUS says so, and its slot is free. -/
def runFails (s t : State) (r : Nat) (u : URun) (cause : Nat) : Prop :=
  runAt t r = none ∧ memNat t (u.addr + 0x38) 4 = 7 + 256 * cause ∧ onlyBytes s t [(u.addr + 0x38, 4)]

/-! ### Mailboxes -/

/-- Every mailbox but one is as before. -/
def othersKept (s t : State) (k : Nat) : Prop := ∀ j, j ≠ k → mbxOf t j = mbxOf s j

/-- Mailbox `m` is DONE with a response of a status and a body (16 R361, R362). -/
def replyOf (t : State) (m status : Nat) (body : List Byte) : Prop :=
  (mbxOf t m).st = 2 ∧ ((mbxOf t m).rsp.drop 2).take 2 = natBytes 2 status ∧ (mbxOf t m).rsp.drop 32 = body

/-- A GO of request `req` to mailbox `k` by a command (16 R361, R363). -/
def mbxGoes (c : Instr) (k : Nat) (req : List Byte) (s : State) : Prop :=
  let x := mbxOf s k
  let r := padTo 4096 0 (req.take 4096)
  let len := bytesNat ((r.drop 4).take 4)
  let taken : Mbx := { x with st := 1, overrun := false, req := r, rank := s.fw.gos, stage := 0, key := [], readAt := 0 }
  (x.st = 1 → completes c s (fun t => mbxOf t k = { x with overrun := true } ∧ othersKept s t k ∧ { t with mbx := s.mbx } = s))
  ∧ (x.st ≠ 1 → s.pkg.ready = false → completes c s (fun t => mbxOf t k = taken ∧ othersKept s t k))
  ∧ (x.st ≠ 1 → s.pkg.ready = true → len % 4 = 0 → len ≤ 4064 → (9 ≤ k → len ≤ 224) →
    let op := bytesNat (r.take 2)
    (takesOp s k op = true → completes c s (fun t =>
      mbxOf t k = { taken with key := if op = 1 ∨ op = 2 then [] else match x.session with | some y => y.rspKey | none => [] } ∧ othersKept s t k))
    ∧ (takesOp s k op = false → ∀ st, st = (match opLength (fun o n => bytesNat ((r.drop (32 + o)).take n)) op with
          | some n => if n = len then 0x102 else 0x101
          | none => 0x102) → completes c s (fun t => replyOf t k st (natBytes 4 0xFFFFFFFF) ∧ othersKept s t k)))
  ∧ (x.st ≠ 1 → s.pkg.ready = true → (len % 4 ≠ 0 ∨ 4064 < len ∨ (9 ≤ k ∧ 224 < len)) → completes c s (fun t =>
      replyOf t k 0x101 (natBytes 4 0xFFFFFFFF) ∧ othersKept s t k))

/-- A session request of an opcode and length waits in mailbox `m`. -/
def sessionDue (s : State) (m op len : Nat) : Prop :=
  s.pkg.ready = true ∧ (mbxOf s m).st = 1 ∧ reqOp s m = op ∧ reqLen s m = len ∧ reqF s m 8 4 = 0

/-- A request waits in mailbox `m` with opcode `op`, and nothing before firmware's carrying it out is wrong with it (16 R363, R364, R366). -/
def commandWaits (s : State) (m op : Nat) : Prop :=
  s.pkg.ready = true ∧ s.sec.target = 7 ∧ (mbxOf s m).st = 1 ∧ (mbxOf s m).stage = 0 ∧ reqOp s m = op ∧ takesOp s m op = true ∧ ctxWaits s m = false

/-- It also passes every check of R363 that does not belong to its own fields. -/
def commandDue (s : State) (m op len : Nat) (fields : List (Nat × Nat)) : Prop :=
  commandWaits s m op ∧ headerCheck s m len = none ∧ reservedBad s m len fields = none ∧ (ctxOp op = true → s.sec.lcs = 3) ∧ ownStatus s m = 0

/-! ### Registers -/

/-- A snapshot of a die's performance counters has been taken (20 R448). -/
def snapTaken (s t : State) (d : Nat) : Prop :=
  (∀ n, n < 16 → regGet t (regAddr .pmc d (0x300 + 8 * n)) = regGet s (regAddr .pmc d (0x200 + 8 * n)))
  ∧ regGet t (regAddr .pmc d 0x018) = s.ftime ∧ regGet t (regAddr .pmc d 0x010) = 0 ∧ (regGet t (regAddr .pmc d 0)).testBit 17 = true
  ∧ { t with regs := s.regs } = s

/-- The life-cycle states that the fuses can hold, a transition that Table 17.4 lists or none, and a state that can boot (17 R394). -/
def lifeOk (c : SecSt) : Prop := 1 ≤ c.lcs ∧ c.lcs ≤ 5 ∧ (c.target = 7 ∨ (1 ≤ c.target ∧ c.target ≤ 5)) ∧ c.rma ≤ 3
  ∧ (c.lcs = 4 → c.target = 1 → c.rma < 3)

/-! ### LPK words -/

/-- The OP value of an opcode: its place in its class, from 1 (Table 2.4). -/
def lopNum (o : LOp) : Nat := (classOps (lopClass o)).findIdx (fun x => x == o) + 1

/-- The word that an opcode and its fields spell (02 Table 2.3). -/
def lpkWord (o : LOp) (w : Lpk) : Nat :=
  lopClass o * 2 ^ 58 + lopNum o * 2 ^ 52 + b2n w.pn * 2 ^ 51 + w.preg.toNat * 2 ^ 48 + w.d.toNat * 2 ^ 42 + w.a.toNat * 2 ^ 36 + w.b.toNat * 2 ^ 30
    + w.mod.toNat

end Sys2Proof.Machine
end

