-- ==== Sys2Proof/Certificates/Slice0/Obligations.lean ====
section
/-! DEFINITION. The statements for the provers. -/

open Sys2Proof Sys2Proof.Machine

/-! ### The queue -/

/-- A step takes the command at the front of the queue and runs it on the state with the queue's rest. -/
def Obligations.StepTakesFront : Prop :=
  ∀ (s : State) (c : Instr) (rest : List Instr), s.pending = c :: rest → step s = exec c { s with pending := rest }

/-! ### Scalar instructions -/

/-- 07 Table 7.2, R147: the opcodes of the integer class that write a general register from A and the second operand.
07 Table 7.2: division never traps; by 0 it gives 0xFFFF_FFFF, and the remainder the dividend.
07 Table 7.2: SETP, SEL, MOVI and MOVHI. -/
def Obligations.IntegerInstructions : Prop :=
  (
    integerResult .add .add (fun a b => a + b)
    ∧ integerResult .sub .sub (fun a b => a - b)
    ∧ integerResult .mul .mul (fun a b => a * b)
    ∧ integerResult .mulhs .mulhs (fun a b => ((a.signExtend 64 * b.signExtend 64) >>> 32).setWidth 32)
    ∧ integerResult .mulhu .mulhu (fun a b => ((a.setWidth 64 * b.setWidth 64) >>> 32).setWidth 32)
    ∧ integerResult .and .and_ (fun a b => a &&& b)
    ∧ integerResult .or .or_ (fun a b => a ||| b)
    ∧ integerResult .xor .xor_ (fun a b => a ^^^ b)
    ∧ integerResult .shl .shl (fun a b => a <<< (b.toNat % 32))
    ∧ integerResult .shr .shr (fun a b => a >>> (b.toNat % 32))
    ∧ integerResult .sar .sar (fun a b => a.sshiftRight (b.toNat % 32))
    ∧ integerResult .mins .mins (fun a b => if a.slt b then a else b)
    ∧ integerResult .maxs .maxs (fun a b => if a.slt b then b else a)
    ∧ integerResult .minu .minu (fun a b => if a.ult b then a else b)
    ∧ integerResult .maxu .maxu (fun a b => if a.ult b then b else a)
    ∧ integerResult .clz .clz (fun a _ => a.clz)
    ∧ integerResult .popc .popc (fun a _ => a.cpop))
  ∧ (
    integerResult .divs .divs (fun a b => if b = 0 then 0xFFFFFFFF else a.sdiv b)
    ∧ integerResult .divu .divu (fun a b => if b = 0 then 0xFFFFFFFF else a / b)
    ∧ integerResult .rems .rems (fun a b => if b = 0 then a else a - b * a.sdiv b)
    ∧ integerResult .remu .remu (fun a b => if b = 0 then a else a - b * (a / b))
    ∧ BitVec.sdiv (0x80000000 : W32) 0xFFFFFFFF = 0x80000000)
  ∧ (
    threadResult .setp .setp (fun w x k h =>
      h.setPred (w.d.toNat % 8)
        (setpHolds ((w.mod.extractLsb' 25 3).toNat) (w.mod.getLsbD 24) (gReg x.g k w.a.toNat) (operandB x.g k w)))
    ∧ threadResult .sel .sel (fun w x k h =>
      h.setReg w.d.toNat (if gPred x.g k (w.mod.extractLsb' 20 3).toNat then gReg x.g k w.a.toNat else operandB x.g k w))
    ∧ threadResult .movi .movi (fun w _ _ h => h.setReg w.d.toNat ((w.mod.setWidth 20).signExtend 32))
    ∧ threadResult .movhi .movhi (fun w x k h =>
      h.setReg w.d.toNat (w.mod.setWidth 16 ++ (gReg x.g k w.d.toNat).setWidth 16)))

/-- 07 R141, Table 7.1: SRD reads a special register, a pair where it is 64 bits wide; SWR writes sTOK of each active thread, clears the
bits that any active thread names in sNUMF or sFPF, and parks the group with THR_SPECIAL at any other register. -/
def Obligations.SpecialRegisterAccess : Prop :=
  (∀ (u : Issue) (w : Lpk) (s : State) (x : Iss) (s1 : State), issuing .srd u w anyRoom s x s1 →
    let r := (w.mod.setWidth 6).toNat
    let F : Nat → Thread → Thread := fun k h =>
      let v := specialValue s x x.g k r
      let h := h.setReg w.d.toNat (BitVec.ofNat 32 v)
      if special64 r then h.setReg (w.d.toNat + 1) (BitVec.ofNat 32 (v / 2 ^ 32)) else h
    completes (.srd u w) s (fun t =>
      groupNow x x.g t (fun g => ∀ k, k < x.g.threads.length → thr g k = stepThread x F k (thr x.g k))
      ∧ groupOnly x.n x.i (issueReg x.n) s t))
  ∧ (∀ (u : Issue) (w : Lpk) (s : State) (x : Iss) (s1 : State), issuing .swr u w anyRoom s x s1 →
    let r := (w.mod.setWidth 6).toNat
    let written := orRegs x w.a.toNat
    (r = 0x06 → completes (.swr u w) s (fun t =>
      groupNow x x.g t (fun g => ∀ k, k < x.g.threads.length →
        thr g k = stepThread x (fun k h => { h with tok := (gReg x.g k w.a.toNat) &&& 0x3FFFFF }) k (thr x.g k))
      ∧ groupOnly x.n x.i (issueReg x.n) s t))
    ∧ (r = 0x09 → completes (.swr u w) s (fun t =>
      groupNow x { x.g with numf := (BitVec.ofNat 32 x.g.numf &&& ~~~written).toNat } t (fun g =>
        ∀ k, k < x.g.threads.length → thr g k = stepThread x (fun _ h => h) k (thr x.g k))
      ∧ groupOnly x.n x.i (issueReg x.n) s t))
    ∧ (r = 0x0B → completes (.swr u w) s (fun t =>
      groupNow x { x.g with fpf := (BitVec.ofNat 32 x.g.fpf &&& ~~~written).toNat } t (fun g =>
        ∀ k, k < x.g.threads.length → thr g k = stepThread x (fun _ h => h) k (thr x.g k))
      ∧ groupOnly x.n x.i (issueReg x.n) s t))
    ∧ (r ≠ 0x06 → r ≠ 0x09 → r ≠ 0x0B → x.act ≠ 0 → completes (.swr u w) s (faultsAt x 0x0C 0 0 x.act false s)))

/-- 07 Table 7.3, R149: the scalar FP opcodes. -/
def Obligations.ScalarFpResults : Prop :=
  fpResult .fadd .fadd (fun _ a b _ => addVal (fval a) (fval b))
  ∧ fpResult .fsub .fsub (fun _ a b _ => addVal (fval a) (negVal (fval b)))
  ∧ fpResult .fmul .fmul (fun _ a b _ => match mulVal (fval a) (fval b) with | none => ⟨fNaN, flInvalid⟩ | some v => ofVal v)
  ∧ fpResult .ffma .ffma (fun _ a b d => ffma a b d)
  ∧ fpResult .fmin .fmin (fun _ a b _ => ⟨fmin a b, 0⟩)
  ∧ fpResult .fmax .fmax (fun _ a b _ => ⟨fmax a b, 0⟩)
  ∧ fpResult .fabs .fabs (fun _ a _ _ => ⟨a.setWidth 31 |>.setWidth 32, 0⟩)
  ∧ fpResult .fneg .fneg (fun _ a _ _ => ⟨a ^^^ 0x80000000, 0⟩)
  ∧ fpResult .fcvt .fcvt (fun w a _ _ => fcvt (w.mod.setWidth 4).toNat a)
  ∧ (∀ (u : Issue) (w : Lpk) (s : State) (x : Iss) (s1 : State), issuing .fsetp u w anyRoom s x s1 →
    let r : Nat → Bool × Nat := fun k =>
      fcond (setpToTcmp (w.mod.extractLsb' 25 3).toNat) (gReg x.g k w.a.toNat) (gReg x.g k w.b.toNat)
    let flags := orFlags x (fun k => (r k).2)
    completes (.fsetp u w) s (fun t =>
      groupNow x { x.g with fpf := x.g.fpf ||| flags } t (fun g =>
        ∀ k, k < x.g.threads.length → thr g k = stepThread x (fun k h => h.setPred (w.d.toNat % 8) (r k).1) k (thr x.g k))
      ∧ regGet t (vecSticky x.n) = (regGet s (vecSticky x.n) ||| flags)
      ∧ groupOnly x.n x.i (fun a => issueReg x.n a ∨ a = vecSticky x.n) s t))

/-- 07 Table 7.5: BRA, CALL, RET, NOP, YIELD and TRAP. -/
def Obligations.ControlFlow : Prop :=
  (∀ (u : Issue) (w : Lpk) (s : State) (x : Iss) (s1 : State), issuing .bra u w anyRoom s x s1 →
    let dest := (BitVec.ofNat 32 x.pc + (w.mod.setWidth 24).signExtend 32).toNat
    completes (.bra u w) s (fun t =>
      groupNow x x.g t (fun g => ∀ k, k < x.g.threads.length → thr g k = jumpThread x (fun _ => dest) k (thr x.g k))
      ∧ groupOnly x.n x.i (issueReg x.n) s t))
  ∧ (∀ (u : Issue) (w : Lpk) (s : State) (x : Iss) (s1 : State), issuing .call u w anyRoom s x s1 →
    let dest := (BitVec.ofNat 32 x.pc + (w.mod.setWidth 24).signExtend 32).toNat
    completes (.call u w) s (fun t =>
      groupNow x x.g t (fun g => ∀ k, k < x.g.threads.length →
        thr g k = jumpThread x (fun _ => dest) k
          (if x.act.getLsbD k then (thr x.g k).setReg w.d.toNat (BitVec.ofNat 32 (x.pc + 1)) else thr x.g k))
      ∧ groupOnly x.n x.i (issueReg x.n) s t))
  ∧ (∀ (u : Issue) (w : Lpk) (s : State) (x : Iss) (s1 : State), issuing .ret u w anyRoom s x s1 →
    let dest : Nat → Nat := fun k => (gReg x.g k w.a.toNat).toNat
    let bad := maskWhere (fun k => x.act.getLsbD k && !isReturn s x.g.kernel (dest k))
    (bad = 0 → completes (.ret u w) s (fun t =>
      groupNow x x.g t (fun g => ∀ k, k < x.g.threads.length → thr g k = jumpThread x dest k (thr x.g k))
      ∧ groupOnly x.n x.i (issueReg x.n) s t))
    ∧ (bad ≠ 0 → completes (.ret u w) s (faultsAt x 0x06 0 0 bad false s)))
  ∧ (∀ (u : Issue) (w : Lpk) (s : State) (x : Iss) (s1 : State), issuing .nop u w anyRoom s x s1 →
    completes (.nop u w) s (fun t =>
      groupNow x x.g t (fun g => ∀ k, k < x.g.threads.length → thr g k = stepThread x (fun _ h => h) k (thr x.g k))
      ∧ groupOnly x.n x.i (issueReg x.n) s t))
  ∧ (∀ (u : Issue) (w : Lpk) (s : State) (x : Iss) (s1 : State), issuing .yield u w anyRoom s x s1 → x.act ≠ 0 →
    completes (.yield u w) s (fun t =>
      groupNow x { x.g with lastYield := some (ckOf s x.n) } t (fun g =>
        ∀ k, k < x.g.threads.length → thr g k = stepThread x (fun _ h => h) k (thr x.g k))
      ∧ groupOnly x.n x.i (issueReg x.n) s t))
  ∧ (∀ (u : Issue) (w : Lpk) (s : State) (x : Iss) (s1 : State), issuing .trap u w anyRoom s x s1 → x.act ≠ 0 →
    completes (.trap u w) s (faultsAt x 0x07 (w.mod.setWidth 16).toNat 0 x.act false s))

/-- 07 R139: EXIT takes the active threads out of the live set; once no thread is live and no store or NORET atomic of the group is
unacknowledged (08 R185) the slot is empty. 07 R153: GBAR records the arrival of the active threads, which stop being selectable; BAR_MASK where the masks differ or
leave out an arriving thread. -/
def Obligations.ExitAndBarrier : Prop :=
  (∀ (u : Issue) (w : Lpk) (s : State) (x : Iss) (s1 : State), issuing .exit u w anyRoom s x s1 →
    ((∃ k, k < 32 ∧ (thr x.g k).live = true ∧ x.act.getLsbD k = false) → completes (.exit u w) s (fun t =>
      groupNow x x.g t (fun g => ∀ k, k < x.g.threads.length →
        thr g k = if x.act.getLsbD k then { thr x.g k with live := false } else stepThread x (fun _ h => h) k (thr x.g k))
      ∧ groupOnly x.n x.i (issueReg x.n) s t))
    ∧ ((∀ k, (thr x.g k).live = true → x.act.getLsbD k = true) → acksDue s x.n x.g.age = false →
      completes (.exit u w) s (fun t => groupOf t x.n x.i = none)))
  ∧ (∀ (u : Issue) (w : Lpk) (s : State) (x : Iss) (s1 : State),
    issuing .gbar u w (fun c => match nth c.slots u.slot.val none with | some g => !barrierDone g | none => true) s x s1 →
    ∀ t0, lowTid x.act = some t0 →
    let m := gReg x.g t0 w.a.toNat
    let agree := (∀ k, x.act.getLsbD k = true → gReg x.g k w.a.toNat = m) ∧ (∀ b, x.g.barrier = some b → b.mask = m)
      ∧ x.act &&& ~~~m = 0
    let b : Bar := match x.g.barrier with
      | some b => { b with arrived := b.arrived ||| x.act }
      | none => { mask := m, arrived := x.act, pc := x.pc, start := ckOf s x.n }
    (agree → completes (.gbar u w) s (fun t =>
      groupNow x { x.g with barrier := some b } t (fun g =>
        ∀ k, k < x.g.threads.length → thr g k = stepThread x (fun _ h => { h with stat := .bar }) k (thr x.g k))
      ∧ groupOnly x.n x.i (issueReg x.n) s t))
    ∧ (¬agree → completes (.gbar u w) s (faultsAt x 0x09 0 0 x.act false s)))

/-! ### Loads, stores and atomics -/

/-- 07 Table 7.4, R148; 08 R172: loads from a scratchpad.
07 Table 7.4, R148; 08 R172: stores to a scratchpad.
07 Table 7.6, R151: atomics on a scratchpad word. -/
def Obligations.ScratchpadAccesses : Prop :=
  (
    loadResult .ldb .ldb 1 true ∧ loadResult .ldbu .ldbu 1 false ∧ loadResult .ldh .ldh 2 true ∧ loadResult .ldhu .ldhu 2 false
    ∧ loadResult .ldw .ldw 4 false ∧ loadResult .ldd .ldd 8 false)
  ∧ (
    storeResult .stb .stb 1 ∧ storeResult .sth .sth 2 ∧ storeResult .stw .stw 4 ∧ storeResult .std .std 8)
  ∧ (
    atomicResult .aadd .aadd .add (fun x v _ => x + v)
    ∧ atomicResult .amins .amins .mins (fun x v _ => if x.sle v then x else v)
    ∧ atomicResult .amaxs .amaxs .maxs (fun x v _ => if v.sle x then x else v)
    ∧ atomicResult .aminu .aminu .minu (fun x v _ => if x.ule v then x else v)
    ∧ atomicResult .amaxu .amaxu .maxu (fun x v _ => if v.ule x then x else v)
    ∧ atomicResult .aand .aand .and (fun x v _ => x &&& v)
    ∧ atomicResult .aor .aor .or (fun x v _ => x ||| v)
    ∧ atomicResult .axor .axor .xor (fun x v _ => x ^^^ v)
    ∧ atomicResult .afadd .afadd .fadd (fun x v _ => (fadd x v).v)
    ∧ atomicResult .aexch .aexch .exch (fun _ v _ => v)
    ∧ atomicResult .acas .acas .cas (fun x v d => if x = d then v else x))

/-- The frame of every load, store and atomic instruction, for any number of threads and any target: no byte of memory but those its
active threads address changes. -/
def Obligations.MemoryInstructionFrame : Prop :=
  ∀ e ∈ memoryInstrs, ∀ (u : Issue) (w : Lpk) (s : State) (x : Iss) (s1 : State), issuing e.2.1 u w anyRoom s x s1 →
    completes (e.1 u w) s (fun t => ∀ b, ¬ laneByte x w e.2.2 b → memByte t b = memByte s b)

/-- 07 R148, R158: a misaligned address of a thread parks the group with cause 0x02, and an address whose bits [63:60] are not 0 with
cause 0x01, before any effect; a load or store in the DPT window (02 R19) parks nothing, whatever its alignment.
09 R202, 07 Table 7.4: the data of a performed load returns to the registers of its threads, sign- or zero-extended, and the access
leaves the core; no memory byte changes. 15 R337: threads whose data had an uncorrectable error write nothing. -/
def Obligations.LoadDataAndMisalignment : Prop :=
  (
    ∀ e ∈ memoryInstrs, ∀ (u : Issue) (w : Lpk) (s : State) (x : Iss) (s1 : State) (k : Nat), issuing e.2.1 u w anyRoom s x s1 →
      x.act = maskOf [k] → k < 32 →
      let a := ldstAddr x.g k w
      (2 ^ 60 ≤ a → completes (e.1 u w) s (faultsAt x 0x01 0 a (maskOf [k]) false s))
      ∧ (a < 2 ^ 60 → a % e.2.2 ≠ 0 → inDptWindow a = false → completes (e.1 u w) s (faultsAt x 0x02 0 a (maskOf [k]) false s)))
  ∧ (
    ∀ e ∈ memoryInstrs.take 10, ∀ (u : Issue) (w : Lpk) (s : State) (x : Iss) (s1 : State) (k : Nat), issuing e.2.1 u w anyRoom s x s1 →
      x.act = maskOf [k] → k < 32 → inDptWindow (ldstAddr x.g k w) = true →
      completes (e.1 u w) s (fun t => ∃ g, groupOf t x.n x.i = some g ∧ g.park = none))
  ∧ (
    ∀ (n : Fin 48) (id : Nat) (ecc : W32) (s : State) (e : Access) (l : Lane) (i : Nat) (g : Group) (b : Nat) (sgn : Bool),
      SMap.get? (coreOf s n.val).accs id = some e → e.st = .done → e.op = .ld b sgn → e.bad = 0 → e.lanes = [l] → l.tid < 32 →
      slotOfAge (coreOf s n.val) e.age = some i → groupOf s n.val i = some g → (thr g l.tid).live = true →
      completes (.loadReturn n id ecc) s (fun t =>
        SMap.get? (coreOf t n.val).accs id = none
        ∧ (∀ a, memByte t a = memByte s a)
        ∧ (ecc.getLsbD l.tid = false → ∃ g', groupOf t n.val i = some g' ∧ thr g' l.tid =
            (if b = 8 then ((thr g l.tid).setReg e.d (l.old.setWidth 32)).setReg (e.d + 1) (l.old.extractLsb' 32 32)
             else if b = 1 then (thr g l.tid).setReg e.d (if sgn then (l.old.setWidth 8).signExtend 32 else l.old.setWidth 32)
             else if b = 2 then (thr g l.tid).setReg e.d (if sgn then (l.old.setWidth 16).signExtend 32 else l.old.setWidth 32)
             else (thr g l.tid).setReg e.d (if sgn then BitVec.ofNat 32 (unsigned 32 (signed (8 * b) l.old.toNat)) else l.old.setWidth 32))
            ∧ ∀ j, j ≠ l.tid → thr g' j = thr g j)
        ∧ (ecc.getLsbD l.tid = true → ∃ g', groupOf t n.val i = some g' ∧ g'.park.isSome = true ∧ ∀ j, (thr g' j).regs = (thr g j).regs)))

/-- 09 R208: FENCE makes its active threads unselectable until the condition of its scope holds, and FENCE_COMPLETE lets them go on then and
not before.
07 R153, 09 R210: a complete barrier lets its arrived threads go on once their implicit FENCE of scope 1 has taken effect. 07 R155: after
2^20 ck a barrier that lacks a live thread parks the group with ORPHAN_BARRIER (0x08). 07 R145: RECONV_RELEASE ends the hold of a split whose
others have issued 1,024 instructions. -/
def Obligations.FencesAndBarriers : Prop :=
  (
    (∀ (u : Issue) (w : Lpk) (s : State) (x : Iss) (s1 : State), issuing .fence u w anyRoom s x s1 → x.act ≠ 0 →
      completes (.fence u w) s (fun t => ∃ g, groupOf t x.n x.i = some g
        ∧ g.fences = x.g.fences ++ [{ ord := x.ord, scope := (w.mod.setWidth 2).toNat, mask := x.act }]
        ∧ (∀ k, k < x.g.threads.length → x.sub.getLsbD k = true → thr g k = { thr x.g k with pc := x.pc + 1, stat := .fence x.ord })
        ∧ groupOnly x.n x.i (issueReg x.n) s t))
    ∧ (∀ (u : Slot) (id : Nat) (s : State) (g : Group) (f : OrdPt), groupOf s u.core.val u.slot.val = some g →
        g.fences.find? (fun f => f.ord == id) = some f →
        (fenceDone s u.core.val g.age f.ord f.scope f.mask = false → exec (.fenceComplete u id) s = .next s)
        ∧ (fenceDone s u.core.val g.age f.ord f.scope f.mask = true → completes (.fenceComplete u id) s (fun t =>
          (∃ g', groupOf t u.core.val u.slot.val = some g' ∧ (∀ y ∈ g'.fences, y.ord ≠ id)
            ∧ ∀ k, k < g.threads.length → k < 32 → thr g' k = if (thr g k).stat = .fence f.ord
                then { thr g k with stat := .run } else thr g k)
          ∧ groupOnly u.core.val u.slot.val (fun _ => False) s t))))
  ∧ (
    (∀ (u : Slot) (s : State) (g : Group) (b : Bar), groupOf s u.core.val u.slot.val = some g → g.barrier = some b → g.park = none →
      (b.mask &&& liveMask g &&& ~~~b.arrived = 0 → fenceDone s u.core.val g.age (g.ord + 1) 1 b.arrived = true →
        completes (.gbarComplete u) s (fun t =>
          (∃ g', groupOf t u.core.val u.slot.val = some g' ∧ g'.barrier = none
            ∧ ∀ k, k < g.threads.length → thr g' k = if b.arrived.getLsbD k = true ∧ (thr g k).stat = .bar
                then { thr g k with stat := .run } else thr g k)
          ∧ groupOnly u.core.val u.slot.val (fun _ => False) s t))
      ∧ (b.mask &&& liveMask g &&& ~~~b.arrived ≠ 0 → exec (.gbarComplete u) s = .next s)
      ∧ (b.mask &&& liveMask g &&& ~~~b.arrived ≠ 0 → b.start + 2 ^ 20 ≤ ckOf s u.core.val →
        completes (.gbarWatchdogExpiry u) s (fun t => ∃ g' p, groupOf t u.core.val u.slot.val = some g' ∧ g'.park = some p
          ∧ p.cause = 0x08 ∧ p.precise = false ∧ p.pc = b.pc ∧ p.mask = b.mask &&& liveMask g &&& ~~~b.arrived
          ∧ ∀ k, thr g' k = thr g k))
      ∧ (ckOf s u.core.val < b.start + 2 ^ 20 → exec (.gbarWatchdogExpiry u) s = .next s))
    ∧ (∀ (u : Slot) (pc : Nat) (s : State) (g : Group) (y : Split), groupOf s u.core.val u.slot.val = some g → g.splits = [y] →
        y.rpc = pc → 1024 ≤ y.issued → y.arrived &&& liveMask g ≠ 0 →
        completes (.reconvRelease u pc) s (fun t => ∃ g', groupOf t u.core.val u.slot.val = some g'
          ∧ g' = { g with splits := [{ y with members := y.members &&& ~~~y.arrived, arrived := 0, issued := 0 }] })))

/-- 08 R184: a waiting line request takes a slot when the pool, its cap and the ordering rules let it, whatever its place, and not before; one at a home
slice or in a weight-buffer window then holds its slot, and one of a register names the order of its threads too. 08 R198: a prefetch never faults,
changes no byte and lets its group go on; where its module line is absent and PF_EN is set a fill starts, and where the line is present or
PF_EN is clear the slices and channels stay as they are; one of a remote line that no die's far line serves becomes a line request.
09 R220, 07 R148: FARINV records the far lines of its active threads' ranges, none for a length of 0, and its group goes on; a malformed address parks the
group with THR_ADDR; FARINV_COMPLETE drops the lines on all dies once every earlier access of those threads to the ranges is performed, and not before. -/
def Obligations.PrefetchAndFarLines : Prop :=
  (
    (∀ (n : Fin 48) (id : Nat) (s : State) (a : Access), SMap.get? (coreOf s n.val).accs id = some a → a.st = .waiting →
      (mayGrant s n.val id a = true → completes (.requestSlotGrant n id) s (fun t =>
        (∀ b, SMap.get? (coreOf t n.val).accs id = some b → b.st ≠ .waiting)
        ∧ ((a.place = .home ∨ ∃ k, a.place = .wbuf k) → SMap.get? (coreOf t n.val).accs id = some { a with st := .held } ∧ sameBytes s t)
        ∧ ((a.place = .regs ∨ a.place = .door) → (∃ l, SMap.get? (coreOf t n.val).accs id = some { a with st := .held, todo := l }) ∧ sameBytes s t)))
      ∧ (mayGrant s n.val id a = false → exec (.requestSlotGrant n id) s = .next s))
    ∧ (∀ (u : Issue) (w : Lpk) (s : State) (x : Iss) (s1 : State), issuing .pref u w anyRoom s x s1 →
      completes (.pref u w) s (fun t => sameBytes s t ∧ goesOn x t))
    ∧ (∀ (u : Issue) (w : Lpk) (s : State) (x : Iss) (s1 : State) (k : Nat), issuing .pref u w anyRoom s x s1 → x.act = maskOf [k] → k < 32 →
      let a := ldstAddr x.g k w
      let h := homeSlice (128 * (a / 128))
      let absent := (findLine s1 h (isHome (a / 128))).isSome = false
      target s1 x.g a 1 .read false = .loc .home →
      (¬(absent ∧ (slcCfg s1 h).testBit 3 = true) → completes (.pref u w) s (fun t => t.mem = s.mem))
      ∧ (absent → (slcCfg s1 h).testBit 3 = true → completes (.pref u w) s (fun t => SMap.get? t.mem.fills s.mem.nextFill
          = some { line := a / 128, who := .prefetch x.g.ctx, waiting := true, bad := false, late := false })))
    ∧ (∀ (u : Issue) (w : Lpk) (s : State) (x : Iss) (s1 : State) (k i : Nat) (m : BitVec 12), issuing .pref u w anyRoom s x s1 → x.act = maskOf [k] → k < 32 →
      let a := ldstAddr x.g k w
      let line := a % 2 ^ 48 / 128
      let h := farSlice s1 x.n (farLine m.toNat line)
      target s1 x.g a 1 .read false = .remote m i → w.mod.getLsbD 16 = true → (slcCfg s1 h).testBit 0 = true → (slcCfg s1 h).testBit 3 = true →
      (regionAt s1 i).noncache = false → (farHit s1 x.n (farLine m.toNat line)).1 = none → completes (.pref u w) s (fun t =>
        ∃ b, SMap.get? (coreOf t x.n).accs (coreOf s1 x.n).nextAcc = some b ∧ b.op = .pref true ∧ b.place = .module m.toNat ∧ b.line = line
          ∧ b.region = some i)))
  ∧ (
    (∀ (u : Issue) (w : Lpk) (s : State) (x : Iss) (s1 : State), issuing .farinv u w anyRoom s x s1 →
      let bad := maskWhere (fun k => x.act.getLsbD k && decide (2 ^ 60 ≤ ldstAddr x.g k w))
      let ls := (tids x.act).filterMap (fun k => farinvLines s1 x.g k w)
      (bad = 0 → completes (.farinv u w) s (fun t =>
        groupNow x { x.g with farinvs := if ls = [] then x.g.farinvs else x.g.farinvs ++ [{ ord := x.ord, mask := x.act, lanes := ls }] } t
          (fun g => ∀ k, k < x.g.threads.length → thr g k = stepThread x (fun _ h => h) k (thr x.g k))
        ∧ groupOnly x.n x.i (issueReg x.n) s t))
      ∧ (bad ≠ 0 → completes (.farinv u w) s (parkedAt x 0x01 bad s)))
    ∧ (∀ (s : State) (g : Group) (k : Nat) (w : Lpk),
      let a := ldstAddr g k w
      let len := (gReg g k w.b.toNat).toNat
      let m := (globModule s a).toNat
      farinvLines s g k w = if a < 2 ^ 48 ∨ len = 0 then none
        else some (k, farLine m (a % 2 ^ 48 / 128), farLine m ((a % 2 ^ 48 + len - 1) / 128)))
    ∧ (∀ (u : Slot) (id : Nat) (s : State) (g : Group) (f : FarInv), groupOf s u.core.val u.slot.val = some g →
        g.farinvs.find? (fun f => f.ord == id) = some f →
        (farinvReady (coreOf s u.core.val) g.age f = false → exec (.farinvComplete u id) s = .next s)
        ∧ (farinvReady (coreOf s u.core.val) g.age f = true → completes (.farinvComplete u id) s (fun t =>
          groupOf t u.core.val u.slot.val = some { g with farinvs := g.farinvs.filter (fun y => y.ord != id) }
          ∧ (∀ r ∈ f.lanes, ∀ h, h < 64 → ∀ y ∈ sliceAt t h, ¬(y.kind = .far ∧ r.2.1 ≤ y.line ∧ y.line ≤ r.2.2))
          ∧ sameBytes s t))))

/-! ### Register control commands -/

/-- 00 R5 and the register tables: a CLR_COUNTS bit written by firmware sets the counters of its block to 0 and changes nothing else. -/
def Obligations.ClearCountsCommands : Prop :=
  countsCleared .numClrCounts .num 0x08 48 (offs 0x10 0x38)
  ∧ countsCleared .matClrCounts .mat 0x040 48 (0x008 :: offs 0x050 0x088)
  ∧ countsCleared .vecClrCounts .vec 0x020 48 (0x008 :: offs 0x028 0x068)
  ∧ countsCleared .thrClrCounts .thr 0x020 48 (offs 0x028 0x070)
  ∧ countsCleared .slcClrCounts .slc 0x018 64 (offs 0x080 0x100)
  ∧ countsCleared .lsuClrCounts .lsu 0x008 48 (offs 0x010 0x030)
  ∧ countsCleared .xfrClrCounts .xfr 0x008 16 (offs 0x010 0x038)
  ∧ countsCleared .synClrCounts .syn 0x008 4 (offs 0x020 0x058)
  ∧ countsCleared .lnkClrCounts .lnk 0x020 16 (offs 0x030 0x078)
  ∧ countsCleared .fabClrCounts .fab 0x010 4 (offs 0x018 0x078)
  ∧ countsCleared .rdxClrCounts .rdx 0x018 1 (offs 0x020 0x080)
  ∧ countsCleared .updClrCounts .upd 0x018 1 (offs 0x020 0x088)
  ∧ countsCleared .errClrCounts .err 0x008 1 (offs 0x010 0x040)
  ∧ countsCleared .ckpClrCounts .err 0x110 1 (offs 0x128 0x160)
  ∧ countsCleared .queClrCounts .que 0x008 1 (offs 0x010 0x050)
  ∧ countsCleared .secClrCounts .sec 0x010 1 (offs 0x018 0x028)
  ∧ countsCleared .pwrClrCounts .pwr 0x030 1 (offs 0x200 0x250 ++ [0x318])
  ∧ countsCleared .hstClrCounts .hst 0x18 1 [0x20, 0x28]
  ∧ countsCleared .pmcClrCounts .pmc 0x008 4 (offs 0x200 0x278)

/-! ### Synchronisation -/

/-- 10 R226-R232, R236, Table 10.2: the sync instructions send their operation to the object their virtual ID names, where it is VALID and
grants the right; else SYNC_UNMAPPED (0x20) or SYNC_PERM (0x21). -/
def Obligations.SyncInstructionsSend : Prop :=
  let lead : Iss → Nat := fun x => (lowTid x.act).getD 0
  let limit : Lpk → Option Nat := fun w => if w.ext = 0 then none else some w.ext.toNat
  syncSends .signal .signal (fun e => e.testBit 17) false
      (fun x w => .signal (if w.mod.getLsbD 29 then (w.mod.setWidth 16).setWidth 32 else gReg x.g (lead x) w.b.toNat) false)
      (fun _ _ _ => True)
  ∧ syncSends .wait .wait (fun e => e.testBit 18) true
      (fun x w =>
        let e : SWait :=
          { core := x.n, age := x.g.age, ctx := x.g.ctx, cond := (w.mod.setWidth 2).toNat, operand := gReg x.g (lead x) w.b.toNat,
            deadline := none, left := none, d := w.d.toNat, mask := x.act }
        .wait e (limit w)) (fun _ _ _ => True)
  ∧ syncSends .watch .watch (fun e => e.testBit 18) true
      (fun x w =>
        let e : SWatch :=
          { ctx := x.g.ctx, cond := (w.mod.setWidth 2).toNat, operand := gReg x.g (lead x) w.b.toNat,
            tag := w.ext.extractLsb' 32 32, vs := (gReg x.g (lead x) w.a.toNat).toNat % 65536,
            dest := .queue (w.ext.setWidth 20).toNat }
        .watch e w.d.toNat x.act)
      (fun s x w => ∃ d, descOf s (w.ext.setWidth 20).toNat = some d ∧ d.owner = x.g.ctx ∧ (d.ty = 2 ∨ d.ty = 3))
  ∧ syncSends .sread .sread (fun e => e.testBit 18) true (fun x w => .sread w.d.toNat x.act) (fun _ _ _ => True)
  ∧ syncSends .sarm .sarm (fun e => e.testBit 19) false (fun x w => .sarm (w.mod.getLsbD 0) (gReg x.g (lead x) w.b.toNat))
      (fun _ _ _ => True)
  ∧ syncSends .wcancel .wcancel (fun e => e.testBit 18) true
      (fun x w => .wcancel (gReg x.g (lead x) w.b.toNat) w.d.toNat x.act) (fun _ _ _ => True)

/-- 10 R233, R228-R230: in an arbitration cycle of an object a SIGNAL that has reached it adds to its counter modulo 2^32, and a wait whose
condition then holds ends with MET: its group receives outcome 0 and the counter in D and D + 1 and is ready again; a wait whose condition
does not hold stays. 10 R236: SARM arms the object and sets its counter where SET says so.
10 R229: the conditions of waits and watches: AT_LEAST compares modulo 2^32, EQUAL, and ALL_BITS.
10 R231, R233, Table 10.4: a WAIT whose timeout has passed ends with TIMEOUT (1) and the counter, and leaves the object, unless a SIGNAL that has
reached the object meets it: it is applied first, and the WAIT ends with MET (0); one whose timeout has not passed goes on. 10 R242: so does an FFWAIT.
10 R232: the segment's first held message for a queue leaves the segment for the queue when the queue has room, and stays where it has
none.
10 R246: SYN_CTRL.XLT_INVAL empties the translation caches of its die's clusters and no other. -/
def Obligations.SyncArbitration : Prop :=
  (
    (∀ (obj : Fin 65536) (s : State) (v : W32) (fab : Bool) (ctx : Nat), s.sync.bad.contains obj.val = false →
      s.sync.msgs = [{ obj := obj.val, frm := none, ctx := ctx, ord := 0, pc := 0, mask := 0, op := .signal v fab }] →
      (objOf s obj.val).st ≠ .abandoned → (objOf s obj.val).watches = [] →
      ((objOf s obj.val).waits = [] → completes (.syncArbitration obj) s (fun t =>
        objOf t obj.val = { objOf s obj.val with cnt := (objOf s obj.val).cnt + v } ∧ t.sync.msgs = [] ∧ t.mem = s.mem
        ∧ t.cores = s.cores ∧ ∀ p, p ≠ obj.val → objOf t p = objOf s p))
      ∧ (∀ (y : SWait) (i : Nat) (g : Group), (objOf s obj.val).waits = [y] → isPreempted s y.ctx = false → y.left = none →
        recOfAge (coreOf s y.core) y.age = none → slotOfAge (coreOf s y.core) y.age = some i → groupOf s y.core i = some g →
        let c := (objOf s obj.val).cnt + v
        (condHolds y.cond c y.operand = true → completes (.syncArbitration obj) s (fun t =>
          objOf t obj.val = { objOf s obj.val with cnt := c, waits := [] }
          ∧ ∃ g', groupOf t y.core i = some g' ∧ g'.wait = .none
            ∧ ∀ k, k < g.threads.length → thr g' k =
                if y.mask.getLsbD k then ((thr g k).setReg y.d 0).setReg (y.d + 1) c else thr g k))
        ∧ (condHolds y.cond c y.operand = false → completes (.syncArbitration obj) s (fun t =>
          objOf t obj.val = { objOf s obj.val with cnt := c } ∧ t.cores = s.cores))))
    ∧ (∀ (obj : Fin 65536) (s : State) (set : Bool) (v : W32) (ctx : Nat), s.sync.bad.contains obj.val = false →
      s.sync.msgs = [{ obj := obj.val, frm := none, ctx := ctx, ord := 0, pc := 0, mask := 0, op := .sarm set v }] →
      (objOf s obj.val).waits = [] → (objOf s obj.val).watches = [] → completes (.syncArbitration obj) s (fun t =>
        objOf t obj.val = { objOf s obj.val with st := .armed, cnt := if set then v else (objOf s obj.val).cnt })))
  ∧ (
    ∀ c v : W32, (condHolds 0 c v = true ↔ (c - v).toNat < 2 ^ 31) ∧ (condHolds 1 c v = true ↔ c = v)
      ∧ (condHolds 2 c v = true ↔ ∀ i, v.getLsbD i = true → c.getLsbD i = true))
  ∧ (
    (∀ (n : Fin 48) (i : Fin 32) (s : State) (g : Group) (d p : Nat) (m : BitVec 32) (y : SWait) (dl : Nat),
      groupOf s n.val i.val = some g → g.wait = .sync d m → timerKept s n.val g.age = false →
      waitObj s n.val g.age = some (p, y) → y.deadline = some dl → y.core = n.val → y.age = g.age →
      recOfAge (coreOf s n.val) g.age = none → slotOfAge (coreOf s n.val) g.age = some i.val →
      (objOf s p).waits = [y] → (objOf s p).watches = [] → (objOf s p).st ≠ .abandoned → isPreempted s y.ctx = false → y.left = none →
      s.sync.bad.contains p = false →
      (dl ≤ toCkOf s n.val → condHolds y.cond (objOf s p).cnt y.operand = false → (∀ m ∈ s.sync.msgs, m.obj ≠ p) →
        completes (.waitTimeout n (.slot i)) s (fun t =>
        (objOf t p).waits = [] ∧ (objOf t p).cnt = (objOf s p).cnt
        ∧ ∃ g', groupOf t n.val i.val = some g' ∧ g'.wait = .none ∧ ∀ k, k < g.threads.length → thr g' k =
            if y.mask.getLsbD k then ((thr g k).setReg y.d 1).setReg (y.d + 1) (objOf s p).cnt else thr g k))
      ∧ (∀ (v : W32) (fab : Bool) (ctx : Nat), dl ≤ toCkOf s n.val →
        s.sync.msgs = [{ obj := p, frm := none, ctx := ctx, ord := 0, pc := 0, mask := 0, op := .signal v fab }] →
        completes (.waitTimeout n (.slot i)) s (fun t =>
        let c := (objOf s p).cnt + v
        (objOf t p).waits = [] ∧ (objOf t p).cnt = c
        ∧ ∃ g', groupOf t n.val i.val = some g' ∧ g'.wait = .none ∧ ∀ k, k < g.threads.length → thr g' k =
            if y.mask.getLsbD k then
              ((thr g k).setReg y.d (if condHolds y.cond c y.operand then 0 else 1)).setReg (y.d + 1) c
            else thr g k))
      ∧ (toCkOf s n.val < dl → exec (.waitTimeout n (.slot i)) s = .next s))
    ∧ (∀ (n : Fin 48) (i : Fin 32) (s : State) (g : Group) (l d : Nat) (m : BitVec 32) (gen dl : Nat),
      groupOf s n.val i.val = some g → g.wait = .firefly l d m gen (some dl) → timerKept s n.val g.age = false →
      recOfAge (coreOf s n.val) g.age = none → slotOfAge (coreOf s n.val) g.age = some i.val →
      (dl ≤ toCkOf s n.val → completes (.waitTimeout n (.slot i)) s (fun t => ∃ g', groupOf t n.val i.val = some g' ∧ g'.wait = .none
          ∧ ∀ k, k < g.threads.length → thr g' k = if m.getLsbD k then (thr g k).setReg d 1 else thr g k))
      ∧ (toCkOf s n.val < dl → exec (.waitTimeout n (.slot i)) s = .next s)))
  ∧ (
    ∀ (seg : Fin 16) (qid i : Nat) (h : HeldMsg) (d : QDesc) (s : State),
      findIdxFrom (fun (h : HeldMsg) => h.qid == qid) 0 (segHeld s seg.val) = some (i, h) → descOf s qid = some d →
      (canAppend s d = true → completes (.watchMsgDeliver seg qid) s (fun t =>
        segHeld t seg.val = dropAt (segHeld s seg.val) i ∧ ∃ d', SMap.get? t.que.descs qid = some d' ∧ d'.prod = d.prod + 1))
      ∧ (canAppend s d = false → exec (.watchMsgDeliver seg qid) s = .next s))
  ∧ (
    ∀ (u : Nat) (s : State), u < 4 → fwStore .synXltInval .syn u 0x008 2 s (fun t =>
      (∀ k, SMap.get? t.sync.cache k = if k / 4 = u then none else SMap.get? s.sync.cache k)
      ∧ { t with sync := { t.sync with cache := s.sync.cache } } = s))

/-- 10 R240-R242: FFARRIVE records its core's arrival at a line its context holds, with FF_DENIED (0x23) where it holds none; FFWAIT makes the
group wait for the release of its core's last arrival.
10 R241-R243: a line is released once every participating core has arrived and its pins are high: it is kept released for 16 ns, or 64 ns
where it is bound, and driven low again then; a pin the module drives low cannot rise; firmware writes FF_PIN, which keeps both bindings disabled on a board spare in relay mode. -/
def Obligations.FireflyLines : Prop :=
  (
    (∀ (u : Issue) (w : Lpk) (s : State) (x : Iss) (s1 : State), issuing .ffarrive u w anyRoom s x s1 → x.act ≠ 0 →
      let l := (w.mod.setWidth 3).toNat
      (ffHolds s x.g.ctx l = true → (ffCores s l).testBit x.n = true → completes (.ffarrive u w) s (fun t =>
        (ffLine t l).arrs = (ffLine s l).arrs ++ [{ core := x.n, age := x.g.age, ord := x.ord, mask := x.act }]
        ∧ (ffLine t l).came.contains x.n = true
        ∧ groupNow x x.g t (fun g => ∀ k, k < x.g.threads.length → thr g k = stepThread x (fun _ h => h) k (thr x.g k))))
      ∧ (ffHolds s x.g.ctx l = false → completes (.ffarrive u w) s (faultsAt x 0x23 0 0 x.act false s)))
    ∧ (∀ (u : Issue) (w : Lpk) (s : State) (x : Iss) (s1 : State), issuing .ffwait u w anyRoom s x s1 → x.act ≠ 0 →
      let l := (w.mod.setWidth 3).toNat
      ffHolds s x.g.ctx l = true → completes (.ffwait u w) s (fun t => ∃ g, groupOf t x.n x.i = some g
        ∧ (∀ gen, ffTarget (ffLine s l) x.n = some gen →
            g.wait = .firefly l w.d.toNat x.act gen (if w.ext = 0 then none else some (toCkOf s x.n + w.ext.toNat)))
        ∧ (ffTarget (ffLine s l) x.n = none → g.wait = x.g.wait ∧ ∀ k, k < x.g.threads.length → x.act.getLsbD k = true →
            thr g k = { (thr x.g k).setReg w.d.toNat 0 with pc := x.pc + x.len }))))
  ∧ (
    (∀ (l : Fin 8) (s : State), (ffLine s l.val).hold = none → ffCores s l.val % 2 ^ 48 ≠ 0 →
      (ffLevel s l.val = true → completes (.fireflyRelease l) s (fun t =>
        (ffLine t l.val).hold = some (s.now + if pinBound s 0 l.val || pinBound s 1 l.val then 64 else 16)
        ∧ (∀ n, n < 48 → (ffCores s l.val).testBit n = true →
            SMap.getD (ffLine t l.val).gen n 0 = (SMap.getD (ffLine s l.val).gen n 0 + 1) % 256)
        ∧ t.mem = s.mem))
      ∧ (ffLevel s l.val = false → exec (.fireflyRelease l) s = .next s))
    ∧ (∀ (l : Fin 8) (s : State) (d : Nat), (ffLine s l.val).hold = some d →
      (d ≤ s.now → completes (.fireflyHoldEnd l) s (fun t => (ffLine t l.val).hold = none ∧ t.cores = s.cores ∧ t.mem = s.mem))
      ∧ (s.now < d → exec (.fireflyHoldEnd l) s = .next s))
    ∧ (∀ (pin : Fin 2) (high : Bool) (s : State),
      ((high && pinLow s pin.val) = false → completes (.fflyPinEdge pin high) s (fun t =>
        nth t.sync.pins pin.val true = high ∧ { t with sync := s.sync } = s))
      ∧ ((high && pinLow s pin.val) = true → exec (.fflyPinEdge pin high) s = .next s))
    ∧ (∀ (v : W64) (s : State), v.toNat < 2 ^ 32 → ffPinReserved v.toNat = false → fwStore .ffPinWrite .syn 0 0x108 v s (fun t =>
        (s.fab.relay = false → regGet t (regAddr .syn 0 0x108) = v.toNat % 512)
      ∧ (s.fab.relay = true → regGet t (regAddr .syn 0 0x108) = (v &&& 0x177).toNat) ∧ t.sync.pinHold = false)))

/-! ### The vector engine -/

/-- 06 R115-R117, Table 6.1, 07 Table 7.5: a tile instruction or CHRUN takes its entry in the core's vector queue with the address or register
it names by G; a group that issues TEXT waits for its element. -/
def Obligations.VectorInstructionsQueue : Prop :=
  let lead : Iss → Nat := fun x => (lowTid x.act).getD 0
  let field : Lpk → Nat := fun w => (w.mod.extractLsb' 21 6).toNat
  let one : Iss → Lpk → Nat := fun x w => (gReg x.g (lead x) (field w)).toNat
  let addr : Iss → Lpk → Nat := fun x w =>
    if w.mod.getLsbD 20 then one x w else one x w + 2 ^ 32 * (gReg x.g (lead x) (field w + 1)).toNat
  vecEnters .tld .tld false 0x01 addr none
  ∧ vecEnters .tst .tst false 0x02 addr none
  ∧ vecEnters .tgather .tgather false 0x03 addr none
  ∧ vecEnters .tmov .tmov false 0x04 one none
  ∧ vecEnters .tadd .tadd false 0x05 one none
  ∧ vecEnters .tmul .tmul false 0x06 one none
  ∧ vecEnters .tfma .tfma false 0x07 one none
  ∧ vecEnters .tmin .tmin false 0x08 one none
  ∧ vecEnters .tmax .tmax false 0x09 one none
  ∧ vecEnters .tcmp .tcmp false 0x0A one none
  ∧ vecEnters .tsel .tsel false 0x0B one none
  ∧ vecEnters .tcvt .tcvt false 0x0C one none
  ∧ vecEnters .tsfu .tsfu false 0x0D one none
  ∧ vecEnters .tred .tred false 0x0E one none
  ∧ vecEnters .tbcast .tbcast false 0x0F one none
  ∧ vecEnters .text .text false 0x10 (fun _ _ => 0) (some .text)
  ∧ vecEnters .mld .mld false 0x11 addr none
  ∧ vecEnters .mst .mst false 0x12 addr none
  ∧ vecEnters .ocload .ocload false 0x13 one none
  ∧ vecEnters .ocstore .ocstore false 0x14 one none
  ∧ vecEnters .chrun .chrun true 0x01 one none

/-- 06 Table 6.1, R112, R131: what the vector queue's head does to the active elements of its tile register, its mask tile or its group, one
element at a time: TMOV, TADD, TMUL, TFMA, TMIN, TMAX, TSEL, TCVT, TSFU, TBCAST, TCMP and TEXT. -/
def Obligations.TileInstructionResults : Prop :=
  let a : VecEntry → Group → Nat → W32 := fun e g j => tElem g e.w.a.toNat j
  let b : VecEntry → Group → Nat → W32 := fun e g j => tElem g e.w.b.toNat j
  tileResult .tmov (fun e g j => ⟨a e g j, 0⟩)
  ∧ tileResult .tadd (fun e g j => fadd (a e g j) (b e g j))
  ∧ tileResult .tmul (fun e g j => fmul (a e g j) (b e g j))
  ∧ tileResult .tfma (fun e g j => ffma (a e g j) (b e g j) (tElem g e.w.d.toNat j))
  ∧ tileResult .tmin (fun e g j => ⟨fmin (a e g j) (b e g j), 0⟩)
  ∧ tileResult .tmax (fun e g j => ⟨fmax (a e g j) (b e g j), 0⟩)
  ∧ tileResult .tsel (fun e g j => ⟨if (maskTile g (e.w.mod.setWidth 3).toNat).getLsbD j then a e g j else b e g j, 0⟩)
  ∧ tileResult .tcvt (fun e g j => fconvert (e.w.mod.setWidth 4).toNat (a e g j))
  ∧ tileResult .tsfu (fun e g j => sfu (e.w.mod.setWidth 3).toNat (a e g j))
  ∧ tileResult .tbcast (fun e _ _ => ⟨BitVec.ofNat 32 e.g, 0⟩)
  ∧ (∀ (n : Fin 48) (s : State) (i : Nat) (g : Group) (e : VecEntry) (rest : List VecEntry), vecHead s n.val i g e rest →
      e.chain = false → e.opc = 0x0A → g.mtiles.length = 7 →
      let m := maskTile g (modF e.w 27 3)
      let d := (e.w.d.setWidth 3).toNat
      completes (.vecqExecute n .clean) s (fun t => (coreOf t n.val).vecq = rest ∧ t.mem = s.mem
        ∧ ∃ g', groupOf t n.val i = some g' ∧ g'.tiles = g.tiles ∧ g'.threads = g.threads
          ∧ (d ≠ 0 → ∀ j, j < 256 → (maskTile g' d).getLsbD j =
              if m.getLsbD j then (fcond (e.w.mod.setWidth 3).toNat (a e g j) (b e g j)).1 else (maskTile g d).getLsbD j)
          ∧ (∀ k, k < 8 → k ≠ d → maskTile g' k = maskTile g k) ∧ (d = 0 → g'.mtiles = g.mtiles)))
  ∧ (∀ (n : Fin 48) (s : State) (i : Nat) (g : Group) (e : VecEntry) (rest : List VecEntry), vecHead s n.val i g e rest →
      e.chain = false → e.opc = 0x10 → g.wait = .text →
      completes (.vecqExecute n .clean) s (fun t => (coreOf t n.val).vecq = rest ∧ t.mem = s.mem
        ∧ ∃ g', groupOf t n.val i = some g' ∧ g'.wait = .none ∧ g'.tiles = g.tiles
          ∧ ∀ k, k < g.threads.length → thr g' k = if e.mask.getLsbD k
              then (thr g k).setReg (e.w.mod.extractLsb' 21 6).toNat (a e g (e.w.mod.setWidth 8).toNat) else thr g k))

/-- 06 R116, R124, R136, R137: a group that issues TFENCE waits until no entry of it is left in the vector queue; CHBIND binds the chain
descriptor at g(G) with its mask to the group and CHUNBIND ends the binding; VEC_CFG changes only while the vector engine is empty and no
binding exists, and sets FENCE_REFUSED else; CLR_CHECK clears the low half of VEC_CHECK. -/
def Obligations.VectorFenceAndBinding : Prop :=
  (∀ (u : Issue) (w : Lpk) (s : State) (x : Iss) (s1 : State), issuing .tfence u w anyRoom s x s1 → x.act ≠ 0 →
    completes (.tfence u w) s (fun t => groupNow x { x.g with wait := .tfence } t (fun g =>
        ∀ k, k < x.g.threads.length → thr g k = stepThread x (fun _ h => h) k (thr x.g k))
      ∧ groupOnly x.n x.i (issueReg x.n) s t))
  ∧ (∀ (u : Slot) (s : State) (g : Group), groupOf s u.core.val u.slot.val = some g → g.wait = .tfence →
    ((∀ e ∈ (coreOf s u.core.val).vecq, e.age ≠ g.age) → completes (.tfenceComplete u) s (fun t =>
      groupOf t u.core.val u.slot.val = some { g with wait := .none }
      ∧ groupOnly u.core.val u.slot.val (fun _ => False) s t))
    ∧ ((∃ e ∈ (coreOf s u.core.val).vecq, e.age = g.age) → exec (.tfenceComplete u) s = .next s))
  ∧ (∀ (u : Issue) (w : Lpk) (s : State) (x : Iss) (s1 : State), issuing .chbind u w anyRoom s x s1 → x.act ≠ 0 →
    let v := (gReg x.g ((lowTid x.act).getD 0) (w.mod.extractLsb' 21 6).toNat).toNat
    completes (.chbind u w) s (fun t => groupNow x { x.g with bind := some (v, (w.mod.extractLsb' 27 3).toNat) } t (fun g =>
        ∀ k, k < x.g.threads.length → thr g k = stepThread x (fun _ h => h) k (thr x.g k))
      ∧ groupOnly x.n x.i (issueReg x.n) s t))
  ∧ (∀ (u : Issue) (w : Lpk) (s : State) (x : Iss) (s1 : State), issuing .chunbind u w anyRoom s x s1 → x.act ≠ 0 →
    completes (.chunbind u w) s (fun t => groupNow x { x.g with bind := none } t (fun g =>
        ∀ k, k < x.g.threads.length → thr g k = stepThread x (fun _ h => h) k (thr x.g k))
      ∧ groupOnly x.n x.i (issueReg x.n) s t))
  ∧ (∀ (u : Nat) (v : W64) (s : State), u < 48 →
    (((coreOf s u).vecq = [] ∧ bindings (coreOf s u) = 0 ∧ fusedNext s u = none) → fwStore .vecFenceWrite .vec u 0 v s (fun t =>
      regGet t (regAddr .vec u 0) = v.toNat % 16 ∧ { t with regs := s.regs } = s))
    ∧ (¬((coreOf s u).vecq = [] ∧ bindings (coreOf s u) = 0 ∧ fusedNext s u = none) → fwStore .vecFenceWrite .vec u 0 v s (fun t =>
      regGet t (regAddr .vec u 0) = regGet s (regAddr .vec u 0) ∧ (regGet t (regAddr .vec u 0x008)).testBit 20 = true
      ∧ { t with regs := s.regs } = s)))
  ∧ (∀ (u : Nat) (s : State), u < 48 → fwStore .vecClrCheck .vec u 0x020 2 s (fun t =>
      regGet t (regAddr .vec u 0x018) = regGet s (regAddr .vec u 0x018) / 2 ^ 32 * 2 ^ 32
      ∧ (∀ a, a ≠ regAddr .vec u 0x018 → regGet t a = regGet s a) ∧ { t with regs := s.regs } = s))

/-! ### Queues, launches and parked groups -/

/-- 16 R381, Table 16.18: QSTAT returns the indices of a queue of the context; QPUT copies an entry from the scratchpad into the slot at PROD and
advances PROD, all ones where the queue is full; QGET copies the entry at CONS into the scratchpad and advances CONS, 1 where it is empty;
SYS_QUEUE (0x70) at a queue that is not the context's or not of the type, SYS_OFFSET (0x71) at a scratchpad range outside the area. -/
def Obligations.SystemInstructions : Prop :=
  (∀ (u : Issue) (w : Lpk) (s : State) (x : Iss) (s1 : State) (d : QDesc), issuing .qstat u w anyRoom s x s1 → x.act ≠ 0 →
    descOf s (sysQid x w) = some d →
    (d.owner = x.g.ctx → completes (.qstat u w) s (fun t => replied x w d.prod (some d.cons) t ∧ t.mem = s.mem ∧ t.que.descs = s.que.descs))
    ∧ (d.owner ≠ x.g.ctx → completes (.qstat u w) s (parkedAt x 0x70 x.act s)))
  ∧ (∀ (u : Issue) (w : Lpk) (s : State) (x : Iss) (s1 : State) (d : QDesc),
    issuing .qput u w (fun _ => qputReady s u && !qputHeld s u w) s x s1 → x.act ≠ 0 → descOf s (sysQid x w) = some d →
    let off := (gReg x.g (leadOf x) w.b.toNat).toNat
    let mine := d.owner = x.g.ctx ∧ (d.ty = 0 ∨ d.ty = 1 ∨ d.ty = 3)
    let inside := off % 32 = 0 ∧ off + 32 * d.esize ≤ x.g.spadBytes
    (mine → inside → qHeld d < 2 ^ d.log2n → winsIdle s → completes (.qput u w) s (fun t => replied x w d.prod none t
      ∧ (∀ i, i < 32 * d.esize → memByte t (qSlot d d.prod + i) = memByte s (x.g.spadBase + off + i))
      ∧ ∃ d', descOf t (sysQid x w) = some d' ∧ d'.prod = d.prod + 1 ∧ d'.cons = d.cons))
    ∧ (mine → inside → 2 ^ d.log2n ≤ qHeld d → completes (.qput u w) s (fun t => replied x w 0xFFFFFFFF none t
      ∧ t.mem = s.mem ∧ t.que.descs = s.que.descs))
    ∧ (mine → ¬inside → completes (.qput u w) s (parkedAt x 0x71 x.act s))
    ∧ (¬mine → completes (.qput u w) s (parkedAt x 0x70 x.act s)))
  ∧ (∀ (u : Issue) (w : Lpk) (s : State) (x : Iss) (s1 : State) (d : QDesc), issuing .qget u w anyRoom s x s1 → x.act ≠ 0 →
    descOf s (sysQid x w) = some d →
    let off := (gReg x.g (leadOf x) w.b.toNat).toNat
    let mine := d.owner = x.g.ctx ∧ (d.ty = 2 ∨ d.ty = 3) ∧ d.hostCons = false
    let inside := off % 32 = 0 ∧ off + 32 * d.esize ≤ x.g.spadBytes
    (mine → inside → d.prod ≠ d.cons → noRed s → winsIdle s → completes (.qget u w) s (fun t => replied x w 0 none t
      ∧ (∀ i, i < 32 * d.esize → memByte t (x.g.spadBase + off + i) = memByte s (qSlot d d.cons + i))
      ∧ (∀ a, (a < x.g.spadBase + off ∨ x.g.spadBase + off + 32 * d.esize ≤ a) → memByte t a = memByte s a)
      ∧ ∃ d', descOf t (sysQid x w) = some d' ∧ d'.cons = d.cons + 1 ∧ d'.prod = d.prod))
    ∧ (mine → inside → d.prod = d.cons → completes (.qget u w) s (fun t => replied x w 1 none t
      ∧ t.mem = s.mem ∧ t.que.descs = s.que.descs))
    ∧ (mine → ¬inside → completes (.qget u w) s (parkedAt x 0x71 x.act s))
    ∧ (¬mine → completes (.qget u w) s (parkedAt x 0x70 x.act s)))

/-- 16 R374, R375: a host's doorbell word with an index that adds no more entries than the queue has room for, or takes no more than it holds,
becomes PROD or CONS; any other leaves the indices and is counted in the descriptor. R376: the first entry held for a queue is written when
the queue has room. R382: QUE_CTRL.FLUSH changes nothing a program sees. -/
def Obligations.DoorbellsAndHeldEvents : Prop :=
  (∀ (qid : Nat) (s : State) (d : QDesc) (v : W64), qid < 2 ^ 20 → s.pkg.held = false → descOf s qid = some d →
    let w : RegWr := { src := .host, addr := 0xFE0000000000 + 8 * qid, bytes := 8, value := v }
    let idx : W32 := v.setWidth 32
    ((d.ty = 0 ∨ d.ty = 1) → d.hostProd = true → v.getLsbD 32 = false → isQuiesced s d.owner = false →
      ((idx - d.prod).toNat ≤ 2 ^ d.log2n - qHeld d → completes (.doorbell w) s (fun t =>
        ∃ d', descOf t qid = some d' ∧ d'.prod = idx ∧ d'.cons = d.cons ∧ d'.refused = d.refused))
      ∧ (2 ^ d.log2n - qHeld d < (idx - d.prod).toNat → completes (.doorbell w) s (fun t =>
        ∃ d', descOf t qid = some d' ∧ d'.prod = d.prod ∧ d'.cons = d.cons ∧ d'.refused = d.refused + 1)))
    ∧ ((d.ty = 2 ∨ d.ty = 3) → d.hostCons = true → v.getLsbD 32 = true →
      ((idx - d.cons).toNat ≤ qHeld d → completes (.doorbell w) s (fun t =>
        ∃ d', descOf t qid = some d' ∧ d'.prod = d.prod ∧ d'.cons = idx ∧ d'.refused = d.refused))
      ∧ (qHeld d < (idx - d.cons).toNat → completes (.doorbell w) s (fun t =>
        ∃ d', descOf t qid = some d' ∧ d'.prod = d.prod ∧ d'.cons = d.cons ∧ d'.refused = d.refused + 1))))
  ∧ (∀ (qid i : Nat) (h : HeldEv) (s : State) (d : QDesc), findIdxFrom (fun (h : HeldEv) => h.qid == qid) 0 s.que.held = some (i, h) →
    descOf s qid = some d →
    (canAppend s d = true → winsIdle s → completes (.heldEventPost qid) s (fun t => t.que.held = dropAt s.que.held i
      ∧ (∀ k, k < 32 * d.esize → memByte t (qSlot d d.prod + k) = nth h.bytes k 0)
      ∧ ∃ d', descOf t qid = some d' ∧ d'.prod = d.prod + 1 ∧ d'.cons = d.cons))
    ∧ (canAppend s d = false → exec (.heldEventPost qid) s = .next s))
  ∧ (∀ (s : State), fwStore .queFlush .que 0 0x008 2 s (fun t => t = s))

/-- 16 R377, R378, 07 R138: the queue block takes the next entry of a LAUNCH queue, which starts, waits for its START condition, or fails;
a START watch that found no free entry is tried again; the next group of a started launch starts in the lowest free slot of a core with 32
live threads at the kernel's entry; a launch whose groups have all ended is forgotten. -/
def Obligations.LaunchSteps : Prop :=
  (∀ (qid : Nat) (s : State) (d : QDesc), descOf s qid = some d → d.ty = 0 → d.take ≠ d.prod → d.startWait = none →
    stopsLaunch s d.owner = false → isQuiesced s d.owner = false →
    let s' := modDesc (touchDesc (engRead s d.owner (qSlot d d.take) 64).2 qid) qid (fun d => { d with take := d.take + 1 })
    let e := ringEntry s' d d.take
    (∀ r, checkEntry s' qid d d.take e = .error r → completes (.launchEntryTake qid) s (fun t =>
      t.que.launches = s.que.launches ∧ t.que.nextLaunch = s.que.nextLaunch ∧ ∃ d', descOf t qid = some d' ∧ d'.take = d.take + 1))
    ∧ (∀ l, checkEntry s' qid d d.take e = .ok l → (nth e 0x0B 0).getLsbD 0 = false → completes (.launchEntryTake qid) s (fun t =>
      SMap.get? t.que.launches s.que.nextLaunch = some { l with started := true } ∧ t.que.nextLaunch = s.que.nextLaunch + 1
      ∧ t.cores = s.cores ∧ ∃ d', descOf t qid = some d' ∧ d'.take = d.take + 1 ∧ d'.cons = d.cons)))
  ∧ (∀ (qid id : Nat) (s : State) (d : QDesc) (l : Launch), descOf s qid = some d → d.startWait = some (id, false) →
    SMap.get? s.que.launches id = some l →
    let e := ringEntry s d l.index
    let x := xlatSeen s 0 d.owner (entField e 0x20 2)
    let y : SWatch :=
      { ctx := d.owner, cond := 0, operand := BitVec.ofNat 32 (entField e 0x24 4), tag := 0, vs := entField e 0x20 2,
        dest := .launch qid }
    ((x.testBit 16 && x.testBit 18) = true → watchesTaken s (objSeg (x % 65536)) < 1024 → completes (.launchWatchRetry qid) s (fun t =>
      t.que.launches = s.que.launches
      ∧ (∃ m, t.sync.msgs = s.sync.msgs ++ [m] ∧ m.obj = x % 65536 ∧ m.op = .watch y 0 0)
      ∧ ∃ d', descOf t qid = some d' ∧ d'.startWait = some (id, true)))
    ∧ ((x.testBit 16 && x.testBit 18) = false → completes (.launchWatchRetry qid) s (fun t => SMap.get? t.que.launches id = none)))
  ∧ (∀ (id : Nat) (n : Fin 48) (s : State) (l : Launch) (kn : Kernel) (i : Nat) (r : Area × Area × State),
    SMap.get? s.que.launches id = some l → SMap.get? s.kernels l.kernel = some kn → freeSlot (coreOf s n.val) = some i →
    l.started = true → l.cut = false → stopsLaunch s l.ctx = false → l.cores.testBit n.val = true →
    SMap.getD l.placed n.val 0 < l.groups → coreRuns s n.val = true → launchBehind s id l n.val = false →
    (∀ r ∈ (coreOf s n.val).recs, r.st ≠ .restoring) → tilesHeld (coreOf s n.val) + kn.tregs ≤ 64 →
    allocAreas s n.val id kn.spad kn.oc = some r → completes (.launchPlace id n) s (fun t =>
      (∃ g, groupOf t n.val i = some g ∧ g.ctx = l.ctx ∧ g.launch = id ∧ g.kernel = l.kernel ∧ g.sgid = SMap.getD l.placed n.val 0
        ∧ g.age = (coreOf s n.val).seq ∧ g.arg = l.arg ∧ g.spadBase = spadBase n.val + r.1.base ∧ g.ocBase = r.2.1.base
        ∧ g.threads = List.replicate 32 (Thread.start l.entryPc (BitVec.ofNat 32 l.tokbase)) ∧ g.numf = 0 ∧ g.fpf = 0 ∧ g.fpl = 0
        ∧ g.tiles = List.replicate kn.tregs (List.replicate 256 0) ∧ g.mtiles = List.replicate 7 0)
      ∧ SMap.get? t.que.launches id = some { l with placed := SMap.put l.placed n.val (SMap.getD l.placed n.val 0 + 1) }
      ∧ (∀ m, m ≠ n.val → coreOf t m = coreOf s m)))
  ∧ (∀ (id : Nat) (s : State) (l : Launch), SMap.get? s.que.launches id = some l → l.cut = false → allPlaced l = true →
    (∀ n, n < 48 → l.cores.testBit n = true → SMap.getD l.ended n 0 = l.groups ∧ ∀ g ∈ (coreOf s n).ended, g.launch ≠ id) → completes (.launchComplete id) s (fun t =>
      SMap.get? t.que.launches id = none ∧ t.cores = s.cores
      ∧ (let x := xlatSeen s 0 l.ctx l.doneVs
         l.doneSig = true → (x.testBit 16 && x.testBit 17) = true →
           s.sync.msgs ++ [{ obj := x % 65536, frm := none, ctx := l.ctx, pc := 0, ord := 0, mask := 0, op := .signal 1 false }]
             <+: t.sync.msgs)))

/-- 07 R158-R160, Table 7.7: a faulted group at its instruction boundary leaves its slot for the lowest FREE park record, which then holds its
cause, PC, faulting and live threads; nothing parks a group that has not faulted. A group that waits in a WAIT is suspended into a record
when a launch needs its slot.
07 R160, R161, R458: the oldest group to be restored takes the lowest free slot with its state reloaded and the outcome of its wait; a
REPLAY or ABORT of a record that is not PARKED gives NOT_PARKED (1); ABORT frees the record and the group ends; a REPLAY of a record that
was changed beyond what may change gives BAD_RECORD (2); PRESUME does the same for its own context's records and returns the code in D, and gives
NOT_PARKED where a THR_PARKCTL write reached the record in the same ck (R162). -/
def Obligations.GroupRecords : Prop :=
  (
    (∀ (u : Slot) (s : State) (g : Group) (p : ParkReq) (r : Nat), groupOf s u.core.val u.slot.val = some g →
      let n := u.core.val
      g.park = some p → freeRec (coreOf s n) = some r → coreRuns s n = true → g.wait = .none → mayLeave s n g = true →
      (g.fences = [] ∨ p.cause = 0x04) → g.threads.length = 32 →
      (∀ c d k, SMap.get? s.ctxs g.ctx = some c → descOf s c.evq = some d → qSlot d k + 32 * d.esize ≤ recAddr n r ∨ recAddr n r + 512 ≤ qSlot d k) →
      completes (.park u) s (fun t => groupOf t n u.slot.val = none
        ∧ (nth (coreOf t n).recs r Rec.reset).st = .parked
        ∧ (nth (coreOf t n).recs r Rec.reset).grp = some { g with park := none, fences := [], numf := 0, fpf := 0, fpl := noFpl }
        ∧ memNat t (recAddr n r) 4 = causeWord p false % 2 ^ 32 ∧ memNat t (recAddr n r + 0x008) 4 = p.pc % 2 ^ 32
        ∧ memNat t (recAddr n r + 0x018) 8 = g.age % 2 ^ 64 ∧ memNat t (recAddr n r + 0x030) 4 = p.mask.toNat
        ∧ memNat t (recAddr n r + 0x034) 4 = (liveMask g).toNat
        ∧ (∀ k, k < 32 → memNat t (recAddr n r + 0x080 + 4 * k) 4 = (thr g k).pc % 2 ^ 32)
        ∧ ∀ m j, ¬(m = n ∧ j = u.slot.val) → groupOf t m j = groupOf s m j))
    ∧ (∀ (u : Slot) (s : State) (g : Group), groupOf s u.core.val u.slot.val = some g → g.park = none → exec (.park u) s = .next s)
    ∧ (∀ (u : Slot) (s : State) (g : Group) (r : Nat), groupOf s u.core.val u.slot.val = some g →
      let n := u.core.val
      freeRec (coreOf s n) = some r → (regGetD s (regAddr .thr n 0) 0x110).testBit 8 = true → coreRuns s n = true →
      (waitObj s n g.age).isSome = true → g.park = none → g.fences = [] → mayLeave s n g = true → 0 < launchWaits s n →
      freeSlot (coreOf s n) = none → completes (.suspend u) s (fun t => groupOf t n u.slot.val = none
        ∧ (nth (coreOf t n).recs r Rec.reset).st = .suspended
        ∧ (nth (coreOf t n).recs r Rec.reset).grp = some { g with park := none, fences := [], numf := 0, fpf := 0, fpl := noFpl }
        ∧ ∀ m j, ¬(m = n ∧ j = u.slot.val) → groupOf t m j = groupOf s m j)))
  ∧ (
    let rec_ : State → Nat → Nat → Rec := fun s n r => nth (coreOf s n).recs r Rec.reset
    let result : State → Nat → Nat := fun t n => regGet t (regAddr .thr n 0x008) / 2 ^ 40
    let kept : State → State → Prop := fun s t => ∀ m, { coreOf t m with parkHits := (coreOf s m).parkHits } = coreOf s m
    (∀ (n : Fin 48) (r : Fin 32) (s : State) (g : Group) (i : Nat), (rec_ s n.val r.val).grp = some g → (rec_ s n.val r.val).st = .restoring →
      freeSlot (coreOf s n.val) = some i → oldestRestoring s n.val r.val = true → coreRuns s n.val = true →
      isPreempted s g.ctx = false →
      let g1 := if (rec_ s n.val r.val).loaded then g else reloadGroup s n.val r.val g
      let g2 := match (rec_ s n.val r.val).wake with
        | some k => putResult k.d k.mask k.x k.y g1
        | none => g1
      liveMask g2 ≠ 0 → completes (.suspendedRestore n r) s (fun t => groupOf t n.val i = some g2 ∧ rec_ t n.val r.val = Rec.reset
        ∧ t.mem = s.mem ∧ ∀ m, m ≠ n.val → coreOf t m = coreOf s m))
    ∧ (∀ (n r : Nat) (s : State), n < 48 → r < 32 →
      ((rec_ s n r).st ≠ .parked →
        fwStore .parkctlReplay .thr n 0x018 (BitVec.ofNat 64 (r + 0x100)) s (fun t => result t n = 1 ∧ kept s t ∧ t.mem = s.mem)
        ∧ fwStore .parkctlAbort .thr n 0x018 (BitVec.ofNat 64 (r + 0x200)) s (fun t => result t n = 1 ∧ kept s t ∧ t.mem = s.mem))
      ∧ (∀ g, (rec_ s n r).st = .parked → (rec_ s n r).grp = some g →
        fwStore .parkctlAbort .thr n 0x018 (BitVec.ofNat 64 (r + 0x200)) s (fun t => result t n = 0 ∧ rec_ t n r = Rec.reset
          ∧ ∀ m j, groupOf t m j = groupOf s m j)
        ∧ (badRecord s n r (rec_ s n r) g = true →
          fwStore .parkctlReplay .thr n 0x018 (BitVec.ofNat 64 (r + 0x100)) s (fun t => result t n = 2 ∧ kept s t ∧ t.mem = s.mem))
        ∧ (badRecord s n r (rec_ s n r) g = false →
          fwStore .parkctlReplay .thr n 0x018 (BitVec.ofNat 64 (r + 0x100)) s (fun t => result t n = 0 ∧ (rec_ t n r).st ≠ .parked
            ∧ t.mem = s.mem))))
    ∧ (∀ (u : Issue) (w : Lpk) (s : State) (x : Iss) (s1 : State), issuing .presume u w anyRoom s x s1 → x.act ≠ 0 →
      let r := (gReg x.g (leadOf x) w.a.toNat).toNat % 32
      let action := (w.mod.setWidth 2).toNat
      let mine := (rec_ s x.n r).st = .parked ∧ (∃ g, (rec_ s x.n r).grp = some g ∧ g.ctx = x.g.ctx)
        ∧ SMap.get? (coreOf s x.n).parkHits r ≠ some (ckOf s x.n)
      (¬mine → completes (.presume u w) s (fun t => replied x w 1 none t ∧ t.mem = s.mem))
      ∧ (mine → action = 2 → completes (.presume u w) s (fun t => replied x w 0 none t ∧ rec_ t x.n r = Rec.reset))
      ∧ (∀ g, mine → (rec_ s x.n r).grp = some g → action ≠ 2 → badRecord s x.n r (rec_ s x.n r) g = true →
          completes (.presume u w) s (fun t => replied x w 2 none t ∧ (rec_ t x.n r).st = .parked))))

/-! ### The matrix arrays -/

/-- 04 R75, R76, Table 4.2: the matrix instructions take their entries in the core's matrix queue with the registers of their lowest active
thread.
04 R67, R75-R77: at the head of the matrix queue MZERO empties a logical bank its context may use and waits while it is CLOSING or busy;
MWRESET empties a ring; MCHECK returns the residue record and clears its location where it says so; an entry whose check fails leaves with
every later entry of its group, which parks. 02 R32, 03 R51: in canonical mode MSWEEP is split into native sweeps of 512. -/
def Obligations.MatrixQueue : Prop :=
  (
    let f : Lpk → Nat → Nat → Nat := fun w lo n => (w.mod.toNat / 2 ^ lo) % 2 ^ n
    matEnters .msweep .msweep (fun _ w r =>
        .sweep (r w.d) (r w.a) (r w.b) (w.mod.getLsbD 6) (w.mod.getLsbD 2) (f w 3 3) (f w 0 2) (w.ext.toNat % 2 ^ 21)
          (w.ext.toNat / 2 ^ 21 % 2 ^ 8))
    ∧ matEnters .mzero .mzero (fun _ w _ => .zero (f w 0 2))
    ∧ matEnters .mwload .mwload (fun _ w r => .wload (r w.d) (r w.a) (r w.b) (f w 0 1))
    ∧ matEnters .mdrain .mdrain (fun x w r =>
        .drain (r w.d) (r w.a % 65536) (r w.a / 65536) ((r w.b).testBit 31) (r w.b % 65536) (w.mod.getLsbD 9) (w.mod.getLsbD 8) (f w 2 3)
          (f w 0 2) x.g.bind)
    ∧ matEnters .mcheck .mcheck (fun x w _ => .check (w.mod.getLsbD 1) (f w 0 1) w.d.toNat x.act)
    ∧ matEnters .mwreset .mwreset (fun _ w _ => .wreset (f w 0 1)))
  ∧ (
    (∀ (n : Fin 48) (s : State) (e : MatEntry) (rest : List MatEntry) (b : Nat), matHead s n.val e rest → e.op = .zero b → b < 4 →
      let l := bankOf s n.val b
      (l.st = .empty ∨ l.owner = e.ctx) →
      ((l.st ≠ .closing ∧ bankBusy (coreOf s n.val) b = false) → completes (.matqHead n) s (fun t =>
        bankOf t n.val b = LBank.reset ∧ (coreOf t n.val).matq = rest ∧ (∀ c, c ≠ b → bankOf t n.val c = bankOf s n.val c) ∧ t.mem = s.mem))
      ∧ ((l.st = .closing ∨ bankBusy (coreOf s n.val) b = true) → exec (.matqHead n) s = .next s))
    ∧ (∀ (n : Fin 48) (s : State) (e : MatEntry) (rest : List MatEntry) (a : Nat), matHead s n.val e rest → e.op = .wreset a → a < 2 →
      arrBusy (coreOf s n.val) a = false → fillBusy (coreOf s n.val) a = false →
      (∀ b, b / 2 = a → (bankOf s n.val b).st ≠ .opened ∧ (bankOf s n.val b).st ≠ .closing) → completes (.matqHead n) s (fun t =>
        ringOf t n.val a = Ring.reset ∧ (coreOf t n.val).matq = rest ∧ t.mem = s.mem))
    ∧ (∀ (n : Fin 48) (s : State) (e : MatEntry) (rest : List MatEntry) (cl : Bool) (a d i : Nat) (m : BitVec 32) (g : Group),
      matHead s n.val e rest → e.op = .check cl a d m → slotOfAge (coreOf s n.val) e.age = some i → groupOf s n.val i = some g →
      liveMask g ≠ 0 →
      let v := regGet s (regAddr .mat n.val (0x030 + 8 * a))
      completes (.matqHead n) s (fun t => (coreOf t n.val).matq = rest
        ∧ regGet t (regAddr .mat n.val (0x030 + 8 * a)) = (if cl then v / 2 ^ 32 * 2 ^ 32 else v)
        ∧ ∃ g', groupOf t n.val i = some g' ∧ ∀ k, k < g.threads.length → thr g' k = if m.getLsbD k
            then ((thr g k).setReg d (BitVec.ofNat 32 v)).setReg (d + 1) (BitVec.ofNat 32 (v / 2 ^ 32)) else thr g k))
    ∧ (∀ (n : Fin 48) (s : State) (e : MatEntry) (rest : List MatEntry) (c i : Nat) (g : Group), matHead s n.val e rest →
      headOp s n.val e = .fault c → slotOfAge (coreOf s n.val) e.age = some i → groupOf s n.val i = some g → g.park = none →
      completes (.matqHead n) s (fun t => (∀ y ∈ (coreOf t n.val).matq, y ∈ rest ∧ y.age ≠ e.age)
        ∧ (∃ g' p, groupOf t n.val i = some g' ∧ g'.park = some p ∧ p.cause = c ∧ p.precise = false ∧ p.pc = e.pc
            ∧ g'.threads = g.threads)
        ∧ t.mem = s.mem))
    ∧ (∀ (n : Fin 48) (s s1 : State) (e : MatEntry) (rest : List MatEntry) (mtd start koff mode bank k guard : Nat) (retire pair : Bool),
      matHead s n.val e rest → e.op = .sweep mtd start koff retire pair mode bank k guard → headOp s n.val e = .go s1 →
      (∀ b, b < 4 → (bankOf s n.val b).st ≠ .failed) → canonOf s e.ctx = true → completes (.matqHead n) s (fun t =>
        let todo := (coreOf t n.val).stage.todo
        todo.length = (k + 511) / 512
        ∧ ∀ i v, todo[i]? = some v → v.k = min 512 (k - 512 * i) ∧ v.start = start + 512 * i ∧ v.koff = koff + 512 * i
            ∧ v.mode = mode ∧ v.retire = retire)))

/-- 04 R65, R66, R84, R85: a native sweep fills the free physical bank of its array with the sums of its aligned operands; the drain unit adds the
sums of a bank whose check holds into the drain buffer and asks for a replay where it does not; a second mismatch fails the bank.
04 R68, R78, 06 R124-R127: the delivery of a bank to an FP32 destination writes its drain buffer there, no other byte, and leaves the bank
EMPTY; a fused delivery passes through its chain and leaves its bank EMPTY, and where its descriptor fails a check the group parks with
VEC_DESC (0x52). -/
def Obligations.SweepsAndDrains : Prop :=
  (
    (∀ (n : Fin 48) (s : State) (b : Nat) (v : Native) (rest : List Native), sweepDue s n.val b v rest → noRed s →
      let a := b / 2
      let p := (runPass s n.val a b 0 (readStaged s n.val v) none v).phys
      completes (.sweepStart n []) s (fun t =>
        (∃ y, nth (arrOf t n.val a).phys (arrOf s n.val a).next none = some y ∧ y.bank = b ∧ y.native = v ∧ y.acc = p.acc
          ∧ y.rowE = p.rowE ∧ y.colE = p.colE ∧ y.chkRow = p.chkRow ∧ y.chkCol = p.chkCol)
        ∧ (arrOf t n.val a).next = 1 - (arrOf s n.val a).next ∧ (arrOf t n.val a).sweeps = (arrOf s n.val a).sweeps + 1
        ∧ (coreOf t n.val).stage.todo = rest ∧ (coreOf t n.val).stage.pass = 0
        ∧ (∀ x, (x < wbufBase (2 * n.val + a) ∨ wbufBase (2 * n.val + a) + 0x40000 ≤ x) → memByte t x = memByte s x)
        ∧ (ringNo (ringOf s n.val a) v.start + v.k ≤ (ringOf s n.val a).head + ringCap v.wfmt → ∀ x, memByte t x = memByte s x)))
    ∧ (∀ (n : Fin 48) (a : Fin 2) (s : State) (i : Nat) (p : Phys), coreRuns s n.val = true → readNext (arrOf s n.val a.val) = some (i, p) →
      (arrOf s n.val a.val).replay = none → (bankOf s n.val p.bank).st ≠ .failed → p.operandBad = false → p.bank < 4 → p.native.afmt ≠ 2 →
      let l := bankOf s n.val p.bank
      (failures p = [] → p.replayed = false → completes (.drainRead n a) s (fun t =>
        nth (arrOf t n.val a.val).phys i none = none
        ∧ (∀ x y, x < 128 → y < 128 → gridAt (bankBuf (bankOf t n.val p.bank)) x y 0 =
            match l.buf with
            | none => (cellValue p x y (gridAt p.acc x y 0) 0).v
            | some m => combine p.native.mode (gridAt m x y 0) (cellValue p x y (gridAt p.acc x y 0) 0).v)
        ∧ t.mem = s.mem))
      ∧ (failures p ≠ [] → p.replayed = false → completes (.drainRead n a) s (fun t =>
        nth (arrOf t n.val a.val).phys i none = none ∧ (∃ y, (arrOf t n.val a.val).replay = some y ∧ y.bank = p.bank ∧ y.pass = 0)
        ∧ (bankOf t n.val p.bank).buf = l.buf ∧ t.mem = s.mem))
      ∧ (failures p ≠ [] → p.replayed = true → completes (.drainRead n a) s (fun t =>
        nth (arrOf t n.val a.val).phys i none = none ∧ (bankOf t n.val p.bank).st = .failed ∧ (bankOf t n.val p.bank).buf = none
        ∧ t.mem = s.mem))))
  ∧ (
    (∀ (n : Fin 48) (a : Fin 2) (s : State) (b : Nat) (d : Drain), deliverNext s n.val a.val = some (b, d) → b < 4 → coreRuns s n.val = true →
      d.fuse = false → deliverReady s n.val b d = true → d.out = 1 → d.dst.fmt = 3 → 4 * d.dst.cols ≤ d.dst.mpitch → d.dead = false →
      d.dst.rows ≤ 128 → d.dst.cols ≤ 128 →
      let l := bankOf s n.val b
      let at_ : Nat → Nat → Nat := fun r c => d.dst.mbase + (d.rowOff + r) * d.dst.mpitch + 4 * (d.colOff + c)
      (∀ r, r < 128 → (nth (bankBuf l) r []).length = 128) → noRed s →
      (∀ r c i, r < d.dst.rows → c < d.dst.cols → i < 4 → winHit s (at_ r c + i) = none) → completes (.drainDelivery n a) s (fun t =>
        (∀ r c, r < d.dst.rows → c < d.dst.cols → memNat t (at_ r c) 4 = (gridAt (bankBuf l) r c 0).toNat)
        ∧ (∀ x, (∀ r, r < d.dst.rows → x < at_ r 0 ∨ at_ r 0 + 4 * d.dst.cols ≤ x) → memByte t x = memByte s x)
        ∧ bankOf t n.val b = LBank.reset))
    ∧ (∀ (n : Fin 48) (a : Fin 2) (s : State) (b i : Nat) (d : Drain) (bd : Nat × Nat) (g : Group), fusedNext s n.val = some (b, d) →
      b / 2 = a.val → coreRuns s n.val = true → vecFence s n.val ≠ 15 → fusedReady s n.val b d = true → partner s n.val b d = none →
      d.bind = some bd → slotOfAge (coreOf s n.val) d.age = some i → groupOf s n.val i = some g →
      let r := setupRun s n.val g bd.1 bd.2 (0, 0, 0) (some (fusedRows s n.val b d none))
      (r = none → g.park = none → completes (.fusedDelivery n a .clean) s (fun t => bankOf t n.val b = LBank.reset
        ∧ (∀ y ∈ (coreOf t n.val).matq, y.age ≠ d.age) ∧ t.mem = s.mem
        ∧ ∃ g' p, groupOf t n.val i = some g' ∧ g'.park = some p ∧ p.cause = 0x52 ∧ g'.threads = g.threads))
      ∧ (∀ x s1 fl, r = some x → chainRun s x none = .done s1 fl → d.dead = false → completes (.fusedDelivery n a .clean) s (fun t =>
        bankOf t n.val b = LBank.reset ∧ t.mem = s1.mem ∧ (coreOf t n.val).opcache = (coreOf s1 n.val).opcache))
      ∧ (∀ x, r = some x → chainRun s x none = .hold → exec (.fusedDelivery n a .clean) s = .next s)))

/-- 04 R71, R73, R90, R91: the fill engine lands a row of a BIT8 tensor in the ring of its array, one byte a column, once the slot is free; a
weight-buffer window answers a load with 0 and sets WIN_CONFLICT while its array or fill engine works, and with its bytes else; CLR_CHECK
clears the locations of the residue records; MAT_INJECT is written only while it is open. -/
def Obligations.WeightBufferAndRegisters : Prop :=
  (∀ (n : Fin 48) (a : Fin 2) (s : State) (l : WLoad) (ls : List WLoad), (ringOf s n.val a.val).loads = l :: ls → coreRuns s n.val = true →
    l.src.fmt = 5 → l.landed < l.rows →
    let r := ringOf s n.val a.val
    let row := l.first + l.landed
    let at_ := wbufBase (2 * n.val + a.val) + row % 2048 * 128
    (row < r.head + 2048 → noRed s → (∀ x ∈ linesKept l, readWaits s (128 * x) 128 = false) → completes (.fillRowLand n a) s (fun t =>
      (∀ j, j < 128 → memByte t (at_ + j) = if j < l.src.rows then srcByte s l (l.src.mbase + j * l.src.mpitch + (l.koff + l.landed)) else 0)
      ∧ (∀ x, (x < at_ ∨ at_ + 128 ≤ x) → memByte t x = memByte s x)
      ∧ (ringOf t n.val a.val).head = r.head
      ∧ ∃ l', (l' ∈ (ringOf t n.val a.val).loads ∨ l' ∈ (ringOf t n.val a.val).done) ∧ { l' with held := l.held } = { l with landed := l.landed + 1 }))
    ∧ (r.head + 2048 ≤ row → exec (.fillRowLand n a) s = .next s))
  ∧ (∀ (n : Fin 48) (id q b : Nat) (sgn : Bool) (s : State) (a : Access), SMap.get? (coreOf s n.val).accs id = some a → a.place = .wbuf q →
    a.op = .ld b sgn → q < 96 → mayPerform s n.val id a = true → coreRuns s (q / 2) = true →
    let busy := arrBusy (coreOf s (q / 2)) (q % 2) || fillBusy (coreOf s (q / 2)) (q % 2)
    (busy = true → completes (.wbufWindowAccess n id) s (fun t =>
      SMap.get? (coreOf t n.val).accs id = some { a with st := .done, lanes := a.lanes.map (fun (l : Lane) => { l with old := 0 }) }
      ∧ (regGet t (regAddr .mat (q / 2) 0x008)).testBit 40 = true ∧ t.mem = s.mem))
    ∧ (busy = false → completes (.wbufWindowAccess n id) s (fun t =>
      (∃ e, SMap.get? (coreOf t n.val).accs id = some e ∧ e.st = .done
        ∧ e.lanes = a.lanes.map (fun (l : Lane) => { l with old := BitVec.ofNat 64 (memNat s l.addr b) }))
      ∧ t.mem = s.mem)))
  ∧ (∀ (u : Nat) (s : State), u < 48 → fwStore .matClrCheck .mat u 0x040 6 s (fun t =>
    (∀ a, a < 2 → regGet t (regAddr .mat u (0x030 + 8 * a)) = regGet s (regAddr .mat u (0x030 + 8 * a)) / 2 ^ 32 * 2 ^ 32)
    ∧ { t with regs := s.regs } = s))
  ∧ (∀ (u : Nat) (v : W64) (s : State), u < 48 → v.toNat < 2 ^ 32 →
    (injectOpen s = true → fwStore .matInjectArm .mat u 0x048 v s (fun t =>
      regGet t (regAddr .mat u 0x048) = v.toNat &&& 0x7F7F07 ∧ { t with regs := s.regs } = s))
    ∧ (injectOpen s = false → fwStore .matInjectArm .mat u 0x048 v s (fun t => t = s)))

/-! ### Memory: slices, channels, scrubbers -/

/-- 08 R173-R175, 09 R202-R206: at its home slice a load of a resident line is performed with the line's bytes, one that misses asks the channel for
the line; a store to a resident line writes its bytes and no other; an atomic on it stores the combined word and receives the old one. 08
R179: an ACCUM to a line that is not resident makes a RED line of it where the slice allows, and memory is unchanged. -/
def Obligations.HomeSliceAccesses : Prop :=
  ∀ (n : Fin 48) (id : Nat) (s : State) (a : Access), SMap.get? (coreOf s n.val).accs id = some a → a.place = .home →
    mayPerform s n.val id a = true → noRed s → redLeaving s a.line = false → a.dead = false →
    let h := homeSlice (128 * a.line)
    let here := 16 * dieOf n.val + sliceHash (128 * a.line)
    (∀ b sgn, a.op = .ld b sgn → (weevilOf s h).contains a.line = false →
      ((homeLine s a.line).isSome = true → completes (.sliceAccess n id) s (fun t =>
        (∃ e, SMap.get? (coreOf t n.val).accs id = some e ∧ e.st = .done
          ∧ e.lanes = a.lanes.map (fun (l : Lane) => { l with old := BitVec.ofNat 64 (memNat s l.addr b) }))
        ∧ ∀ x, memByte t x = memByte s x))
      ∧ ((homeLine s a.line).isSome = false → (here = h ∨ (findLine s here (isReplica a.line)).isSome = false) →
        completes (.sliceAccess n id) s (fun t =>
          SMap.get? (coreOf t n.val).accs id = some { a with st := .filling }
          ∧ SMap.get? t.mem.fills s.mem.nextFill = some { line := a.line, who := .access n.val id, waiting := true, bad := false, late := false }
          ∧ ∀ x, memByte t x = memByte s x)))
    ∧ (∀ b l, a.op = .st b → a.lanes = [l] → s.mem.badCw.contains (l.addr / 32) = false → (homeLine s a.line).isSome = true → completes (.sliceAccess n id) s (fun t =>
        SMap.get? (coreOf t n.val).accs id = none
        ∧ (∀ i, i < b → memByte t (l.addr + i) = BitVec.ofNat 8 (l.v.toNat / 256 ^ i))
        ∧ ∀ x, (x < l.addr ∨ l.addr + b ≤ x) → memByte t x = memByte s x))
    ∧ (∀ op l, a.op = .at op false → a.lanes = [l] → s.mem.badCw.contains (l.addr / 32) = false → (homeLine s a.line).isSome = true →
      let old : W32 := BitVec.ofNat 32 (memNat s l.addr 4)
      let new := atStep op old (l.v.setWidth 32) l.cmp
      completes (.sliceAccess n id) s (fun t =>
        (∃ e, SMap.get? (coreOf t n.val).accs id = some e ∧ e.st = .done ∧ e.lanes = [{ l with old := old.setWidth 64 }])
        ∧ memNat t l.addr 4 = new.toNat ∧ ∀ x, (x < l.addr ∨ l.addr + 4 ≤ x) → memByte t x = memByte s x))
    ∧ (∀ op l kind, a.op = .at op true → redKindOf op = some kind → a.lanes = [l] → a.bad = 0 → (homeLine s a.line).isSome = false →
      fillPending s a.line = false → cacheable s (128 * a.line) = true → redTurn s a.line (.access n.val id) = true →
      redEligible s h kind (isCanonical s a.ctx) a.redOk = true → completes (.sliceAccess n id) s (fun t =>
        (∃ y, homeLine t a.line = some y ∧ y.kind = .red ∧ y.redKind = kind
          ∧ y.part = modAt (List.replicate 32 (redIdentity kind)) (l.addr % 128 / 4) (fun x => redStep kind x (l.v.setWidth 32)))
        ∧ ∀ x, memByte t x = memByte s x))

/-- 08 R169, R174, R180, R198: a channel that has read a line answers its fill; a fill that returns lets its load be performed and installs a
prefetched line; the eviction of a RED line starts once and ends with its partial applied to every word of the line by the channel's adder. 08
R176, R221: the data of a remote load becomes a far line unless it is stale. R171: a refresh changes nothing. -/
def Obligations.FillsAndEvictions : Prop :=
  (∀ (id : Nat) (s : State) (f : Fill), SMap.get? s.mem.fills id = some f → f.waiting = true → cicHeld s f.line = false → f.who ≠ .redEvict →
    (∀ c, f.who ≠ .read c) → completes (.channelAccess id []) s (fun t =>
      SMap.get? t.mem.fills id = some { f with waiting := false, bad := lineBad s f.line } ∧ (∀ x, memByte t x = memByte s x)
      ∧ t.mem.badCw = s.mem.badCw))
  ∧ (∀ (id k : Nat) (s : State) (f : Fill), SMap.get? s.mem.fills id = some f → f.waiting = true → cicHeld s f.line = false →
    f.who ≠ .redEvict → (∀ c, f.who ≠ .read c) → 2 < k → completes (.channelAccess id [k, 0, 0, 0]) s (fun t =>
      t.mem.badCw.contains (4 * f.line) = true ∧ SMap.get? t.mem.fills id = some { f with waiting := false, bad := true }
      ∧ ∀ x, memByte t x = memByte s x))
  ∧ (∀ (id : Nat) (s : State) (f : Fill) (y : SLine), SMap.get? s.mem.fills id = some f → f.waiting = true → cicHeld s f.line = false →
    f.who = .redEvict → homeLine s f.line = some y → y.part.length = 32 → completes (.channelAccess id []) s (fun t =>
      (∀ i, i < 32 → memNat t (128 * f.line + 4 * i) 4
        = (redStep y.redKind (BitVec.ofNat 32 (memNat s (128 * f.line + 4 * i) 4)) (nth y.part i 0)).toNat)
      ∧ (∀ x, (x < 128 * f.line ∨ 128 * f.line + 128 ≤ x) → memByte t x = memByte s x) ∧ SMap.get? t.mem.fills id = none))
  ∧ (∀ (line : Nat) (s : State) (y : SLine), homeLine s line = some y → y.kind = .red →
    (y.evicting = false → completes (.redEviction line) s (fun t =>
      SMap.get? t.mem.fills s.mem.nextFill = some { line := line, who := .redEvict, waiting := true, bad := false, late := false }
      ∧ (∃ z, homeLine t line = some z ∧ z.evicting = true ∧ z.part = y.part) ∧ ∀ x, memByte t x = memByte s x))
    ∧ (y.evicting = true → exec (.redEviction line) s = .next s))
  ∧ (∀ (id n aid b : Nat) (sgn : Bool) (s : State) (f : Fill) (a : Access), SMap.get? s.mem.fills id = some f → f.waiting = false →
    f.who = .access n aid → n < 48 → SMap.get? (coreOf s n).accs aid = some a → a.op = .ld b sgn → a.dead = false → noRed s → seqIdle s →
    completes (.sliceFill id) s (fun t =>
      (∃ e, SMap.get? (coreOf t n).accs aid = some e ∧ e.st = .done
        ∧ e.lanes = a.lanes.map (fun (l : Lane) => { l with old := BitVec.ofNat 64 (memNat s l.addr b) }))
      ∧ SMap.get? t.mem.fills id = none ∧ ∀ x, memByte t x = memByte s x))
  ∧ (∀ (id ctx : Nat) (s : State) (f : Fill), SMap.get? s.mem.fills id = some f → f.waiting = false → f.who = .prefetch ctx →
    (homeLine s f.line).isSome = false → lineBad s f.line = false → seqIdle s → completes (.sliceFill id) s (fun t =>
      SMap.get? t.mem.fills id = none
      ∧ ∃ y, homeLine t f.line = some y ∧ y.kind = .home ∧ y.pf = if f.late then none else some ctx))
  ∧ (∀ (n : Fin 48) (id b : Nat) (sgn : Bool) (s : State) (a : Access), SMap.get? (coreOf s n.val).accs id = some a → a.st = .response →
    a.op = .ld b sgn → a.dead = false → a.data.length = 128 →
    let h := farSlice s n.val (globLine a)
    let fresh := a.stale = false ∧ a.queued = false ∧ (regionAt s (a.region.getD 0)).valid = true
    (fresh → (findLine s h (isFar (globLine a))).isSome = false → (slcCfg s h).testBit 0 = true → completes (.farLineFill n id) s (fun t =>
      SMap.get? (coreOf t n.val).accs id = some { a with st := .done, data := [] }
      ∧ ∃ y, findLine t h (isFar (globLine a)) = some y ∧ y.data = a.data))
    ∧ (¬fresh → completes (.farLineFill n id) s (fun t =>
      SMap.get? (coreOf t n.val).accs id = some { a with st := .done, data := [] } ∧ t.mem = s.mem)))
  ∧ (∀ (ch : Fin 64) (bank : Fin 32) (s : State), exec (.edramRefresh ch bank) s = .next s)

/-- 15 R343: a scrubber whose memory is read goes on to its next line; a correctable error changes no byte; an uncorrectable error in a line of a
live context is left, and marked where the memory is eDRAM; in a scratchpad line of no context it is replaced by zeros. -/
def Obligations.ScrubSteps : Prop :=
  ∀ (m : ScrubMem) (inst : Nat) (s : State), inst < scrubInsts m → scrubRuns s m inst = true →
    let key := scrubCode m * 256 + inst
    let i := SMap.getD s.mem.scrub key 0
    let goes : State → Prop := fun t => SMap.getD t.mem.scrub key 0 = (i + 1) % scrubLines m
    completes (.scrubStep m inst .clean) s (fun t => goes t ∧ { t with mem := { t.mem with scrub := s.mem.scrub } } = s)
    ∧ completes (.scrubStep m inst .correctable) s (fun t => goes t ∧ t.mem.cells = s.mem.cells ∧ t.mem.badCw = s.mem.badCw)
    ∧ (∀ cw c, (scrubTarget s m inst i).2 = some c → completes (.scrubStep m inst (.uncorrectable cw)) s (fun t =>
        goes t ∧ t.mem.cells = s.mem.cells
        ∧ (m = .edram → ∃ x ∈ t.mem.badCw, x = (scrubTarget s m inst i).1.getD 0 / 32 + cw.val)))
    ∧ (∀ cw, m = .scratchpad → (scrubTarget s m inst i).2 = none → completes (.scrubStep m inst (.uncorrectable cw)) s (fun t =>
        goes t ∧ (∀ j, j < 64 → memByte t (spadBase inst + 64 * i + j) = 0)
        ∧ ∀ x, (x < spadBase inst + 64 * i ∨ spadBase inst + 64 * i + 64 ≤ x) → memByte t x = memByte s x))

/-! ### DMA and gather engines -/

/-- 08 R189, R190, Table 8.4: DMA and GATHER enter the descriptor at an offset of the group's scratchpad area in the core's DMA queue; DMAFENCE
makes the group wait until its descriptors have completed, and not beyond.
08 R190-R192, R194, R196, 16 R373: the oldest entry of a DMA queue whose descriptor passes its checks becomes a job of its engine, and one
that fails parks its group; an engine takes the next descriptor of a DMA-type hardware queue; the last piece of a job without conversion copies
its bytes, writes nothing else and the job is over; a piece whose source line its slice does not hold asks for the line, whose bytes it gets when
the fill returns; a job that has met a fault ends and its group parks with the fault's cause. -/
def Obligations.DmaEngine : Prop :=
  (
    let enters : (Issue → Lpk → Instr) → LOp → (Lpk → Nat) → Prop := fun c o eng =>
      ∀ (u : Issue) (w : Lpk) (s : State) (x : Iss) (s1 : State), issuing o u w dmaRoom s x s1 → x.act ≠ 0 →
        completes (c u w) s (fun t =>
          (coreOf t x.n).dmaq = (coreOf s x.n).dmaq ++
            [{ slot := x.i, age := x.g.age, ctx := x.g.ctx, pc := x.pc, engine := eng w,
               off := (gReg x.g ((lowTid x.act).getD 0) w.a.toNat).toNat }]
          ∧ goesOn x t ∧ t.mem = s.mem)
    enters .dma .dma (fun _ => 0)
    ∧ enters .gather .gather (fun w => 1 + (w.mod.setWidth 1).toNat)
    ∧ (∀ (u : Issue) (w : Lpk) (s : State) (x : Iss) (s1 : State), issuing .dmafence u w anyRoom s x s1 → x.act ≠ 0 →
      completes (.dmafence u w) s (fun t => groupNow x { x.g with wait := .dmafence } t (fun g =>
          ∀ k, k < x.g.threads.length → thr g k = stepThread x (fun _ h => h) k (thr x.g k))
        ∧ groupOnly x.n x.i (issueReg x.n) s t))
    ∧ (∀ (u : Slot) (s : State) (g : Group), groupOf s u.core.val u.slot.val = some g → g.wait = .dmafence →
      (dmaDone s u.core.val g.age = true → completes (.dmafenceComplete u) s (fun t =>
        groupOf t u.core.val u.slot.val = some { g with wait := .none } ∧ groupOnly u.core.val u.slot.val (fun _ => False) s t))
      ∧ (dmaDone s u.core.val g.age = false → exec (.dmafenceComplete u) s = .next s)))
  ∧ (
    (∀ (n : Fin 48) (s : State) (e : DmaEntry) (rest : List DmaEntry) (i : Nat) (g : Group), (coreOf s n.val).dmaq = e :: rest →
      coreRuns s n.val = true → slotOfAge (coreOf s n.val) e.age = some i → groupOf s n.val i = some g →
      let a := g.spadBase + e.off
      let j := mkJob s (some g) (clusterOf n.val) e.engine n.val e.ctx a (.group n.val e.slot e.age e.pc) (memBytes s a 64)
      let inside := e.off % 64 = 0 ∧ e.off + 64 ≤ g.spadBytes
      (inside → jobCheck s j = none → completes (.dmaqDispatch n) s (fun t =>
        (coreOf t n.val).dmaq = rest ∧ t.nextJob = s.nextJob + 1
        ∧ ∃ j', SMap.get? t.jobs s.nextJob = some j' ∧ j'.origin = j.origin ∧ j'.bytes = j.bytes ∧ j'.ctx = e.ctx ∧ j'.going = []
          ∧ (e.engine = 0 → j'.left = plan j)))
      ∧ (∀ c, inside → jobCheck s j = some c → g.park = none → completes (.dmaqDispatch n) s (fun t =>
        (∀ y ∈ (coreOf t n.val).dmaq, y.age ≠ e.age) ∧ t.jobs = s.jobs ∧ t.mem = s.mem
        ∧ ∃ g' p, groupOf t n.val i = some g' ∧ g'.park = some p ∧ p.cause = c ∧ p.precise = false ∧ g'.threads = g.threads))
      ∧ (¬inside → g.park = none → completes (.dmaqDispatch n) s (fun t =>
        (∀ y ∈ (coreOf t n.val).dmaq, y.age ≠ e.age) ∧ t.jobs = s.jobs
        ∧ ∃ g' p, groupOf t n.val i = some g' ∧ g'.park = some p ∧ p.cause = 0x30 ∧ g'.threads = g.threads)))
    ∧ (∀ (qid : Nat) (s : State) (d : QDesc), descOf s qid = some d → d.ty = 1 → d.take ≠ d.prod → isPreempted s d.owner = false →
      isQuiesced s d.owner = false → field d.bind 4 2 ≠ 3 → (clusterAt s (field d.bind 0 4)).st = .run →
      let s' := modDesc (touchDesc (engRead s d.owner (qSlot d d.take) 64).2 qid) qid (fun d => { d with take := d.take + 1 })
      let j := mkJob s' none (field d.bind 0 4) (field d.bind 4 2) 0 d.owner (qSlot d d.take) (.queue qid d.take.toNat)
        (seenBytes s' (qSlot d d.take) 64)
      (jobCheck s' j = none → completes (.dmaQueueTake qid) s (fun t =>
        (∃ d', descOf t qid = some d' ∧ d'.take = d.take + 1 ∧ d'.cons = d.cons)
        ∧ ∃ j', SMap.get? t.jobs s.nextJob = some j' ∧ j'.origin = .queue qid d.take.toNat ∧ j'.bytes = j.bytes ∧ j'.ctx = d.owner))
      ∧ (∀ c, jobCheck s' j = some c → completes (.dmaQueueTake qid) s (fun t =>
        (∃ d', descOf t qid = some d' ∧ d'.take = d.take + 1) ∧ SMap.get? t.jobs s.nextJob = none)))
    ∧ (∀ (e : Fin 48) (id a : Nat) (s : State) (j : EngJob) (m : Move), SMap.get? s.jobs id = some j → j.failed = 0 → j.left = [m] → j.going = [] →
      j.lines = [] → j.reads = [] → m.src = some a → a % 128 + m.n * dmaSize j.sfmt ≤ 128 → m.dst % 128 + m.n * dmaSize j.sfmt ≤ 128 → 0 < m.n →
      actOk s id j (false, m.ix) = true → (jobsBefore s id j).length = 0 → rangeHeld s m.dst (m.n * dmaSize j.sfmt) = false →
      spaceOf s m.dst ≠ .none → winsIdle s → noRed s → s.mem.badCw = [] → j.op = 0 → j.sfmt = j.dfmt → 3 ≤ j.sfmt → j.ckind ≠ 2 →
      a < 2 ^ 48 → m.dst < 2 ^ 48 → (j.fld 0 8).testBit 60 = false → deadchkOf s j.ctx = false →
      (cacheable s a = false ∨ (homeLine s (a / 128)).isSome = true) → completes (.descriptorComplete e id) s (fun t =>
        (∀ i, i < m.n * dmaSize j.sfmt → memByte t (m.dst + i) = memByte s (a + i))
        ∧ (∀ x, (x < m.dst ∨ m.dst + m.n * dmaSize j.sfmt ≤ x) → memByte t x = memByte s x)
        ∧ SMap.get? t.jobs id = none))
    ∧ (∀ (e : Fin 48) (id a : Nat) (s : State) (j : EngJob) (m : Move), SMap.get? s.jobs id = some j → j.failed = 0 → j.left = [m] → j.going = [] →
      j.lines = [] → j.op = 0 → 3 ≤ j.sfmt → 3 ≤ j.dfmt → m.src = some a → a < 2 ^ 48 → a % 128 + m.n * dmaSize j.sfmt ≤ 128 → 0 < m.n →
      actOk s id j (false, m.ix) = true → cacheable s a = true → noRed s → homeLine s (a / 128) = none → deadchkOf s j.ctx = false →
      completes (.descriptorComplete e id) s (fun t =>
        SMap.get? t.mem.fills s.mem.nextFill = some { line := a / 128, who := .job id j.ctx, waiting := true, bad := false, late := false }
        ∧ (∃ j' p, SMap.get? t.jobs id = some j' ∧ j'.left = [] ∧ j'.going = [p] ∧ p.mv = m ∧ p.want = [a / 128] ∧ j'.lines = [a / 128])
        ∧ ∀ x, memByte t x = memByte s x))
    ∧ (∀ (id fid ctx : Nat) (s : State) (j : EngJob) (f : Fill) (p : EngPiece), SMap.get? s.mem.fills fid = some f → f.waiting = false →
      f.who = .job id ctx → SMap.get? s.jobs id = some j → j.going = [p] → f.line ∈ p.want → noRed s → seqIdle s → completes (.sliceFill fid) s (fun t =>
        SMap.get? t.mem.fills fid = none ∧ (∀ x, memByte t x = memByte s x)
        ∧ ∃ j' p' l, SMap.get? t.jobs id = some j' ∧ j'.going = [p'] ∧ p'.want = p.want.filter (fun x => x != f.line)
          ∧ SMap.get? p'.got f.line = some l ∧ l.bytes = memBytes s (128 * f.line) 128))
    ∧ (∀ (e : Fin 48) (id : Nat) (s : State) (j : EngJob), SMap.get? s.jobs id = some j → j.failed = 0 → j.left = [] → j.going = [] →
      completes (.descriptorComplete e id) s (fun t => SMap.get? t.jobs id = none))
    ∧ (∀ (e : Fin 48) (id : Nat) (ecc : Option Nat) (s : State) (j : EngJob) (n slot age pc i : Nat) (g : Group),
      SMap.get? s.jobs id = some j → j.failed ≠ 0 → j.origin = .group n slot age pc → slotOfAge (coreOf s n) age = some i →
      groupOf s n i = some g → g.park = none → completes (.descriptorFault e id ecc) s (fun t => SMap.get? t.jobs id = none
        ∧ ∃ g' p, groupOf t n i = some g' ∧ g'.park = some p ∧ p.cause = j.failed ∧ p.precise = false ∧ p.pc = pc ∧ p.addr = j.failAddr
          ∧ g'.threads = g.threads)))

/-! ### Fabric transactions -/

/-- 12 R277, R294, Table 12.8: FSIGNAL, FMSG, FQFENCE and, behind entries not yet dispatched, FSTATUS enter the core's fabric queue; FQFENCE makes the
group wait until its earlier entries have left it; FSTATUS with none before it returns the connection's state and its unacknowledged transactions.
12 R277, R280, R281, R290, R295-R298, 09 R204, R217-R219: the next transaction of a peer takes the next number of its connection and goes out on the
port the route gives; it is sent again with RETX after RTO without an answer and ends after 20 µs, the peer being UNREACHABLE; an ACK ends
all it covers but READ and ATOMIC, whose own responses end them and carry their data; a NAK ends its transaction with a fault. -/
def Obligations.FabricSourceSide : Prop :=
  (
    fabEnters .fsignal .fsignal .signal id (fun _ _ => True)
    ∧ fabEnters .fmsg .fmsg .msg id (fun _ _ => True)
    ∧ fabEnters .fqfence .fqfence .fence (fun _ => .fqfence) (fun _ _ => True)
    ∧ fabEnters .fstatus .fstatus .status id (fun s x => ∃ e ∈ (coreOf s x.n).fabq, e.sent = false)
    ∧ (∀ (u : Slot) (s : State) (g : Group), groupOf s u.core.val u.slot.val = some g → g.wait = .fqfence →
      ((∀ e ∈ (coreOf s u.core.val).fabq, e.age = g.age → e.op = .fence) → completes (.fqfenceComplete u) s (fun t =>
        groupOf t u.core.val u.slot.val = some { g with wait := .none }
        ∧ queueAndGroup u.core.val u.slot.val ((coreOf s u.core.val).fabq.filter (fun e => e.age != g.age)) (fun _ => False) s t))
      ∧ (∀ e ∈ (coreOf s u.core.val).fabq, e.age = g.age → e.op ≠ .fence → exec (.fqfenceComplete u) s = .next s))
    ∧ (∀ (u : Issue) (w : Lpk) (s : State) (x : Iss) (s1 : State), issuing .fstatus u w fabqRoom s x s1 → x.act ≠ 0 →
      (∀ e ∈ (coreOf s x.n).fabq, e.sent = true) →
      let c := connOf s ((gReg x.g ((lowTid x.act).getD 0) w.a.toNat).toNat % 4096)
      let code : W32 := match c.st with | .none => 0 | .active => 1 | .unreachable => 2 | .resetting => 3
      completes (.fstatus u w) s (fun t => replied x w code (some (BitVec.ofNat 32 c.unack.length)) t ∧ groupOnly x.n x.i (issueReg x.n) s t)))
  ∧ (
    (∀ (i : Nat) (s : State) (o : OutTxn) (me : BitVec 12), s.fab.waiting[i]? = some o → sameAhead s i o.t.dst.toNat false = false →
      o.t.ty ≠ 7 → s.fabricId = some me →
      let q := o.t.dst.toNat
      let c := connOf s q
      let x : Txn := { o.t with src := me, seq := c.next }
      ((c.st = .none ∨ c.st = .active) → c.unack.length < 4096 → engineWaits c o.t = false → completes (.numberSend i) s (fun t =>
        t.fab.waiting = dropAt s.fab.waiting i
        ∧ (connOf t q).st = .active ∧ (connOf t q).next = c.next + 1
        ∧ (connOf t q).unack = c.unack.map (fun (u : Unack) => if u.t.seq = c.next then { u with port := choosePort s (q % 4) q (msgVc (.txn o.t)) none } else u)
          ++ [{ t := x, who := o.who, first := s.now, last := s.now, port := choosePort s (q % 4) q (msgVc (.txn o.t)) none }]
        ∧ (∀ p, choosePort s (q % 4) q (msgVc (.txn o.t)) none = some p → sentOut s t (.txn p x))))
      ∧ (c.st = .resetting ∨ c.st = .active ∧ (4096 ≤ c.unack.length ∨ engineWaits c o.t = true) → exec (.numberSend i) s = .next s))
    ∧ (∀ (n : Nat) (s : State) (x : FabEntry) (me : BitVec 12), n < 48 → fabqNext s n = some x → x.op.sends = true → coreRuns s n = true →
      fenceDone s n x.age x.ord 1 x.mask = true →
      (∀ y, fabqTxn s n x = .ok y → s.fabricId = some me → s.fab.waiting = [] → (connOf s y.dst.toNat).st = .active →
        (connOf s y.dst.toNat).unack.length < 4096 → completes (.numberSend (s.fab.waiting.length + n)) s (fun t =>
          (connOf t y.dst.toNat).next = (connOf s y.dst.toNat).next + 1
          ∧ (∃ u ∈ (connOf t y.dst.toNat).unack, u.t = { y with seq := (connOf s y.dst.toNat).next } ∧ u.who = .fabq n x.age x.ord)
          ∧ t.mem = s.mem))
      ∧ (∀ c i g, fabqTxn s n x = .error c → slotOfAge (coreOf s n) x.age = some i → groupOf s n i = some g → g.park = none →
        completes (.numberSend (s.fab.waiting.length + n)) s (fun t =>
          (∀ e ∈ (coreOf t n).fabq, e.age = x.age → e.ord < x.ord)
          ∧ t.fab = s.fab ∧ t.mem = s.mem
          ∧ ∃ g' p, groupOf t n i = some g' ∧ g'.park = some p ∧ p.cause = c ∧ p.pc = x.pc ∧ p.precise = false ∧ g'.threads = g.threads)))
    ∧ (∀ (peer : BitVec 12) (seq : W32) (s : State) (u : Unack), unackOf s peer.toNat seq = some u → (connOf s peer.toNat).st = .active →
      let q := peer.toNat
      (u.last + rtoOf s q ≤ s.now → s.now < u.first + 20000 → answeredNow s u = false → completes (.rtoExpiry peer seq) s (fun t =>
        (∃ v, unackOf t q seq = some v ∧ v.t = u.t ∧ v.who = u.who ∧ v.first = u.first ∧ v.last = s.now)
        ∧ (∀ p, u.port.isSome = true → choosePort s (u.t.dst.toNat % 4) u.t.dst.toNat (msgVc (.txn u.t)) u.port = some p →
            sentOut s t (.txn p { u.t with retx := true }))
        ∧ t.mem = s.mem))
      ∧ ((s.now < u.last + rtoOf s q ∨ answeredNow s u = true) → exec (.rtoExpiry peer seq) s = .next s)
      ∧ (u.first + 20000 ≤ s.now → answeredNow s u = false → completes (.transactionTimeout peer seq) s (fun t =>
          (connOf t q).st = .unreachable ∧ (connOf t q).unack = []
          ∧ (∀ id part j, (connOf s q).unack = [u] → u.who = .engine id part → SMap.get? s.jobs id = some j → j.failed = 0 →
              ∃ j', SMap.get? t.jobs id = some j' ∧ j'.failed = 0x35)))
      ∧ ((s.now < u.first + 20000 ∨ answeredNow s u = true) → exec (.transactionTimeout peer seq) s = .next s))
    ∧ (∀ (r : Resp) (s : State), r.ty = 0 → s.fabricId = some r.dst →
      let c := connOf s r.src.toNat
      r.seq ≠ c.acked → seqCovers r.seq c.acked = true → completes (.fabricAckReceive r) s (fun t =>
        (connOf t r.src.toNat).acked = r.seq
        ∧ (connOf t r.src.toNat).unack = c.unack.filter (fun (u : Unack) => !(seqCovers r.seq u.t.seq && u.t.ty != 1 && u.t.ty != 4))
        ∧ t.mem.cells = s.mem.cells))
    ∧ (∀ (r : Resp) (s : State) (u : Unack) (id part : Nat) (j : EngJob), answers s r u → r.ty = 1 → u.t.ty = 1 → u.t.len = r.data.length →
      u.who = .engine id part → SMap.get? s.jobs id = some j → j.failed = 0 → completes (.readRspReceive r) s (fun t =>
        unacked s t r.src.toNat r.seq ∧ sameBytes s t
        ∧ ∃ j', SMap.get? t.jobs id = some j' ∧ j'.reads = j.reads.filter (fun w => w.1 != part)
          ∧ ∀ p ∈ j.going, part ∈ p.wantR → ∃ p' a, p' ∈ j'.going ∧ p'.mv = p.mv ∧ p'.far = p.far ++ [(a, r.data)]
            ∧ p'.wantR = p.wantR.filter (fun w => w != part)))
    ∧ (∀ (r : Resp) (s : State) (u : Unack) (n id part : Nat) (a : Access) (l : Lane) (op : AtOp), answers s r u → r.ty = 2 → u.t.ty = 4 →
      r.data.length = 4 → u.who = .thread n id part → n < 48 → SMap.get? (coreOf s n).accs id = some a → a.op = .at op false → op ≠ .cas →
      a.todo = [] → a.entered = [] → a.unanswered = [part] → a.lanes = [l] → l.tid = part → completes (.atomicRspReceive r) s (fun t =>
        unacked s t r.src.toNat r.seq ∧ sameBytes s t
        ∧ SMap.get? (coreOf t n).accs id
            = some { a with st := .done, unanswered := [], lanes := [{ l with old := BitVec.ofNat 64 (bytesNat r.data) }] }))
    ∧ (∀ (r : Resp) (s : State) (u : Unack) (id part : Nat) (j : EngJob), answers s r u → r.ty = 3 → u.who = .engine id part →
      SMap.get? s.jobs id = some j → j.failed = 0 → completes (.nakReceive r) s (fun t =>
        unacked s t r.src.toNat r.seq ∧ sameBytes s t
        ∧ ∃ j', SMap.get? t.jobs id = some j' ∧ j'.failed = (if r.status = 9 then 0x33 else 0x34) ∧ j'.failStatus = r.status)))

/-- 12 R279, R280, R284-R287, 09 R214-R217, 10 R238: a transaction whose check holds is performed in its turn: READ answers with the bytes, WRITE stores
them, ACCUM combines each word, ATOMIC stores the new word and answers with the old one, SIGNAL reaches its sync object, MSG is appended to its
queue; a duplicate WRITE is acknowledged and not performed again; one that fails a check is NAKed with its status.
09 R214, R215, 12 R276, R279, R280, R292: a flagged WRITE that runs ahead of its source's numbers is held, and performed when every earlier
number has landed; an owed acknowledgement is sent in one ACK; a stored atomic response is dropped 40 µs after it was sent; an item for
another module goes out on the port that the die's route gives, or is discarded where there is none. -/
def Obligations.FabricTargetSide : Prop :=
  (
    (∀ (d : Fin 4) (x : Txn) (s : State), admitted s x → x.ty = 1 → rangeBad s x.addr.toNat x.len = false → noRed s → winsIdle s →
      completes (.fabricReadReceive d x) s (fun t => landed t x ∧ sameBytes s t
        ∧ answered s t { ty := 1, status := 0, src := selfId s, dst := x.src, seq := x.seq, data := memBytes s x.addr.toNat x.len }))
    ∧ (∀ (d : Fin 4) (x : Txn) (s : State), admitted s x → x.ty = 1 → rangeBad s x.addr.toNat x.len = true →
      completes (.fabricReadReceive d x) s (fun t => nakked s t x 9))
    ∧ (∀ (d : Fin 4) (x : Txn) (s : State), admitted s x → x.ty = 2 → noRed s → winsIdle s → completes (.fabricWriteReceive d x) s (fun t =>
      landed t x ∧ stores s t (txnWrite x).1 (txnWrite x).2))
    ∧ (∀ (d : Fin 4) (x : Txn) (s : State), admitted s x → x.ty = 3 → noRed s → winsIdle s → completes (.fabricAccumReceive d x) s (fun t =>
      landed t x
      ∧ (∀ i, 4 * i < x.len → memNat t (x.addr.toNat + 4 * i) 4
          = (redStep (if x.op = 0 then 3 else x.op - 1) (BitVec.ofNat 32 (memNat s (x.addr.toNat + 4 * i) 4))
              (BitVec.ofNat 32 (bytesNat ((x.payload.drop (4 * i)).take 4)))).toNat)
      ∧ (∀ a, (a < x.addr.toNat ∨ x.addr.toNat + x.len ≤ a) → memByte t a = memByte s a)))
    ∧ (∀ (d : Fin 4) (x : Txn) (s : State), admitted s x → x.ty = 4 → rangeBad s x.addr.toNat 4 = false → storeRoom s d.val = true → noRed s → winsIdle s →
      let old : W32 := BitVec.ofNat 32 (memNat s x.addr.toNat 4)
      let new : W32 := if x.op = 0 then (if old = x.arg0 then x.arg1 else old) else if x.op = 1 then x.arg1 else old + x.arg1
      completes (.fabricAtomicReceive d x) s (fun t => landed t x ∧ memNat t x.addr.toNat 4 = new.toNat
        ∧ (∀ a, (a < x.addr.toNat ∨ x.addr.toNat + 4 ≤ a) → memByte t a = memByte s a)
        ∧ answered s t { ty := 2, status := 0, src := selfId s, dst := x.src, seq := x.seq, data := natBytes 4 old.toNat }
        ∧ { seq := x.seq, value := old, sent := s.now, die := d.val } ∈ (connOf t x.src.toNat).stored))
    ∧ (∀ (d : Fin 4) (x : Txn) (s : State), admitted s x → x.ty = 5 →
      let owner := txnOwner s x
      let e := xlatSeen s (4 * d.val) owner (x.addr.toNat % 65536)
      ((e.testBit 16 && xSig e) = true → completes (.fabricSignalReceive d x) s (fun t => landed t x ∧ sameBytes s t
        ∧ t.sync.msgs = s.sync.msgs ++
            [{ obj := xObj e, frm := none, ctx := owner, pc := 0, ord := 0, mask := 0, op := .signal x.arg0 true }]))
      ∧ ((e.testBit 16 && xSig e) = false → completes (.fabricSignalReceive d x) s (fun t => nakked s t x 8 ∧ t.sync.msgs = s.sync.msgs)))
    ∧ (∀ (d : Fin 4) (x : Txn) (s : State), admitted s x → x.ty = 6 →
      let qid := x.addr.toNat % 2 ^ 20
      (descOf s qid = none → completes (.fabricMsgReceive d x) s (fun t => nakked s t x 6))
      ∧ (∀ q, descOf s qid = some q → q.owner = txnOwner s x → q.ty = 3 → q.remote = true → x.len = qSize q →
        (qRoom q = false → completes (.fabricMsgReceive d x) s (fun t => nakked s t x 7))
        ∧ (qRoom q = true → noRed s → winsIdle s → completes (.fabricMsgReceive d x) s (fun t => landed t x
            ∧ (∃ q', descOf t qid = some q' ∧ q'.prod = q.prod + 1 ∧ q'.cons = q.cons)
            ∧ (∀ i, i < qSize q → memByte t (qSlot q q.prod + i) = nth x.payload i 0)
            ∧ ∀ a, (a < qSlot q q.prod ∨ qSlot q q.prod + qSize q ≤ a) → memByte t a = memByte s a))))
    ∧ (∀ (d : Fin 4) (x : Txn) (s : State), nextArrives s x → admitStatus s x ≠ 0 →
      (x.ty = 1 → completes (.fabricReadReceive d x) s (fun t => nakked s t x (admitStatus s x)))
      ∧ (x.ty = 2 → completes (.fabricWriteReceive d x) s (fun t => nakked s t x (admitStatus s x)))
      ∧ (x.ty = 3 → completes (.fabricAccumReceive d x) s (fun t => nakked s t x (admitStatus s x)))
      ∧ (x.ty = 4 → completes (.fabricAtomicReceive d x) s (fun t => nakked s t x (admitStatus s x)))
      ∧ (x.ty = 5 → completes (.fabricSignalReceive d x) s (fun t => nakked s t x (admitStatus s x)))
      ∧ (x.ty = 6 → completes (.fabricMsgReceive d x) s (fun t => nakked s t x (admitStatus s x))))
    ∧ (∀ (d : Fin 4) (x : Txn) (s : State), s.pkg.held = false → s.fabricId = some x.dst → (connOf s x.src.toNat).st = .active → x.ty = 2 →
      seqCovers (connOf s x.src.toNat).a x.seq = true → (connOf s x.src.toNat).held = [] → completes (.fabricWriteReceive d x) s (fun t =>
        answered s t { ty := 0, status := 0, src := selfId s, dst := x.src, seq := (connOf s x.src.toNat).a, data := [] } ∧ sameBytes s t
        ∧ connOf t x.src.toNat = connOf s x.src.toNat)))
  ∧ (
    (∀ (d : Fin 4) (x : Txn) (s : State), s.pkg.held = false → s.fabricId = some x.dst → (connOf s x.src.toNat).st = .active → x.ty = 2 →
      x.flag = true → admitStatus s x = 0 →
      let c := connOf s x.src.toNat
      1 < (x.seq - c.a).toNat → (x.seq - c.a).toNat ≤ 4096 → c.landed = [] → (∀ h ∈ c.held, h.t.seq ≠ x.seq) → c.held.length < 16 →
      completes (.fabricWriteReceive d x) s (fun t =>
        connOf t x.src.toNat = { c with held := c.held ++ [{ t := x, owner := txnOwner s x, die := d.val }] } ∧ t.mem = s.mem))
    ∧ (∀ (src : BitVec 12) (seq : W32) (s : State) (h : HeldTxn), (connOf s src.toNat).held.find? (fun (y : HeldTxn) => y.t.seq == seq) = some h →
      h.t.seq = seq → h.t.src = src → h.t.ty = 2 → h.t.len = h.t.payload.length → (connOf s src.toNat).st = .active →
      (connOf s src.toNat).nakked = [] →
      (seq = (connOf s src.toNat).a + 1 → txnHeld s h.t = false → noRed s → winsIdle s → completes (.flagRelease src seq) s (fun t =>
        seqCovers (connOf t src.toNat).a seq = true ∧ (connOf t src.toNat).held = (connOf s src.toNat).held.filter (fun (y : HeldTxn) => y.t.seq != seq)
        ∧ stores s t (txnWrite h.t).1 (txnWrite h.t).2))
      ∧ (seq ≠ (connOf s src.toNat).a + 1 → exec (.flagRelease src seq) s = .next s))
    ∧ (∀ (src : BitVec 12) (s : State),
      ((connOf s src.toNat).ackDue = true → completes (.ackSend src) s (fun t =>
        connOf t src.toNat = { connOf s src.toNat with ackDue := false }
        ∧ answered s t { ty := 0, status := 0, src := selfId s, dst := src, seq := (connOf s src.toNat).a, data := [] } ∧ t.mem = s.mem))
      ∧ ((connOf s src.toNat).ackDue = false → exec (.ackSend src) s = .next s))
    ∧ (∀ (peer : BitVec 12) (seq : W32) (s : State) (x : AtRsp), (connOf s peer.toNat).stored.find? (fun (y : AtRsp) => y.seq == seq) = some x →
      (x.sent + 40000 ≤ s.now → completes (.atomicRspExpire peer seq) s (fun t =>
        connOf t peer.toNat = { connOf s peer.toNat with
          stored := (connOf s peer.toNat).stored.filter (fun (y : AtRsp) => y.seq != seq) }
        ∧ { t with fab := { t.fab with conns := s.fab.conns } } = s))
      ∧ (s.now < x.sent + 40000 → exec (.atomicRspExpire peer seq) s = .next s))
    ∧ (∀ (d : Fin 4) (x : Txn) (s : State), s.fabricId ≠ some x.dst →
      (∀ i p, routeOf s d.val x.dst.toNat = i → i.testBit 63 = true → (∀ k, k < 16 → portLive s k = true → k = p) → p < 16 → portLive s p = true →
        i.testBit p = true → completes (.transitForward d (.txn x)) s (fun t => sentOut s t (.txn p x) ∧ t.mem = s.mem ∧ t.fab.conns = s.fab.conns))
      ∧ ((routeOf s d.val x.dst.toNat).testBit 63 = false → completes (.transitForward d (.txn x)) s (fun t =>
          (∀ p, ¬ sentOut s t (.txn p x)) ∧ t.mem = s.mem ∧ t.fab.conns = s.fab.conns))))

/-! ### Links -/

/-- 11 R250-R256: a DATA flit with the LSEQ a port expects joins the receive buffer of its channel, one accepted before only returns its credit,
one beyond or a corrupt one is discarded and asks for a replay; every flit acknowledges and returns credits; RETRY_REQ is answered with every
flit not acknowledged, and repeated every microsecond, 16 times; an alignment frame of correctable codewords gives lane order, polarity and frame count.
11 R257, R258: a port fails after 4 µs of silence, where an active lane loses lock or exceeds its error limit; lane causes and the peer's DEGRADE
exchange masks and agree on a half; a port not live 10 ms after it failed is DOWN and holds nothing. 11 R260, R261, R271, Tables 11.5, 11.6:
the states of bring-up follow one another; in PARAM the wiring check makes the port ACTIVE or DEGRADED, or MISWIRED. -/
def Obligations.LinkBehaviour : Prop :=
  (
    (∀ (p : Fin 16) (raw : Flit) (s : State), flitComes s p.val 1 raw → portLive s p.val = true → (portOf s p.val).rx.length = 4 →
      let x := portOf s p.val
      let h := flitHdr raw.bytes
      let d := (h.lseq + 4096 - x.expect) % 4096
      let data := (raw.bytes.drop 12).take h.paylen
      (d = 0 → (x.want = false ∨ h.replay = true) → data ≠ [] → completes (.dataFlitReceive p raw) s (fun t =>
        (portOf t p.val).expect = (x.expect + 1) % 4096 ∧ (portOf t p.val).want = false ∧ (portOf t p.val).lastRx = s.now
        ∧ nth (portOf t p.val).rx h.vc [] = nth x.rx h.vc [] ++ [data]
        ∧ ∀ v, v ≠ h.vc → nth (portOf t p.val).rx v [] = nth x.rx v []))
      ∧ (2048 ≤ d → completes (.dataFlitReceive p raw) s (fun t => (portOf t p.val).rx = x.rx ∧ (portOf t p.val).expect = x.expect
          ∧ (portOf t p.val).want = x.want))
      ∧ (0 < d → d < 2048 → x.want = false → completes (.dataFlitReceive p raw) s (fun t => (portOf t p.val).rx = x.rx
          ∧ (portOf t p.val).expect = x.expect ∧ (portOf t p.val).want = true ∧ (portOf t p.val).retries = x.retries + 1
          ∧ flitSent s t p.val 2 [])))
    ∧ (∀ (p : Fin 16) (raw : Flit) (s : State), s.pkg.held = false → receives (portOf s p.val) = true → flitOk raw = false →
      (portOf s p.val).want = false → completes (.dataFlitReceive p raw) s (fun t => (portOf t p.val).rx = (portOf s p.val).rx
        ∧ (portOf t p.val).expect = (portOf s p.val).expect ∧ (portOf t p.val).want = true ∧ flitSent s t p.val 2 []))
    ∧ (∀ (p : Fin 16) (raw : Flit) (s : State), flitComes s p.val 0 raw → (portOf s p.val).credits.length = 4 →
      (∀ v, v < 4 → txOf (portOf s p.val) v = []) →
      let x := portOf s p.val
      let h := flitHdr raw.bytes
      completes (.idleReceive p raw) s (fun t => (portOf t p.val).rx = x.rx ∧ (portOf t p.val).expect = x.expect
        ∧ (portOf t p.val).peerAck = (if h.ackv then h.ack else x.peerAck) ∧ (portOf t p.val).lastRx = s.now
        ∧ ∀ v, v < 4 → nth (portOf t p.val).credits v 0
            = nth x.credits v 0 + (if h.crvc0 = v then h.crcnt0 else 0) + (if h.crvc1 = v then h.crcnt1 else 0)))
    ∧ (∀ (p : Fin 16) (raw : Flit) (s : State), flitComes s p.val 2 raw → portLive s p.val = true →
      let x := portOf s p.val
      let h := flitHdr raw.bytes
      let fs := (takeCtl h x).replay
      fs ≠ [] → (∀ f ∈ fs, f.vc < 4 ∧ f.lseq < 4096 ∧ f.data.length ≤ 240) →
      (¬(s.now < x.replayEnd ∧ x.replayFrom = (h.ack + 1) % 4096) → completes (.retryReqReceive p raw) s (fun t =>
        (∀ f ∈ fs, ∃ bs, sentOut s t (.flit p.val bs) ∧ (flitHdr bs).kind = 1 ∧ (flitHdr bs).lseq = f.lseq ∧ (flitHdr bs).vc = f.vc
          ∧ (bs.drop 12).take f.data.length = f.data)
        ∧ (∃ l, (portOf t p.val).replay = fs ++ l) ∧ (portOf t p.val).expect = x.expect)))
    ∧ (∀ (p : Fin 16) (s : State), linkUp (portOf s p.val) = true → (portOf s p.val).want = true →
      let x := portOf s p.val
      (x.lastRetry + 1000 ≤ s.now → x.retries < 16 → completes (.retryReqRepeat p) s (fun t =>
        flitSent s t p.val 2 [] ∧ (portOf t p.val).retries = x.retries + 1 ∧ (portOf t p.val).lastRetry = s.now))
      ∧ (x.lastRetry + 1000 ≤ s.now → 16 ≤ x.retries → completes (.retryReqRepeat p) s (fun t => portFailed t p.val 2))
      ∧ (s.now < x.lastRetry + 1000 → exec (.retryReqRepeat p) s = .next s))
    ∧ (∀ (p : Fin 16) (fr : AlignFrame) (s : State), ((portOf s p.val).st = 3 ∨ receives (portOf s p.val) = true) →
      completes (.alignmentFrameReceive p fr) s (fun t =>
        portOf t p.val = (if fr.errs.1 ≤ 15 ∧ fr.errs.2 ≤ 15 then
            { portOf s p.val with frames := fr.count.toNat, reversed := fr.reversed, polarity := fr.polarity.toNat } else portOf s p.val)
        ∧ (∀ q, q ≠ p.val → portOf t q = portOf s q)
        ∧ { t with fab := { t.fab with ports := s.fab.ports }, regs := s.regs } = s ∧ (fr.errs = (0, 0) → t.regs = s.regs))))
  ∧ (
    (∀ (p : Fin 16) (s : State), linkUp (portOf s p.val) = true →
      ((portOf s p.val).lastRx + 4000 ≤ s.now → completes (.linkSilenceTimeout p) s (fun t => portFailed t p.val 1))
      ∧ (s.now < (portOf s p.val).lastRx + 4000 → exec (.linkSilenceTimeout p) s = .next s))
    ∧ (∀ (p lane : Fin 16) (s : State), linkUp (portOf s p.val) = true → (activeLanes (portOf s p.val)).testBit lane.val = true →
      let mask := setField (portOf s p.val).health lane.val 1 0
      completes (.laneLockLoss p lane) s (fun t => portFailed t p.val 3 ∧ (portOf t p.val).health = mask ∧ flitSent s t p.val 5 (natBytes 2 mask))
      ∧ (∀ e, field (lnkCfg s p.val) 24 8 * 2 ^ 16 < e → completes (.laneErrorLimit p lane e) s (fun t =>
          portFailed t p.val 4 ∧ (portOf t p.val).health = mask ∧ flitSent s t p.val 5 (natBytes 2 mask)))
      ∧ (∀ e, e ≤ field (lnkCfg s p.val) 24 8 * 2 ^ 16 → exec (.laneErrorLimit p lane e) s = .next s))
    ∧ (∀ (p : Fin 16) (raw : Flit) (s : State), flitComes s p.val 5 raw → linkUp (portOf s p.val) = true →
      let x := portOf s p.val
      let m := x.health &&& flitFld raw 12 2
      completes (.degradeReceive p raw) s (fun t => portFailed t p.val x.cause ∧ flitSent s t p.val 5 (natBytes 2 x.health)
        ∧ (portOf t p.val).peerMask = flitFld raw 12 2
        ∧ (portOf t p.val).retrain = (if m % 256 = 255 ∨ m / 256 % 256 = 255 then 2 else 3)))
    ∧ (∀ (p : Fin 16) (s : State) (n : Nat), (portOf s p.val).failedAt = some n → portLive s p.val = false →
      (n + 10000000 ≤ s.now → completes (.portDownTimeout p) s (fun t => (portOf t p.val).st = 9 ∧ (portOf t p.val).tx = List.replicate 4 []
        ∧ (portOf t p.val).rx = List.replicate 4 [] ∧ (portOf t p.val).replay = [] ∧ (portOf t p.val).cause = (portOf s p.val).cause))
      ∧ (s.now < n + 10000000 → exec (.portDownTimeout p) s = .next s))
    ∧ (∀ (p : Fin 16) (s : State), (portOf s p.val).st = 8 → (portOf s p.val).retrain = 2 → completes (.degradeRetrainDone p) s (fun t =>
      (portOf t p.val).st = 4 ∧ (portOf t p.val).half = true ∧ ∃ pay, flitSent s t p.val 4 pay))
    ∧ (∀ (s : State), completes .portBringupStart s (fun t =>
      (∀ p, p < 16 → portOf t p = if (portOf s p).st = 0 ∧ portEnabled s p = true then { portOf s p with st := 1, since := s.now } else portOf s p)
      ∧ { t with fab := { t.fab with ports := s.fab.ports } } = s))
    ∧ (∀ (p : Fin 16) (s : State), (portOf s p.val).st = 1 → completes (.signalDetect p) s (fun t =>
      portMoves s t p.val 2 (fun x => { x with left := some (x.left.getD s.now) })))
    ∧ (∀ (p : Fin 16) (f : TrainFind) (s : State), (portOf s p.val).st = 2 → (portOf s p.val).retrain = 0 →
      completes (.trainComplete p f) s (fun t =>
        portMoves s t p.val 3 (fun x => { x with reversed := f.reversed, polarity := f.polarity.toNat, half := false, high := false })))
    ∧ (∀ (p : Fin 16) (s : State), (portOf s p.val).st = 3 → completes (.alignComplete p) s (fun t =>
      (portOf t p.val).st = 4 ∧ (portOf t p.val).rx = (portOf s p.val).rx ∧ flitSent s t p.val 4 (natBytes 8 (dptVal s 0xF0))))
    ∧ (∀ (p : Fin 16) (s : State), (portOf s p.val).st = 4 →
      ((portOf s p.val).lastParam + 1000 ≤ s.now → completes (.paramResend p) s (fun t => flitSent s t p.val 4 (natBytes 8 (dptVal s 0xF0))
        ∧ (portOf t p.val).lastParam = s.now ∧ (portOf t p.val).st = 4))
      ∧ (s.now < (portOf s p.val).lastParam + 1000 → exec (.paramResend p) s = .next s))
    ∧ (∀ (p : Fin 16) (raw : Flit) (s : State), flitComes s p.val 4 raw → (portOf s p.val).st = 4 →
      let x := portOf s p.val
      let board := flitFld raw 0x14 4
      let ok := wiringOk s p.val board (flitFld raw 0x18 1) (flitFld raw 0x19 1)
      completes (.paramReceive p raw) s (fun t => (portOf t p.val).serial = flitFld raw 0x0C 8
        ∧ (portOf t p.val).peer = board * 2 ^ 32 + flitFld raw 0x18 1 % 16 * 2 ^ 24 + flitFld raw 0x19 1 % 16 * 2 ^ 16
            + flitFld raw 0x1A 1 % 2 * 2 ^ 12 + flitFld raw 0x24 2 % 4096
        ∧ flitSent s t p.val 4 (natBytes 8 (dptVal s 0xF0))
        ∧ (ok = true → (portOf t p.val).st = if x.half then 6 else 5)
        ∧ (ok = false → (portOf t p.val).st = 7 ∧ (portOf t p.val).miswired = true)))
    ∧ (∀ (p : Fin 16) (s : State),
      let x := portOf s p.val
      (∀ n, x.left = some n → 1 ≤ x.st → x.st ≤ 4 → n + 100000000 ≤ s.now → completes (.bringupTimeout p) s (fun t => (portOf t p.val).st = 9))
      ∧ (x.left = none → ((x.st = 2 ∧ x.since + 80000000 ≤ s.now) ∨ (x.st = 3 ∧ x.since + 1000000 ≤ s.now) ∨ (x.st = 4 ∧ x.since + 10000 ≤ s.now)) →
          completes (.bringupTimeout p) s (fun t => portMoves s t p.val 1 id)))
    ∧ (∀ (u : Fin 16) (s : State),
      let x := portOf s u.val
      (portLive s u.val = true → fwStore .lnkRetrain .lnk u.val 0x020 2 s (fun t => (portOf t u.val).st = 2 ∧ (portOf t u.val).retrain = 3
        ∧ (portOf t u.val).replay = x.replay ∧ (portOf t u.val).rx = x.rx))
      ∧ ((x.st = 9 ∨ x.st = 0 ∨ x.st = 7) → portEnabled s u.val = true → fwStore .lnkRetrain .lnk u.val 0x020 2 s (fun t =>
          portOf t u.val = { Port.reset with st := 1, since := s.now, cause := x.cause }))
      ∧ fwStore .lnkDisable .lnk u.val 0x020 4 s (fun t => portOf t u.val = Port.reset)))

/-- 11 R265-R270: a live port sends a HEARTBEAT with its fabric time and the times of the last one received every microsecond; one from the
upstream that echoes an own HEARTBEAT closes an exchange, whose offset ((t2 - t1) - (t4 - t3)) / 2 is filtered and whose delay is half the
round trip; a TSYNC edge latches the fabric time; HOLDOVER of more than 2 ms clears SYNCED. -/
def Obligations.FabricTime : Prop :=
  (∀ (p : Fin 16) (s : State), portLive s p.val = true →
    let e := (portOf s p.val).hb.getD (0, 0)
    let due := ∀ n, (portOf s p.val).lastHb = some n → n + 1000 ≤ s.now
    (due → completes (.heartbeatSend p) s (fun t => (portOf t p.val).lastHb = some s.now
      ∧ flitSent s t p.val 3 (natBytes 8 s.ftime ++ natBytes 8 e.1 ++ natBytes 8 e.2) ∧ t.ftime = s.ftime ∧ t.fab.ftm = s.fab.ftm))
    ∧ (∀ n, (portOf s p.val).lastHb = some n → s.now < n + 1000 → exec (.heartbeatSend p) s = .next s))
  ∧ (∀ (p : Fin 16) (raw : Flit) (s : State), flitComes s p.val 3 raw →
    let t1 := flitFld raw 20 8
    let t2 := flitFld raw 28 8
    let t3 := flitFld raw 12 8
    let t4 := s.ftime
    let a := signed 64 (t2 + 2 ^ 64 - t1)
    let b := signed 64 (t4 + 2 ^ 64 - t3)
    completes (.heartbeatReceive p raw) s (fun t => (portOf t p.val).hb = some (t3, t4)
      ∧ (upstream s ≠ some p.val → t.fab.ftm = s.fab.ftm ∧ t.ftime = s.ftime)
      ∧ (upstream s = some p.val → portLive s p.val = true → (t1 ≠ 0 ∨ t2 ≠ 0) → tsyncActive s = false → s.fab.ftm.win = [] →
          t.fab.ftm.offset = Int.tdiv (a - b) 2 ∧ t.fab.ftm.holdover = none
          ∧ t.fab.ftm.delay = Int.tdiv (signed 64 (t4 + 2 ^ 64 - t1) - signed 64 (t3 + 2 ^ 64 - t2)) 2 ∧ s.ftime ≤ t.ftime)))
  ∧ (∀ (s : State),
    (tsyncActive s = true → completes .tsyncEdge s (fun t => t.fab.ftm = { s.fab.ftm with latch := some s.ftime }
      ∧ { t with fab := s.fab } = s))
    ∧ (tsyncActive s = false → exec .tsyncEdge s = .next s))
  ∧ (∀ (s : State) (n : Nat), s.fab.ftm.holdover = some n → s.fab.ftm.synced = true →
    (n + 2000000 < s.now → completes .holdoverLimit s (fun t => t.fab.ftm = { s.fab.ftm with synced := false, good := 0 }
      ∧ { t with fab := s.fab } = s))
    ∧ (s.now ≤ n + 2000000 → exec .holdoverLimit s = .next s))

/-! ### Gradient reduction -/

/-- 13 R303-R306, R308, R311, R317: a store of a header address to RDX_ARM arms a bucket whose header passes every check, with its start condition
registered, STATUS ARMED and HCHK written, or refuses it with the code of the check; a start that held is noted; a ready record of a child is used,
or ends the bucket where HCHK differs; the decision is taken when every input qualifies or T(i) has come; a bucket without its result by the limit fails.
13 R309, R310, R312, R313: the bytes of a child's chunk land in its slot and the chunk counts as landed; a leaf's down records make the chunks
they name final; a member whose RESULT is complete delivers, with RESULT_INFO, the time and STATUS DELIVERED; a late own gradient is dropped, or
under CARRY copied into an empty CARRY and counted. -/
def Obligations.Buckets : Prop :=
  (
    (∀ (ctx : Nat) (v : W64) (s : State),
      let hdr := v.toNat % 2 ^ 48
      let k := mkBucket s ctx hdr
      let entry := xlatAddr s (k.cluster / 4) ctx k.startVs
      calm s → ownRange s ctx hdr 128 true = true → hdr % 128 = 0 → (entry + 4 ≤ hdr ∨ hdr + 128 ≤ entry) →
      (armCheck s k = none → threadStore .rdxArm .rdx 0 0 ctx v s (fun t =>
        (∃ b, b < 256 ∧ bucketAt s b = none ∧ bucketAt t b = some k ∧ (∀ c, c ≠ b → bucketAt t c = bucketAt s c)
          ∧ ∃ m, t.sync.msgs = s.sync.msgs ++ [m] ∧ m.obj = xObj (xlatSeen s k.cluster ctx k.startVs)
            ∧ m.op = .watch { ctx := ctx, cond := 0, operand := BitVec.ofNat 32 k.startV, tag := 0, vs := k.startVs, dest := .bucket b } 0 0)
        ∧ memNat t (hdr + 0x68) 4 = 1 ∧ memNat t (hdr + 0x7C) 4 = k.hchk % 2 ^ 32 ∧ onlyBytes s t [(hdr + 0x68, 4), (hdr + 0x7C, 4)]))
      ∧ (∀ code, armCheck s k = some code → threadStore .rdxArm .rdx 0 0 ctx v s (fun t => t.buckets = s.buckets ∧ t.sync = s.sync
        ∧ memNat t (hdr + 0x68) 4 = code ∧ memNat t (hdr + 0x7C) 4 = k.hchk % 2 ^ 32)))
    ∧ (∀ (b : Fin 256) (s : State) (k : Bucket), bucketAt s b.val = some k → k.mark = true → k.met = false → completes (.bucketStartMet b) s (fun t =>
      bucketAt t b.val = some { k with met := true } ∧ { t with buckets := s.buckets } = s))
    ∧ (∀ (b : Fin 256) (side : Side) (s : State) (k : Bucket), bucketAt s b.val = some k →
      (∀ k', k.st = 1 → takeReady s k (side == .right) = .used k' → completes (.readyRecord b side) s (fun t =>
        bucketAt t b.val = some k' ∧ { t with buckets := s.buckets } = s))
      ∧ (∀ c, (k.st = 1 ∨ k.st = 2) → takeReady s k (side == .right) = .fails (some c) → calm s → completes (.readyRecord b side) s (fun t =>
          bucketFails s t b.val k c))
      ∧ (takeReady s k (side == .right) = .nothing → exec (.readyRecord b side) s = .next s))
    ∧ (∀ (b : Fin 256) (s : State) (k : Bucket), bucketQuiet s b.val k → k.st = 1 → clStopped (clusterAt s k.cluster).st = false → k.idx ≠ 0 →
      let late := k.deadline ≠ 0 ∧ k.decideAt ≤ s.ftime
      (late → k.met = false → k.mark = false → (∀ r, ¬((k.kid r).present = true ∧ (k.kid r).seen = true ∧ (k.kid r).count ≠ 0)) → calm s →
        completes (.bucketDecision b) s (fun t => (∃ k', bucketAt t b.val = some k' ∧ k'.st = 2 ∧ k'.own = false ∧ k'.count = 0)
          ∧ memNat t (k.hdr + 0x68) 4 = 2 + 256 * k.cause % 2 ^ 32 ∧ onlyBytes s t [(k.hdr + 0x68, 4)]
          ∧ ∃ o, o ∈ t.fab.waiting ∧ o.t.ty = 2 ∧ o.t.flag = true ∧ o.t.dst = BitVec.ofNat 12 k.parent ∧ (nth o.t.payload 8 0).getLsbD 0 = true))
      ∧ (k.allIn = true → (∃ r, (k.kid r).present = true ∧ (k.kid r).count ≠ 0 ∧ (k.kid r).landed ≤ k.summed) → calm s →
        completes (.bucketDecision b) s (fun t => (∃ k', bucketAt t b.val = some k' ∧ k'.st = 2 ∧ k'.own = true
            ∧ k'.count = 1 + (if k.carries ∧ k.carryIn ≠ 0 then k.carryIn else 0) + (if (k.kid false).present then (k.kid false).count else 0)
                + (if (k.kid true).present then (k.kid true).count else 0))
          ∧ onlyBytes s t [(k.hdr + 0x68, 4)]))
      ∧ (k.allIn = false → ¬late → exec (.bucketDecision b) s = .next s))
    ∧ (∀ (b : Fin 256) (s : State) (k : Bucket), bucketAt s b.val = some k → (k.st = 1 ∨ k.st = 2) → k.idx ≠ 0 → k.fin = false → k.deadline ≠ 0 →
      (k.limit ≤ s.ftime → calm s → completes (.bucketNoResult b) s (fun t => bucketFails s t b.val k 5))
      ∧ (s.ftime < k.limit → exec (.bucketNoResult b) s = .next s)))
  ∧ (
    (∀ (b : Fin 256) (side : Side) (s : State) (k : Bucket),
      let right : Bool := side == .right
      let c := (k.kid right).landed
      let here := k.got.filter (fun g => g.1 == right && g.2.1 == c)
      let at_ := k.slotOf right c
      bucketAt s b.val = some k → k.st = 2 → k.idx ≠ 0 → k.chunkHere right c = true → calm s →
      ((k.kid (!right)).inc = true ∧ (k.kid (!right)).landed ≤ k.summed) →
      here.Pairwise (fun g h => g.2.2.1 + g.2.2.2.length ≤ h.2.2.1 ∨ h.2.2.1 + h.2.2.2.length ≤ g.2.2.1) →
      completes (.chunkPullLand b side) s (fun t =>
        (∃ k', bucketAt t b.val = some k' ∧ (k'.kid right).landed = c + 1 ∧ (k'.kid right).inc = (k.kid right).inc ∧ k'.summed = k.summed
          ∧ k'.got = k.got.filter (fun g => !(g.1 == right && g.2.1 == c)))
        ∧ (∀ g ∈ here, ∀ i, i < g.2.2.2.length → memByte t (at_ + g.2.2.1 + i) = nth g.2.2.2 i 0)
        ∧ onlyBytes s t (here.map (fun g => (at_ + g.2.2.1, g.2.2.2.length)))))
    ∧ (∀ (b : Fin 256) (s : State) (k : Bucket), bucketAt s b.val = some k → k.idx ≠ 0 → k.st = 2 → k.pass2 = false → k.wire = false →
      (∀ r, (k.kid r).present = false) →
      let r := k.record s 2
      r.stepNo = k.stepNo → ¬(r.flags = 0 ∧ r.hchk = 0 ∧ r.chunks = 0) →
      (k.differs r (r.flags.testBit 3) = false → r.flags.testBit 5 = false → r.flags.testBit 1 = false → completes (.downRecord b) s (fun t =>
        (∃ k', bucketAt t b.val = some k' ∧ k'.result = max k.result (min r.chunks k.chunks) ∧ k'.inc = r.flags.testBit 0
          ∧ k'.nonc = r.flags.testBit 3 ∧ (r.flags.testBit 2 = true → k'.fin = true ∧ k'.dcount = r.count)
          ∧ (k.downSeen = false → r.flags.testBit 0 = false → k.count ≠ 0 → k'.excl = true))
        ∧ t.mem = s.mem))
      ∧ (k.differs r (r.flags.testBit 3) = true → calm s → completes (.downRecord b) s (fun t => bucketFails s t b.val k 4)))
    ∧ (∀ (b : Fin 256) (s : State) (k : Bucket), bucketAt s b.val = some k → calm s → k.st = 2 → k.result = k.chunks → (k.idx = 0 ∨ k.fin = true) →
      k.excl = false → (k.summed = k.chunks ∨ k.count = 0) → completes (.bucketDeliver b) s (fun t =>
        memNat t (k.hdr + 0x6C) 4 = k.info % 2 ^ 32 ∧ memNat t (k.hdr + 0x70) 8 = s.ftime % 2 ^ 64
        ∧ memNat t (k.hdr + 0x68) 4 = (3 + 256 * k.cause) % 2 ^ 32 ∧ onlyBytes s t [(k.hdr + 0x68, 16)]
        ∧ (k.settled = true → bucketAt t b.val = none) ∧ (k.settled = false → bucketAt t b.val = some { k with st := 3 })))
    ∧ (∀ (b : Fin 256) (s : State) (k : Bucket), bucketAt s b.val = some k → k.st = 2 → k.own = false → (k.met = true ∨ k.mark = true) →
      k.settled = false → calm s →
      (k.carries = false → completes (.comet b) s (fun t => bucketAt t b.val = some { k with comet := true, settled := true }
        ∧ sameBytes s t ∧ regGet t (regAddr .rdx 0 0x040) = (regGet s (regAddr .rdx 0 0x040) + 1) % 2 ^ 64))
      ∧ (k.carries = true → k.carry = 0 → (engRead s k.ctx k.data k.size).1 = false →
          (k.carryA + k.size ≤ k.hdr + 0x66 ∨ k.hdr + 0x68 ≤ k.carryA) → completes (.comet b) s (fun t =>
        bucketAt t b.val = some { k with comet := true, settled := true, carry := 1 }
        ∧ (∀ i, i < k.size → memByte t (k.carryA + i) = memByte s (k.data + i)) ∧ memNat t (k.hdr + 0x66) 2 = 1
        ∧ onlyBytes s t [(k.carryA, k.size), (k.hdr + 0x66, 2)]))))

/-! ### Parameter update -/

/-- 14 R325, R326, R328, R335: a store of a descriptor's address to UPD_ARM arms a run with its schedules and start conditions, or refuses it with the
code of the check; a segment whose pair is met starts; a child's norm record is taken, the parent's makes CLIP known; a record with another
HCHK, and an uncorrectable error, end the run FAILED.
14 R320, R327, R329, R330, R332, R333: a virtual sequencer's next tile in pass 1 adds the squares of its gradient elements to its sum, in the
order of the elements; in pass 2 a block of one row whose commit succeeds gets the committed exponent, mantissas and remainders, and one
that does not is held; a segment whose tiles are done is DONE, its digests written, and the last one ends the run. -/
def Obligations.UpdateSequencer : Prop :=
  (
    (∀ (ctx : Nat) (v : W64) (s : State),
      let a := v.toNat % 2 ^ 48
      let u := mkRun s ctx a
      calm s → ownRange s ctx a 128 true = true → a % 128 = 0 → (∀ g ∈ u.segs, (u.groupOf g).curve = 0) →
      (runCheck s u = none → threadStore .updArm .upd 0 0 ctx v s (fun t =>
        (∃ r, r < 4 ∧ runAt s r = none ∧ runAt t r = some { u with sched := ((u.segs.map (fun g => g.group)).eraseDups).map (fun q =>
            (q, (groupEntry u.table q).eta, (groupEntry u.table q).lambda)) })
        ∧ t.sync.msgs.length = s.sync.msgs.length + u.pairs.length
        ∧ memNat t (a + 0x38) 4 = 1 ∧ memNat t (a + 0x58) 4 = u.hchk % 2 ^ 32 ∧ onlyBytes s t [(a + 0x38, 4), (a + 0x58, 4)]))
      ∧ (∀ code, runCheck s u = some code → threadStore .updArm .upd 0 0 ctx v s (fun t => t.runs = s.runs ∧ t.sync = s.sync
        ∧ memNat t (a + 0x38) 4 = code ∧ memNat t (a + 0x58) 4 = u.hchk % 2 ^ 32)))
    ∧ (∀ (r : Fin 4) (j : Nat) (s : State) (u : URun) (g : USeg), runAt s r.val = some u → u.segs[j]? = some g → g.started = false →
      u.pairMet g = true → calm s →
      let segs := setAt u.segs j { g with started := true }
      (u.st = 1 → completes (.segmentStart r j) s (fun t => runAt t r.val = some { u with st := 2, segs := segs }
        ∧ memNat t (u.addr + 0x38) 4 = (2 + 256 * u.cause) % 2 ^ 32 ∧ onlyBytes s t [(u.addr + 0x38, 4)]))
      ∧ (u.st = 2 → completes (.segmentStart r j) s (fun t => runAt t r.val = some { u with segs := segs } ∧ sameBytes s t)))
    ∧ (∀ (r : Fin 4) (side : Side) (s : State) (u : URun) (k : Nat × Option W64),
      let i := b2n (side == .right)
      let x := normRecord s u (0x40 * i)
      runAt s r.val = some u → u.kids[i]? = some k → k.2 = none → x.1 = u.stepNo → (x.2.1 ≠ 0 ∨ x.2.2.1 ≠ 0) →
      (x.2.1 = u.hchk → x.2.2.2.1.testBit 0 = false → u.partialS = none → completes (.normReadyRecord r side) s (fun t =>
        runAt t r.val = some { u with kids := setAt u.kids i (k.1, some x.2.2.1) } ∧ { t with runs := s.runs } = s))
      ∧ (x.2.1 ≠ u.hchk → calm s → completes (.normReadyRecord r side) s (fun t => runFails s t r.val u 4)))
    ∧ (∀ (r : Fin 4) (s : State) (u : URun),
      let x := normRecord s u 0x80
      runAt s r.val = some u → u.idx ≠ 0 → u.known = false → u.sent = true → x.1 = u.stepNo → (x.2.1 ≠ 0 ∨ x.2.2.1 ≠ 0) → calm s →
      (x.2.1 = u.hchk → x.2.2.2.1.testBit 0 = false → x.2.2.2.1.testBit 1 = false → (∃ g ∈ u.segs, g.done2 = false ∧ g.skipped = false) →
        completes (.normDownRecord r) s (fun t =>
          (∃ u', runAt t r.val = some u' ∧ u'.known = true ∧ u'.st = 4 ∧ u'.s = x.2.2.1 ∧ u'.clip = x.2.2.2.2 ∧ u'.nonfin = false
            ∧ u'.segs = u.segs)
          ∧ memNat t (u.addr + 0x38) 4 = (4 + 256 * u.cause) % 2 ^ 32 ∧ onlyBytes s t [(u.addr + 0x38, 4)]))
      ∧ (x.2.1 ≠ u.hchk → completes (.normDownRecord r) s (fun t => runFails s t r.val u 4)))
    ∧ (∀ (r : Fin 4) (s : State) (u : URun) (v : Nat), runAt s r.val = some u → v < 16 → (nextTile u v).isSome = true → calm s →
      completes (.updateRunFail r .ecc) s (fun t => runFails s t r.val u 3)))
  ∧ (
    (∀ (r : Fin 4) (v : Fin 16) (s : State) (u : URun) (g : USeg) (j n : Nat), runAt s r.val = some u →
      (clusterAt s (servesV s v.val)).st = .run → nextTile u v.val = some (true, j, n) → u.segs[j]? = some g → calm s →
      (∀ h, weevilOf s h = []) →
      let b := tileBox g n
      let vals := (List.range b.2.1).flatMap (fun i => gradRow s g (b.1 + i) b.2.2.1 b.2.2.2)
      (∀ y ∈ vals, isNaN y = false ∧ isInf y = false) → passOver g j (modAt g.p1 v.val (· + 1)) = false →
      completes (.updateTile r v) s (fun t => sameBytes s t
        ∧ runAt t r.val = some { u with segs := setAt u.segs j { g with
            sums := setAt g.sums v.val (vals.foldl (fun a y => xAdd a (xSquare y)) (nth g.sums v.val 0)), p1 := modAt g.p1 v.val (· + 1) } }))
    ∧ (∀ (r : Fin 4) (v : Fin 16) (s : State) (u : URun) (g : USeg) (j : Nat), runAt s r.val = some u →
      (clusterAt s (servesV s v.val)).st = .run → nextTile u v.val = some (false, j, 0) → u.segs[j]? = some g → calm s →
      (∀ h, weevilOf s h = []) → g.rows = 1 → 0 < g.cols → g.cols ≤ 32 → (u.groupOf g).m1 = false → (u.groupOf g).m2 = false →
      g.fcopy = false → g.tcopy = false →
      let base := g.fld 0x20 8
      let rem := g.fld 0x28 8
      (rem + 32 ≤ base ∨ base + 65 ≤ rem) →
      let mb := b16Block s g base 0 0
      let ms := mb.ms.take g.cols
      let rs := ((memBytes s rem 32).map BitVec.toNat).take g.cols
      let ws := (ms.zip rs).map (fun p => b16Val p.1 p.2 mb.e)
      let sc := u.schedOf g
      let clip := if (u.groupOf g).clips then u.clip else fOne
      let st := (List.range g.cols).map (fun i =>
        element (u.groupOf g) sc.1 sc.2 clip (nth (gradRow s g 0 0 g.cols) i 0) (nth ws i 0) (blkFp32 .b16 0 0) (blkFp32 .b16 0 0))
      mb.e ≠ 255 → (∀ x ∈ st, isNaN x.m1n = false ∧ isInf x.m1n = false ∧ isNaN x.m2n = false ∧ isInf x.m2n = false) →
      (∀ y, commit ws (st.map (fun x => x.delta)) = some y → completes (.updateTile r v) s (fun t =>
        memByte t (base + 64) = BitVec.ofNat 8 y.e ∧ memBytes t base 64 = blockBytesOf .b16 (padTo 32 0 y.m)
        ∧ memBytes t rem 32 = padTo 32 0 (y.r.map (BitVec.ofNat 8)) ∧ onlyBytes s t [(base, 65), (rem, 32)]
        ∧ runAt t r.val = some { u with segs := setAt u.segs j { g with p2 := modAt g.p2 v.val (· + 1) } }))
      ∧ (commit ws (st.map (fun x => x.delta)) = none → completes (.updateTile r v) s (fun t =>
        onlyBytes s t [(g.addr + 0x14, 4), (g.addr + 0x58, 12)] ∧ memNat t (g.addr + 0x60) 4 = (g.held + 1) % 2 ^ 32
        ∧ runAt t r.val = some { u with segs := setAt u.segs j { g with p2 := modAt g.p2 v.val (· + 1), held := g.held + 1, nonfin := true } })))
    ∧ (∀ (r : Fin 4) (j : Nat) (s : State) (u : URun) (g : USeg), runAt s r.val = some u → u.segs[j]? = some g → u.pass2Ok g = true →
      passOver g j g.p2 = true → calm s →
      let st := b2n g.done1 + 2 + 4 * b2n g.nonfin + 8 * b2n g.skipped
      let dig := segDigest s g
      ((u.known = false ∨ ∃ i h, i ≠ j ∧ u.segs[i]? = some h ∧ h.done2 = false ∧ h.skipped = false) → completes (.segmentDone r j) s (fun t =>
        runAt t r.val = some { u with segs := setAt u.segs j { g with done2 := true } }
        ∧ memNat t (g.addr + 0x14) 4 = st ∧ memNat t (g.addr + 0x58) 8 = g.xsum.toNat
        ∧ (g.digest = false → onlyBytes s t [(g.addr + 0x14, 4), (g.addr + 0x58, 12)])
        ∧ (g.digest = true → (g.addr + 128 ≤ g.fld 0x50 8 ∨ g.fld 0x50 8 + dig.length ≤ g.addr) → memBytes t (g.fld 0x50 8) dig.length = dig)))
      ∧ (u.known = true → u.nonfin = false → g.skipped = false → (∀ i h, i ≠ j → u.segs[i]? = some h → h.done2 = true ∧ h.skipped = false) →
          completes (.segmentDone r j) s (fun t => runAt t r.val = none ∧ memNat t (u.addr + 0x38) 4 = (5 + 256 * u.cause) % 2 ^ 32
            ∧ memNat t (u.addr + 0x3C) 4 = u.clip.toNat ∧ memNat t (u.addr + 0x40) 4 = (xNorm u.s).toNat
            ∧ memNat t (u.addr + 0x48) 8 = u.s.toNat))))

/-! ### Reliability -/

/-- 15 R338-R342, Table 15.5: a record without a match takes the next log sequence number and the fabric time; one of the same fault identity within
100 µs is added to the last, counts saturating and severity rising; CORRECTED ones are dropped from a log full of worse; a FATAL_TO_MODULE
record holds the module in reset; a window closes after 100 µs; CLR_OVERFLOW clears the flag. -/
def Obligations.ErrorLog : Prop :=
  (∀ (r : ErrRec) (s : State), r.sev ≠ 3 → overLimit (logErr s r) r = false →
    ((∀ l ∈ s.err.log, errCoalesces s.ftime r l = false) → s.err.log.length < 4096 → completes (.errorRecord r) s (fun t =>
      t.err = { s.err with next := s.err.next + 1, log := s.err.log ++
        [{ lsn := s.err.next, r := r, forwarded := false, reporter := selfId s, ftime := s.ftime, read := false, told := false, windowOpen := true,
           sinceFwd := 0 }] }
      ∧ { t with err := s.err, regs := s.regs } = s))
    ∧ (∀ pre l, s.err.log = pre ++ [l] → errCoalesces s.ftime r l = true → completes (.errorRecord r) s (fun t =>
        t.err = { s.err with log := pre ++ [{ l with
          r := { l.r with count := satAdd32 l.r.count r.count, sev := if l.r.sev < r.sev then r.sev else l.r.sev }
          sinceFwd := satAdd32 l.sinceFwd r.count }] }
        ∧ { t with err := s.err, regs := s.regs } = s))
    ∧ (r.sev = 0 → 4096 ≤ s.err.log.length → (∀ l ∈ s.err.log, errCoalesces s.ftime r l = false ∧ l.r.sev ≠ 0) → completes (.errorRecord r) s (fun t =>
        t.err = s.err ∧ regGet t (regAddr .err 0 0x038) = (regGet s (regAddr .err 0 0x038) + 1) % 2 ^ 64)))
  ∧ (∀ (r : ErrRec) (s : State), r.sev = 3 → completes (.errorRecord r) s (fun t => t.pkg.held = true ∧ t.pkg.ready = false
    ∧ (∀ c ∈ t.clusters, c.st = .dormant ∨ c.st = .disabled) ∧ t.mem = s.mem))
  ∧ (∀ (lsn : W32) (s : State) (l : LogRec), s.err.log.find? (fun (x : LogRec) => x.lsn == lsn) = some l → l.windowOpen = true →
    (l.ftime + 100000 ≤ s.ftime → completes (.coalesceWindowClose lsn) s (fun t =>
      t.err = { s.err with log := s.err.log.map (fun (x : LogRec) => if x.lsn == lsn then { x with windowOpen := false, sinceFwd := 0 } else x) }
      ∧ { t with err := s.err, fab := s.fab } = s ∧ (l.sinceFwd = 0 → t.fab = s.fab)))
    ∧ (s.ftime < l.ftime + 100000 → exec (.coalesceWindowClose lsn) s = .next s))
  ∧ (∀ (s : State), fwStore .errClrOverflow .err 0 0x008 2 s (fun t => t = { s with err := { s.err with overflow := false } }))

/-- 15 R346-R350, R352: an accepted mark that is a multiple of the period is a boundary: dirty blocks become PENDING and the older area is written;
a mark that is no later is refused and counted; a PENDING block's bytes go to both buddies and the block is CLEAN; when all are, the record goes
out, and its answers complete the generation; a copy found wrong is rebuilt from its master. -/
def Obligations.Checkpoints : Prop :=
  (∀ (ctx : Nat) (v : W64) (s : State) (c : Ckpt), SMap.get? s.ckpts ctx = some c →
    let step : W32 := v.setWidth 32
    (∀ l, c.mark = some l → ¬(step ≠ l ∧ (step - l).toNat < 2 ^ 31) → threadStore .ckpMark .err 0 0x100 ctx v s (fun t =>
      t.ckpts = s.ckpts ∧ regGet t (regAddr .err 0 0x160) = (regGet s (regAddr .err 0 0x160) + 1) % 2 ^ 64))
    ∧ ((∀ l, c.mark = some l → step ≠ l ∧ (step - l).toNat < 2 ^ 31) →
      ((c.period = 0 ∨ step.toNat % c.period ≠ 0) → threadStore .ckpMark .err 0 0x100 ctx v s (fun t =>
        SMap.get? t.ckpts ctx = some { c with mark := some step }))
      ∧ (c.period ≠ 0 → step.toNat % c.period = 0 → c.st ≠ 0 → threadStore .ckpMark .err 0 0x100 ctx v s (fun t =>
        SMap.get? t.ckpts ctx = some { c with mark := some step }
        ∧ regGet t (regAddr .err 0 0x130) = (regGet s (regAddr .err 0 0x130) + 1) % 2 ^ 64))
      ∧ (c.period ≠ 0 → step.toNat % c.period = 0 → c.st = 0 → c.segs = [] → threadStore .ckpMark .err 0 0x100 ctx v s (fun t =>
        (∃ c', SMap.get? t.ckpts ctx = some c' ∧ c'.mark = some step ∧ c'.pend = c.dirty ∧ c'.dirty = [] ∧ c'.step = step ∧ c'.st = 1
          ∧ c'.cur = c.olderArea ∧ (c'.gen c.olderArea).valid = false ∧ c'.gen (1 - c.olderArea) = c.gen (1 - c.olderArea) ∧ c'.recSent = false)
        ∧ t.mem = s.mem))))
  ∧ (∀ (ctx : BitVec 8) (block : Nat) (s : State) (c : Ckpt), SMap.get? s.ckpts ctx.toNat = some c → c.st = 1 → c.pend.contains block = true →
    c.rebuild = [] → s.heldSeq = [] → s.buckets = [] → noRed s → (∀ r ∈ blockParts c block, rangeBad s r.1 r.2 = false) →
    let bs := (blockParts c block).flatMap (fun r => seenBytes s r.1 r.2)
    completes (.ckptBlockCopy ctx block) s (fun t =>
      (∃ c', SMap.get? t.ckpts ctx.toNat = some c' ∧ c'.pend = c.pend.filter (fun b => b != block)
        ∧ c'.crcs = c.crcs ++ [(block, BitVec.ofNat 64 (crc64 bs))] ∧ c'.failed = c.failed ∧ c'.st = 1)
      ∧ (∃ os, t.fab.waiting = s.fab.waiting ++ os ∧ (os.map (fun (o : OutTxn) => (txnWrite o.t).2)).flatten = bs ++ bs
        ∧ ∀ o ∈ os, o.t.ty = 2 ∧ o.t.flag = false ∧ o.t.sctx = 0xFF ∧ (o.t.dst = BitVec.ofNat 12 c.buddies.1 ∨ o.t.dst = BitVec.ofNat 12 c.buddies.2))
      ∧ sameBytes s t))
  ∧ (∀ (ctx : BitVec 8) (s : State) (c : Ckpt), SMap.get? s.ckpts ctx.toNat = some c → c.st = 1 → c.rebuild = [] →
    (c.pend = [] → c.recSent = false → c.failed = (false, false) → completes (.ckptGenerationDone ctx) s (fun t =>
      (∃ c', SMap.get? t.ckpts ctx.toNat = some c' ∧ c'.recSent = true ∧ c'.st = 1)
      ∧ ∃ o1 o2 : OutTxn, t.fab.waiting = s.fab.waiting ++ [o1, o2] ∧ o1.t.dst = BitVec.ofNat 12 c.buddies.1 ∧ o2.t.dst = BitVec.ofNat 12 c.buddies.2
          ∧ o1.t.flag = true ∧ o2.t.flag = true ∧ o1.t.payload = o2.t.payload ∧ o1.t.payload.length = 64
          ∧ o1.t.payload.take 4 = natBytes 4 c.step.toNat))
    ∧ (c.pend = [] → c.recSent = true → c.parts = [] → completes (.ckptGenerationDone ctx) s (fun t =>
        ∃ c', SMap.get? t.ckpts ctx.toNat = some c' ∧ c'.st = 0 ∧ c'.recSent = false
          ∧ c'.gen c.cur = { step := c.step, valid := true, complete := (!c.failed.1, !c.failed.2) }
          ∧ (c.failed = (false, false) → c'.lastDone = some c.step)))
    ∧ (c.pend ≠ [] → exec (.ckptGenerationDone ctx) s = .next s))
  ∧ (∀ (ctx : BitVec 8) (a : Nat) (s : State) (c : Ckpt) (e : Nat × List Byte), SMap.get? s.ckpts ctx.toNat = some c →
    c.segs.find? (fun e => e.1 == a) = some e →
    let g := segOf e
    let m := b16Block s g (g.fld 0x20 8) 0 0
    let o := toBlock (m.ms.map (fun i => blkFp32 .b16 m.e i)) .b8 none
    (c.rebuild.contains a = true → g.rows = 1 → 0 < g.cols → g.cols ≤ 32 → g.fcopy = true → g.tcopy = false → g.digest = false → noRed s → winsIdle s →
      completes (.copyRebuild ctx a) s (fun t =>
        memBytes t (g.fld 0x40 8) 32 = blockBytesOf .b8 o.ms ∧ memByte t (g.fld 0x40 8 + 32) = BitVec.ofNat 8 o.e
        ∧ onlyBytes s t [(g.fld 0x40 8, 33)]
        ∧ ∃ c', SMap.get? t.ckpts ctx.toNat = some c' ∧ c'.rebuild = c.rebuild.filter (fun x => x != a)))
    ∧ (c.rebuild.contains a = false → exec (.copyRebuild ctx a) s = .next s))

/-- 15 R353-R358, 12 R272: heartbeats go to every mesh peer every 100 µs; a peer whose heartbeats are missing and whose port has failed is dead; an MGMT
transaction is handed to firmware; a recovery tears its job down, restores each context to a usable generation, and resumes. -/
def Obligations.HeartbeatsAndRecovery : Prop :=
  (∀ (s : State), s.pkg.ready = true →
    (s.fw.lastHb + 100000 ≤ s.now → completes .moduleHeartbeatSend s (fun t => t.fw = { s.fw with lastHb := s.now }
      ∧ ∃ os, t.fab.waiting = s.fab.waiting ++ os ∧ os.map (fun (o : OutTxn) => o.t.dst.toNat) = (meshPeers s).map (fun m => m % 4096)
          ∧ ∀ o ∈ os, o.t.ty = 7 ∧ o.t.op = (Config.mgmtWrite (.heartbeat (beatState s))).1))
    ∧ (s.now < s.fw.lastHb + 100000 → exec .moduleHeartbeatSend s = .next s))
  ∧ (∀ (peer : BitVec 12) (s : State) (m : MeshPeer) (n : Nat), SMap.get? s.fw.mesh peer.toNat = some m → m.dead = false → m.last = some n →
    (n + 300000 ≤ s.now → (connOf s peer.toNat).st = .unreachable → completes (.moduleHeartbeatMiss peer) s (fun t =>
      SMap.get? t.fw.mesh peer.toNat = some { m with dead := true } ∧ t.mem = s.mem))
    ∧ (s.now < n + 300000 → exec (.moduleHeartbeatMiss peer) s = .next s))
  ∧ (∀ (d : Fin 4) (x : Txn) (s : State), x.ty = 7 → (s.fabricId = none ∨ s.fabricId = some x.dst) → completes (.fabricMgmtReceive d x) s (fun t =>
    t.fab.inbox = s.fab.inbox ++ [x]
    ∧ (∀ st, Config.mgmtRead x.op x.payload = .heartbeat st → st ≠ 2 →
        ∃ p, SMap.get? t.fw.mesh x.src.toNat = some p ∧ p.last = some s.now ∧ p.dying = false)))
  ∧ (∀ (job : BitVec 16) (lost : Option (BitVec 12)) (f : W32) (s : State), s.pkg.ready = true → job ≠ 0 → jobCtxs s job.toNat ≠ [] →
    let j := job.toNat
    (SMap.get? s.fw.recovs j = none → completes (.recoveryOpen job lost f) s (fun t =>
      SMap.get? t.fw.recovs j = some { number := s.fw.nextRec, job := j, faults := [f], lost := [], opened := s.ftime, phase := 1 }
      ∧ (∀ x ∈ jobCtxs s j, ∀ c, SMap.get? t.ctxs x = some c → c.job = j → c.quiesced = true)
      ∧ (∀ x ∈ jobCtxs s j, ∀ n i g, groupOf t n i = some g → g.ctx ≠ x)))
    ∧ (∀ r, SMap.get? s.fw.recovs j = some r → r.faults.contains f = true → r.phase = 1 → lost = none → completes (.recoveryOpen job lost f) s (fun t =>
        SMap.get? t.fw.recovs j = some { r with phase := 2 } ∧ { t with fw := s.fw } = s))
    ∧ (∀ r x c area, SMap.get? s.fw.recovs j = some r → r.faults.contains f = true → r.phase = 2 → jobCtxs s j = [x] →
        SMap.get? s.ckpts x = some c → usableGens c = [area] → c.segs = [] →
        let img := if area = 0 then c.imgs.1 else c.imgs.2
        SMap.sorted img = true → completes (.recoveryOpen job lost f) s (fun t =>
          SMap.get? t.fw.recovs j = some { r with phase := 3 }
          ∧ (∀ a, inRanges c.ranges a = true → memByte t a = SMap.getD img a 0)
          ∧ ∃ c', SMap.get? t.ckpts x = some c' ∧ c'.mark = some (c.gen area).step ∧ c'.dirty = [] ∧ c'.pend = []))
    ∧ (∀ r, SMap.get? s.fw.recovs j = some r → r.faults.contains f = true → r.phase = 3 → completes (.recoveryOpen job lost f) s (fun t =>
        SMap.get? t.fw.recovs j = none
        ∧ ∀ x ∈ jobCtxs s j, ∀ c, SMap.get? s.ctxs x = some c → c.job = j → SMap.get? t.ctxs x = some { c with quiesced := false })))

/-! ### Mailboxes and sessions -/

/-- 16 R361, R363, R365, 19 R429: GO takes a request or sets OVERRUN; a request whose LENGTH or OPCODE is bad is answered at once; SMBus mailboxes take
their request in fragments, give their response in fragments, and show their state; the status byte. -/
def Obligations.MailboxExchange : Prop :=
  (∀ (k : Fin 9) (req : List Byte) (s : State), s.pkg.pwrgood = true → s.pkg.perst = true → s.pkg.held = false → s.pkg.noFirmware = false →
    mbxGoes (.mbxGo k req) k.val req s)
  ∧ (∀ (m : Fin 2) (s : State), s.pkg.pwrgood = true → s.pkg.held = false → s.pkg.noFirmware = false →
    mbxGoes (.smbGo m) (9 + m.val) (mbxOf s (9 + m.val)).req s)
  ∧ (∀ (m : Fin 2) (off : Nat) (frag : List Byte) (s : State), s.pkg.pwrgood = true → s.pkg.held = false → s.pkg.noFirmware = false → frag ≠ [] →
    frag.length ≤ 240 → off + frag.length ≤ 4096 → (mbxOf s (9 + m.val)).st ≠ 1 →
    let r := padTo 4096 0 (mbxOf s (9 + m.val)).req
    completes (.smbBlockWrite m off frag) s (fun t =>
      mbxOf t (9 + m.val) = { mbxOf s (9 + m.val) with req := r.take off ++ frag ++ r.drop (off + frag.length) }
      ∧ othersKept s t (9 + m.val) ∧ { t with mbx := s.mbx } = s))
  ∧ (∀ (m : Fin 2) (s : State), s.pkg.held = false → (mbxOf s (9 + m.val)).st = 2 →
    let x := mbxOf s (9 + m.val)
    completes (.smbBlockRead m) s (fun t => t.fw = { s.fw with rdSmb := natBytes 2 x.readAt ++ (x.rsp.drop x.readAt).take 240 }
      ∧ mbxOf t (9 + m.val) = { x with readAt := if x.readAt + 240 < x.rsp.length then x.readAt + 240 else x.readAt }
      ∧ { t with mbx := s.mbx, fw := s.fw } = s))
  ∧ (∀ (m : Fin 2) (s : State), completes (.smbStateRead m) s (fun t =>
    t = { s with fw := { s.fw with rdSmb := [BitVec.ofNat 8 (mbxOf s (9 + m.val)).st] } }))
  ∧ (∀ (s : State), completes .smbStatusRead s (fun t => t = { s with fw := { s.fw with rdSmb :=
      [BitVec.ofNat 8 (b2n s.pkg.ready + 2 * b2n s.pkg.held + 4 * b2n s.pkg.noFirmware + 8 * b2n s.pkg.thermtrip + 16 * b2n s.pkg.railFault)] } }))

/-- 17 R385-R389: SESSION_OPEN gives a PENDING session with a nonce; SESSION_AUTH with the right proof opens it, with keys by HKDF, and with a wrong one
ends it and counts the failure, the eighth locking the key; SESSION_CLOSE and 1 s without authentication end it; a lock expires. -/
def Obligations.Sessions : Prop :=
  (∀ (m : Fin 11) (s : State), sessionDue s m.val 0x001 40 →
    let id := bodyF s m.val 0 4
    let level := bodyF s m.val 4 1
    (∀ r, s.sec.error = false → keyOf s id = some r → level ≤ 3 → keyLocked s id = false → r.mask.testBit level = true →
      levelOpen s.sec.lcs level = true → completes (.sessionOpen m) s (fun t => ∃ x : Session,
        (mbxOf t m.val).session = some x ∧ x.pending = true ∧ x.keyId = id ∧ x.level = level ∧ x.expect = 0 ∧ x.opened = s.now
        ∧ x.hostNonce = ((mbxOf s m.val).req.drop 40).take 32 ∧ x.devNonce.length = 32
        ∧ ((∀ b ∈ s.mbx, b.session = none) → x.id ≠ 0)
        ∧ replyOf t m.val 0 (natBytes 4 x.id.toNat ++ natBytes 4 0 ++ x.devNonce) ∧ t.sec = s.sec))
    ∧ (s.sec.error = true → completes (.sessionOpen m) s (fun t => replyOf t m.val 0x10B (natBytes 4 0xFFFFFFFF) ∧ t.sec = s.sec))
    ∧ (s.sec.error = false → keyOf s id = none → completes (.sessionOpen m) s (fun t => replyOf t m.val 0x107 (natBytes 4 0)))
    ∧ (∀ r, s.sec.error = false → keyOf s id = some r → level ≤ 3 → keyLocked s id = true → completes (.sessionOpen m) s (fun t =>
        replyOf t m.val 0x10A (natBytes 4 0) ∧ (mbxOf t m.val).session = (mbxOf s m.val).session))
    ∧ (∀ r, s.sec.error = false → keyOf s id = some r → level ≤ 3 → keyLocked s id = false →
        (r.mask.testBit level = false ∨ levelOpen s.sec.lcs level = false) → completes (.sessionOpen m) s (fun t =>
          replyOf t m.val 0x106 (natBytes 4 4) ∧ (mbxOf t m.val).session = (mbxOf s m.val).session)))
  ∧ (∀ (m : Fin 11) (s : State), sessionDue s m.val 0x002 56 →
    (∀ x, (mbxOf s m.val).session = some x → x.pending = true → x.id.toNat ≠ bodyF s m.val 0 4) → completes (.sessionAuth m) s (fun t =>
      replyOf t m.val 0x103 (natBytes 4 0) ∧ (mbxOf t m.val).session = (mbxOf s m.val).session ∧ t.sec = s.sec))
  ∧ (∀ (m : Fin 11) (s : State) (x : Session) (r : KeyRec), sessionDue s m.val 0x002 56 → (mbxOf s m.val).session = some x → x.pending = true →
    x.id.toNat = bodyF s m.val 0 4 → s.sec.error = false → keyOf s x.keyId = some r →
    let proof := ((mbxOf s m.val).req.drop 40).take 48
    let a := authOf s x.keyId
    (proof = proofOf "THZ1-H" r.key x →
      let okm := hkdf384 r.key (x.hostNonce ++ x.devNonce) (ascii "THZ1-MSG" ++ sessionTail x) 96
      completes (.sessionAuth m) s (fun t => replyOf t m.val 0 (proofOf "THZ1-D" r.key x)
        ∧ (mbxOf t m.val).session = some { x with pending := false, expect := 1, reqKey := okm.take 48, rspKey := okm.drop 48 }
        ∧ SMap.get? t.sec.auth x.keyId = none ∧ regGet t (regAddr .sec 0 0x020) = (regGet s (regAddr .sec 0 0x020) + 1) % 2 ^ 64))
    ∧ (proof ≠ proofOf "THZ1-H" r.key x → completes (.sessionAuth m) s (fun t => replyOf t m.val 0x105 (natBytes 4 8)
        ∧ (mbxOf t m.val).session = none
        ∧ authOf t x.keyId = (if 8 ≤ a.fails + 1 then ⟨a.fails + 1, some (s.now + a.span * 1000000000), min 1024 (2 * a.span)⟩
            else { a with fails := a.fails + 1 })
        ∧ regGet t (regAddr .sec 0 0x018) = (regGet s (regAddr .sec 0 0x018) + 1) % 2 ^ 64)))
  ∧ (∀ (m : Fin 11) (s : State), commandDue s m.val 0x003 0 [] → completes (.sessionClose m) s (fun t =>
    replyOf t m.val 0 [] ∧ (mbxOf t m.val).session = none ∧ othersKept s t m.val))
  ∧ (∀ (m : Fin 11) (s : State) (x : Session), (mbxOf s m.val).session = some x → x.pending = true →
    (x.opened + 1000000000 ≤ s.now → completes (.sessionAuthTimeout m) s (fun t =>
      mbxOf t m.val = { mbxOf s m.val with session := none } ∧ othersKept s t m.val ∧ { t with mbx := s.mbx } = s))
    ∧ (s.now < x.opened + 1000000000 → exec (.sessionAuthTimeout m) s = .next s))
  ∧ (∀ (k : W32) (s : State) (n : Nat), (authOf s k.toNat).lock = some n →
    (n ≤ s.now → completes (.keyLockExpire k) s (fun t => authOf t k.toNat = { authOf s k.toNat with lock := none }
      ∧ (∀ j, j ≠ k.toNat → authOf t j = authOf s j) ∧ { t with sec := { t.sec with auth := s.sec.auth } } = s))
    ∧ (s.now < n → exec (.keyLockExpire k) s = .next s))

/-- 16 R363: the checks of a request come in order, LENGTH, session, SEQUENCE, MAC, level, reserved bytes, life-cycle state and ownership; the first that
fails answers, and the command has no effect; a failed SEQUENCE or MAC leaves the expected SEQUENCE too. A command's opcode `op`, length `len` and listed fields `fs`, by its own row. -/
def Obligations.CommandChecks : Prop :=
  ∀ (c : Fin 11 → Instr) (op len : Nat) (fs : List (Nat × Nat)),
    (c, op, len, fs) ∈ ([(.sessionClose, 0x003, 0, []), (.ctxDestroy, 0x102, 4, [(0, 1)]), (.regionUnmap, 0x202, 4, [(0, 1), (2, 2)]),
      (.regionEpoch, 0x203, 4, [(0, 1), (2, 2)]), (.queueDestroy, 0x302, 4, [(0, 4)]), (.sparePolicy, 0x704, 12, [(0, 1), (2, 2), (4, 4), (8, 4)]),
      (.dptRead, 0x801, 4, [(0, 1), (2, 2)]), (.telemetryRead, 0x802, 4, [(0, 1)]), (.powerLimitSet, 0x804, 4, [(0, 4)]),
      (.selftestRun, 0x902, 4, [(0, 4)]), (.lifecycleAdvance, 0x904, 4, [(0, 1), (1, 1)])] : List ((Fin 11 → Instr) × Nat × Nat × List (Nat × Nat))) →
    ∀ (m : Fin 11) (s : State), commandWaits s m.val op →
      let others : State → Prop := fun t => t.ctxs = s.ctxs ∧ t.regions = s.regions ∧ t.que.descs = s.que.descs ∧ t.sec = s.sec ∧ t.mem = s.mem
        ∧ t.cores = s.cores ∧ t.pwr = s.pwr ∧ t.cic = s.cic ∧ t.fw = s.fw ∧ othersKept s t m.val
      (∀ st, headerCheck s m.val len = some st → completes (c m) s (fun t => replyOf t m.val st (natBytes 4 0xFFFFFFFF) ∧ others t
        ∧ (st = 0x104 ∨ st = 0x105 → ∀ x, authSession s m.val = some x → x.expect < 2 ^ 32 → (mbxOf t m.val).session = some x)))
      ∧ (headerCheck s m.val len = none →
        (∀ off, reservedBad s m.val len fs = some off → completes (c m) s (fun t => replyOf t m.val 0x107 (natBytes 4 off) ∧ others t))
        ∧ (reservedBad s m.val len fs = none → ctxOp op = true → s.sec.lcs ≠ 3 → completes (c m) s (fun t =>
            replyOf t m.val 0x10B (natBytes 4 0xFFFFFFFF) ∧ others t))
        ∧ (reservedBad s m.val len fs = none → (ctxOp op = true → s.sec.lcs = 3) → ownStatus s m.val ≠ 0 → completes (c m) s (fun t =>
            replyOf t m.val (ownStatus s m.val) (natBytes 4 0) ∧ others t)))

/-! ### Contexts -/

/-- 16 R367-R369: CTX_CREATE gives the lowest free context with its event queue; CTX_DESTROY leaves nothing of a context.
16 R369: CTX_PREEMPT stops launches at once and answers when every group is suspended; without effect for 100 ms it is withdrawn; RESUME makes the
suspended records RESTORING. -/
def Obligations.ContextCommands : Prop :=
  (
    (∀ (m : Fin 11) (s : State) (c : Nat) (x : Session), commandDue s m.val 0x101 28 [(0, 4), (4, 2), (8, 8), (16, 8), (24, 1)] →
      authSession s m.val = some x → c < 255 → SMap.get? s.ctxs c = none → (∀ i, i < c → SMap.get? s.ctxs i ≠ none) →
      let f := bodyF s m.val
      f 0 4 ≤ 3 → f 8 8 % 4096 = 0 → freeMemory s (f 8 8) parkAreaBytes = true → 6 ≤ f 24 1 → f 24 1 ≤ 20 → f 16 8 % 128 = 0 →
      freeMemory s (f 16 8) (32 * 2 ^ f 24 1) = true → overlaps (f 8 8) parkAreaBytes (f 16 8) (32 * 2 ^ f 24 1) = false →
      s.que.descs.length < 1048576 → (s.fab.relay = true → completes (.ctxCreate m) s (fun t => replyOf t m.val 0x10A (natBytes 4 0xFFFFFFFF)
        ∧ t.ctxs = s.ctxs)) ∧ (s.fab.relay = false →
      completes (.ctxCreate m) s (fun t => ∃ q, q < 1048576 ∧ SMap.get? s.que.descs q = none
        ∧ replyOf t m.val 0 (natBytes 4 c ++ natBytes 4 q)
        ∧ SMap.get? t.que.descs q = some (newQueue (f 16 8) 2 (f 24 1) 1 c 0 0 0 0)
        ∧ SMap.get? t.ctxs c = some
            { canonical := (f 0 4).testBit 0, deadchk := (f 0 4).testBit 1, job := f 4 2, parkBase := f 8 8, evq := q, keyId := x.keyId,
              preempted := false, preemptAt := none, rearm := false, quiesced := false }
        ∧ (∀ i, i ≠ c → SMap.get? t.ctxs i = SMap.get? s.ctxs i) ∧ (∀ i, i ≠ q → SMap.get? t.que.descs i = SMap.get? s.que.descs i)
        ∧ t.mem = s.mem ∧ t.cores = s.cores)))
    ∧ (∀ (m : Fin 11) (s : State), commandDue s m.val 0x102 4 [(0, 1)] → s.jobs = [] → s.que.launches = [] → s.fab.conns = [] →
      let c := bodyF s m.val 0 1
      completes (.ctxDestroy m) s (fun t => replyOf t m.val 0 [] ∧ SMap.get? t.ctxs c = none ∧ SMap.get? t.ckpts c = none
        ∧ SMap.get? t.utables c = none ∧ SMap.get? t.fw.preempts c = none
        ∧ (∀ i, i ≠ c → SMap.get? t.ctxs i = SMap.get? s.ctxs i)
        ∧ (∀ n i g, groupOf t n i = some g → g.ctx ≠ c)
        ∧ (∀ i r, SMap.get? t.regions i = some r → r.valid = true → r.owner ≠ c)
        ∧ (∀ q d, SMap.get? t.que.descs q = some d → d.owner ≠ c)
        ∧ (∀ v, v < 65536 → xlatRaw t c v = 0) ∧ (∀ e ∈ t.trackers, e.2.owner ≠ c))))
  ∧ (
    (∀ (m : Fin 11) (s : State) (c : Ctx), commandDue s m.val 0x103 4 [(0, 1), (1, 1), (2, 1)] →
      let f := bodyF s m.val
      SMap.get? s.ctxs (f 0 1) = some c →
      (f 1 1 = 0 → f 2 1 ≤ 1 → c.preempted = false → completes (.ctxPreempt m) s (fun t =>
        SMap.get? t.ctxs (f 0 1) = some { c with preemptAt := some s.now, rearm := decide (f 2 1 = 1) }
        ∧ SMap.get? t.fw.preempts (f 0 1) = some (s.now, m.val) ∧ (mbxOf t m.val).st = 1 ∧ (mbxOf t m.val).stage = 2
        ∧ t.cores = s.cores ∧ t.mem = s.mem))
      ∧ (f 1 1 = 0 → f 2 1 ≤ 1 → c.preempted = true → completes (.ctxPreempt m) s (fun t => replyOf t m.val 0x10B (natBytes 4 0) ∧ t.ctxs = s.ctxs))
      ∧ (f 1 1 = 1 → c.preempted = true → completes (.ctxResume m) s (fun t => replyOf t m.val 0 []
          ∧ SMap.get? t.ctxs (f 0 1) = some { c with preempted := false, rearm := false }
          ∧ (s.sync.objs = [] → t.cores = s.cores.map (fun (k : Core) => { k with recs := k.recs.map (fun (r : Rec) =>
              match r.grp with
              | some g => if g.ctx = f 0 1 ∧ r.st = .suspended then { r with st := .restoring } else r
              | none => r) }))))
      ∧ (f 1 1 = 1 → c.preempted = false → completes (.ctxResume m) s (fun t => replyOf t m.val 0x10B (natBytes 4 0) ∧ t.ctxs = s.ctxs)))
    ∧ (∀ (ctx : BitVec 8) (s : State) (c : Ctx) (p : Nat × Nat), SMap.get? s.fw.preempts ctx.toNat = some p → p.2 < 11 →
      SMap.get? s.ctxs ctx.toNat = some c →
      (preemptReady s ctx.toNat = true → completes (.preemptEffect ctx) s (fun t => replyOf t p.2 0 []
        ∧ SMap.get? t.ctxs ctx.toNat = some { c with preempted := true, preemptAt := none } ∧ SMap.get? t.fw.preempts ctx.toNat = none
        ∧ (∀ n i g r, ctxSlots s ctx.toNat = [(n, i)] → groupOf s n i = some g → freeRec (coreOf s n) = some r → s.sync.objs = [] →
            groupOf t n i = none ∧ (nth (coreOf t n).recs r Rec.reset).st = .suspended)))
      ∧ (preemptReady s ctx.toNat = false → exec (.preemptEffect ctx) s = .next s)
      ∧ (p.1 + 100000000 ≤ s.now → completes (.preemptWithdraw ctx) s (fun t => replyOf t p.2 0x10A (natBytes 4 0)
          ∧ SMap.get? t.ctxs ctx.toNat = some { c with preemptAt := none, rearm := false } ∧ SMap.get? t.fw.preempts ctx.toNat = none
          ∧ t.cores = s.cores))
      ∧ (s.now < p.1 + 100000000 → exec (.preemptWithdraw ctx) s = .next s)))

/-! ### What commands map, create and free -/

/-- 16 R370, 12 R287, R288: REGION_MAP writes an entry, its index and key chosen where the request leaves them; REGION_UNMAP removes it, but for its count of NAKs, and answers when what
was admitted is performed; REGION_EPOCH advances its epoch.
16 R371, R373: QUEUE_CREATE gives a free QID with an empty queue; QUEUE_DESTROY takes the descriptor and what is held for it away, and refuses an event queue. -/
def Obligations.RegionAndQueueCommands : Prop :=
  (
    (∀ (m : Fin 11) (s : State), commandDue s m.val 0x201 32
        [(0, 1), (1, 1), (2, 1), (3, 1), (4, 2), (6, 2), (8, 8), (16, 8), (24, 4), (28, 2)] →
      let f := bodyF s m.val
      let imp := decide (f 1 1 = 1)
      let exported := !imp && (f 2 1).testBit 3
      let drawn := exported && decide (f 24 4 = 0)
      let ways := field (f 3 1) 4 4
      regionBad s f = none → ((f 3 1 % 8 = 0 ∧ (ways = 0 ∨ ways = 15)) ∨ levelOf s m.val = 0) →
      (f 4 2 = 0xFFFF → ∃ i, i < 4096 ∧ (regionAt s i).valid = false) →
      (f 4 2 ≠ 0xFFFF → (regionAt s (f 4 2)).valid = true → (regionAt s (f 4 2)).owner = f 0 1) →
      completes (.regionMap m) s (fun t => ∃ (i : Nat) (key : W32), i < 4096 ∧ (f 4 2 ≠ 0xFFFF → i = f 4 2)
        ∧ ((regionAt s i).valid = true → (regionAt s i).owner = f 0 1)
        ∧ (if drawn then key ≠ 0 else key = BitVec.ofNat 32 (f 24 4))
        ∧ replyOf t m.val 0 (natBytes 4 i ++ natBytes 4 (if drawn then key.toNat else 0))
        ∧ SMap.get? t.regions i = some
            { valid := true, kind := imp, owner := f 0 1, base := f 8 8 / 4096, limit := f 16 8 / 4096,
              peer := if imp then BitVec.ofNat 12 (f 6 2) else 0, ridx := if imp then BitVec.ofNat 12 (f 28 2) else 0, key := key,
              epoch := (regionAt s i).epoch, noncache := imp && (f 2 1).testBit 4, exported := exported, accum := (f 2 1).testBit 2,
              write := (f 2 1).testBit 1, read := (f 2 1).testBit 0, naks := (regionAt s i).naks }
        ∧ (∀ j, j ≠ i → regionAt t j = regionAt s j)
        ∧ (∀ h, ∀ y ∈ sliceAt t h, ¬(y.kind = .far ∧ y.rgn = i)) ∧ sameBytes s t))
    ∧ (∀ (m : Fin 11) (s : State), commandDue s m.val 0x202 4 [(0, 1), (2, 2)] →
      let i := bodyF s m.val 2 2
      (entryStatus s m.val = 0 → entryBusy s i = false → completes (.regionUnmap m) s (fun t => replyOf t m.val 0 []
        ∧ regionAt t i = { Region.none with naks := (regionAt s i).naks } ∧ (∀ j, j ≠ i → regionAt t j = regionAt s j) ∧ sameBytes s t))
      ∧ (entryStatus s m.val = 0 → entryBusy s i = true → completes (.regionUnmap m) s (fun t => (mbxOf t m.val).st = 1
          ∧ (mbxOf t m.val).stage = 2 ∧ regionAt t i = { Region.none with naks := (regionAt s i).naks } ∧ (∀ j, j ≠ i → regionAt t j = regionAt s j)))
      ∧ (entryStatus s m.val ≠ 0 → completes (.regionUnmap m) s (fun t => replyOf t m.val (entryStatus s m.val) (natBytes 4 2) ∧ t.regions = s.regions)))
    ∧ (∀ (m : Fin 11) (s : State), commandDue s m.val 0x203 4 [(0, 1), (2, 2)] →
      let i := bodyF s m.val 2 2
      (entryStatus s m.val = 0 → completes (.regionEpoch m) s (fun t => replyOf t m.val 0 (natBytes 4 (((regionAt s i).epoch + 1) % 65536))
        ∧ regionAt t i = { regionAt s i with epoch := ((regionAt s i).epoch + 1) % 65536 } ∧ (∀ j, j ≠ i → regionAt t j = regionAt s j)
        ∧ t.mem = s.mem))
      ∧ (entryStatus s m.val ≠ 0 → completes (.regionEpoch m) s (fun t => replyOf t m.val (entryStatus s m.val) (natBytes 4 2) ∧ t.regions = s.regions))))
  ∧ (
    (∀ (m : Fin 11) (s : State), commandDue s m.val 0x301 24 [(0, 1), (1, 1), (2, 1), (3, 1), (4, 4), (8, 8), (16, 2), (18, 2), (20, 2)] →
      let f := bodyF s m.val
      let bytes := 32 * f 3 1 * 2 ^ f 2 1
      f 1 1 ≤ 3 → 4 ≤ f 2 1 → f 2 1 ≤ 20 →
      ((f 1 1 ≤ 1 → f 3 1 = 2) ∧ (f 1 1 = 2 → f 3 1 = 1) ∧ (f 1 1 = 3 → f 3 1 = 1 ∨ f 3 1 = 2 ∨ f 3 1 = 4)) →
      f 4 4 &&& 0xFFFF00E1 = 0 → f 8 8 % 128 = 0 → f 8 8 < 2 ^ 48 → (localRegion s (f 0 1) (f 8 8) bytes .read).isSome = true →
      (localRegion s (f 0 1) (f 8 8) bytes .write).isSome = true → f 18 2 ≤ 1 → f 20 2 < 64 → ¬(f 1 1 = 1 ∧ field (f 20 2) 4 2 = 3) →
      s.que.descs.length < 1048576 →
      completes (.queueCreate m) s (fun t => ∃ q, q < 1048576 ∧ SMap.get? s.que.descs q = none
        ∧ replyOf t m.val 0 (natBytes 4 q ++ natBytes 4 0 ++ natBytes 8 (0xFE0000000000 + 8 * q) ++ natBytes 4 (0x800000 + 8 * q))
        ∧ SMap.get? t.que.descs q = some (newQueue (f 8 8) (f 1 1) (f 2 1) (f 3 1) (f 0 1) (f 4 4) (f 16 2) (f 18 2) (f 20 2))
        ∧ (∀ j, j ≠ q → SMap.get? t.que.descs j = SMap.get? s.que.descs j) ∧ t.mem = s.mem))
    ∧ (∀ (m : Fin 11) (s : State) (d : QDesc), commandDue s m.val 0x302 4 [(0, 4)] →
      let q := bodyF s m.val 0 4
      SMap.get? s.que.descs q = some d →
      ((∀ e ∈ s.ctxs, e.2.evq ≠ q) → queueBusy s q = false → completes (.queueDestroy m) s (fun t =>
        replyOf t m.val 0 (natBytes 4 d.prod.toNat ++ natBytes 4 d.cons.toNat) ∧ SMap.get? t.que.descs q = none
        ∧ (∀ j, j ≠ q → SMap.get? t.que.descs j = SMap.get? s.que.descs j)
        ∧ (∀ h ∈ t.que.held, h.qid ≠ q) ∧ (∀ e ∈ t.sync.held, ∀ h ∈ e.2, h.qid ≠ q) ∧ t.mem = s.mem))
      ∧ ((∀ e ∈ s.ctxs, e.2.evq ≠ q) → SMap.sorted s.que.launches = true → queueBusy s q = true → completes (.queueDestroy m) s (fun t => (mbxOf t m.val).st = 1
          ∧ SMap.get? t.que.descs q = some { d with closing := true }))
      ∧ ((∃ e ∈ s.ctxs, e.2.evq = q) → completes (.queueDestroy m) s (fun t => replyOf t m.val 0x10A (natBytes 4 0) ∧ t.que.descs = s.que.descs))))

/-- 16 R372, 10 R225, R240, R245, 03 R61: SYNC_MAP creates, shares and unmaps virtual IDs; FIREFLY_GRANT gives and takes the lines; TRACKER_ALLOC
gives and frees trackers. -/
def Obligations.SyncAndTrackerCommands : Prop :=
  (∀ (m : Fin 11) (s : State), commandDue s m.val 0x501 16 syncFields →
    let f := bodyF s m.val
    let ctx := f 0 1
    let v := f 4 2
    let n := f 6 2
    syncBad f = none → Memory.wf s.mem.cells = true →
    (f 1 1 = 0 → (∀ i, i < n → xValid (xlatRaw s ctx (v + i)) = false) → (∀ p, named s p = true → (SMap.get? s.sync.objs p).isSome = true) →
      s.sync.objs.length + n ≤ 65536 → completes (.syncMapCreate m) s (fun t => replyOf t m.val 0 (natBytes 4 n)
        ∧ (∀ i, i < n → ∃ p, p < 65536 ∧ xlatRaw t ctx (v + i) = p + 65536 * (1 + 2 * f 2 1) + 2 ^ 19 ∧ named s p = false
            ∧ objOf t p = { SyncObj.reset with st := .armed, cnt := BitVec.ofNat 32 (f 8 4), owner := ctx })))
    ∧ (∀ k x, f 1 1 = 1 → SMap.get? s.ctxs (f 12 1) = some k → authSession s m.val = some x → (x.level = 1 → k.keyId = x.keyId) →
      (∀ i, i < n → xValid (xlatRaw s (f 12 1) (f 14 2 + i)) = true ∧ xOwn (xlatRaw s (f 12 1) (f 14 2 + i)) = true
        ∧ xValid (xlatRaw s ctx (v + i)) = false) → completes (.syncMapShare m) s (fun t => replyOf t m.val 0 (natBytes 4 n)
          ∧ (∀ i, i < n → xlatRaw t ctx (v + i) = xlatRaw s (f 12 1) (f 14 2 + i) % 65536 + 65536 * (1 + 2 * f 2 1)) ∧ t.sync.objs = s.sync.objs))
    ∧ (f 1 1 = 2 → (∀ i, i < n → xValid (xlatRaw s ctx (v + i)) = true →
        (objOf s (xObj (xlatRaw s ctx (v + i)))).waits = [] ∧ (objOf s (xObj (xlatRaw s ctx (v + i)))).watches = []) →
      completes (.syncMapUnmap m) s (fun t =>
        replyOf t m.val 0 (natBytes 4 ((List.range n).filter (fun i => xValid (xlatRaw s ctx (v + i)))).length)
        ∧ (∀ i, i < n → xValid (xlatRaw t ctx (v + i)) = false)
        ∧ (∀ i, i < n → xValid (xlatRaw s ctx (v + i)) = true →
            let p := xObj (xlatRaw s ctx (v + i))
            objOf t p = if named t p then objOf s p else SyncObj.reset))))
  ∧ (∀ (m : Fin 11) (s : State), commandDue s m.val 0x502 72 [(0, 1), (1, 1), (2, 2), (8, 64)] →
    let f := bodyF s m.val
    (f 0 1 ≠ 0xFF → ((ffGrant s).testBit 16 = true → field (ffGrant s) 8 8 = f 0 1) → f 2 2 < 512 → ffPinReserved (f 2 2) = false →
      (∀ n, n < 8 → f (8 + 8 * n) 8 < 2 ^ 48) → completes (.fireflyGrant m) s (fun t => replyOf t m.val 0 []
        ∧ ffGrant t = f 1 1 + 256 * f 0 1 + 65536 ∧ ffPin t = (if s.fab.relay then f 2 2 &&& 0x177 else f 2 2)
        ∧ (∀ n, n < 8 → ffCores t n = if (f 1 1).testBit n then f (8 + 8 * n) 8 else 0)))
    ∧ (f 0 1 = 0xFF → (ffGrant s).testBit 16 = true → completes (.fireflyRevoke m) s (fun t => replyOf t m.val 0 [] ∧ ffGrant t = 0
        ∧ (∀ n, n < 8 → (ffGrant s).testBit n = true → ffCores t n = 0) ∧ t.sync.pinHold = true)))
  ∧ (∀ (m : Fin 11) (s : State), commandDue s m.val 0x702 12 [(0, 1), (1, 1), (2, 1), (3, 1), (4, 1), (5, 1), (6, 2), (8, 2)] →
    let f := bodyF s m.val
    let n := f 6 2
    (f 1 1 = 0 → f 2 1 ≤ 2 → 1 ≤ f 3 1 → f 3 1 ≤ 3 → n ≠ 0 →
      ((f 5 1 ≤ 3 ∧ (trackerRun s (f 5 1) n).isSome = true) ∨ (f 5 1 = 0xFF ∧ ∃ d, d < 4 ∧ (trackerRun s d n).isSome = true)) →
      completes (.trackerAlloc m) s (fun t => ∃ i, i + n ≤ 4096 ∧ (f 5 1 ≤ 3 → i / 1024 = f 5 1) ∧ i / 1024 = (i + n - 1) / 1024
        ∧ replyOf t m.val 0 (natBytes 2 i ++ natBytes 2 n)
        ∧ (∀ k, i ≤ k → k < i + n → trackerOwner s k = 255 ∧ SMap.get? t.trackers k = some
            { owner := f 0 1, enabled := true, fmt := f 2 1, headroom := f 3 1, initE := f 4 1, e := f 4 1, hist := List.replicate 16 0,
              count := 0, obs := 0, obsValid := false, satCount := 0 })
        ∧ (∀ k, (k < i ∨ i + n ≤ k) → SMap.get? t.trackers k = SMap.get? s.trackers k)))
    ∧ (f 1 1 = 1 → f 8 2 + n ≤ 4096 → (∀ k, k < n → trackerOwner s (f 8 2 + k) = f 0 1) → completes (.trackerFree m) s (fun t =>
        replyOf t m.val 0 (natBytes 2 (f 8 2) ++ natBytes 2 n)
        ∧ (∀ k, k < n → SMap.get? t.trackers (f 8 2 + k) = none)
        ∧ (∀ k, (k < f 8 2 ∨ f 8 2 + n ≤ k) → SMap.get? t.trackers k = SMap.get? s.trackers k)))
    ∧ (∀ k0, f 1 1 = 1 → f 8 2 + n ≤ 4096 → k0 < n → trackerOwner s (f 8 2 + k0) ≠ f 0 1 → completes (.trackerFree m) s (fun t =>
        replyOf t m.val 0x109 (natBytes 4 8) ∧ t.trackers = s.trackers)))

/-! ### Training, fabric and device commands -/

/-- What UPDATE_TABLE_SET, CKPT_CONFIG, SPARE_POLICY, ROUTE_SET, LPM_SET and FABRIC_ID_SET write (14 R321, 15 R339, R344, 12 R289, 13 R302, 16 R451). -/
def Obligations.TrainingAndFabricCommands : Prop :=
  (∀ (m : Fin 11) (image : List Byte) (s : State), commandDue s m.val 0x701 16 [(0, 1), (1, 1), (2, 2), (8, 8)] →
    let f := bodyF s m.val
    let n := 64 * f 2 2
    let was := SMap.getD s.utables (f 0 1) ⟨([], []), true⟩
    f 1 1 ≤ 1 → 1 ≤ f 2 2 → f 2 2 ≤ 1024 →
    (f 1 1 = 0 → noRed s ∧ oneSpace s (f 8 8) n = true ∧ (spaceOf s (f 8 8) = .edram ∨ spaceOf s (f 8 8) = .ddr)) →
    let bs := padTo 65536 0 (if f 1 1 = 1 then padTo n 0 (image.take n) else memBytes s (f 8 8) n)
    ((∀ e ∈ s.runs, e.2.ctx = f 0 1 → e.2.second = was.second) → completes (.updateTableSet m image) s (fun t => replyOf t m.val 0 []
      ∧ SMap.get? t.utables (f 0 1) = some ⟨if was.second then (bs, was.copies.2) else (was.copies.1, bs), !was.second⟩ ∧ sameBytes s t))
    ∧ ((∃ e ∈ s.runs, e.2.ctx = f 0 1 ∧ e.2.second ≠ was.second) → completes (.updateTableSet m image) s (fun t =>
      replyOf t m.val 0x10A (natBytes 4 0xFFFFFFFF) ∧ t.utables = s.utables)))
  ∧ (∀ (m : Fin 11) (s : State),
    let f := bodyF s m.val
    commandDue s m.val 0x703 (up4 (0x54 + 2 * min 64 (f 0x50 2)))
      [(0, 1), (2, 2), (4, 2), (8, 4), (12, 4), (16, 64), (0x50, 2), (0x54, 2 * f 0x50 2)] → ckptBad s f = none →
    let gen := (ckptRanges s f).foldl (fun t r => t + r.2) 0
    completes (.ckptConfig m) s (fun t =>
      if Config.buddiesReserve (Config.freeNat s.free) then
        replyOf t m.val 0 (natBytes 8 gen) ∧ ∃ c, SMap.get? t.ckpts (f 0 1) = some c ∧ c.ranges = ckptRanges s f ∧ c.period = f 8 4
          ∧ rankModule s (f 0 1) (f 2 2) = some c.buddies.1 ∧ rankModule s (f 0 1) (f 4 2) = some c.buddies.2 ∧ c.resumeQ = f 12 4
          ∧ c.resume = ((mbxOf s m.val).req.drop 48).take 64 ∧ c.mark = none ∧ c.st = 0 ∧ c.dirty = [] ∧ c.gens = (CkGen.none, CkGen.none)
      else replyOf t m.val 0x108 (natBytes 4 0xFFFFFFFF) ∧ t.ckpts = s.ckpts))
  ∧ (∀ (m : Fin 11) (s : State), commandDue s m.val 0x704 12 [(0, 1), (2, 2), (4, 4), (8, 4)] →
    let f := bodyF s m.val
    f 0 1 ≤ 1 → (f 0 1 = 1 → boardPos s = 8 ∧ s.ctxs = []) → f 2 2 < 4096 → completes (.sparePolicy m) s (fun t => replyOf t m.val 0 []
      ∧ t.fw = { s.fw with spare := f 2 2, limCorrected := f 4 4, limContained := f 8 4 } ∧ t.fab.relay = decide (f 0 1 = 1)
      ∧ t.ctxs = s.ctxs ∧ t.mem = s.mem))
  ∧ (∀ (m : Fin 11) (s : State),
    let f := bodyF s m.val
    commandDue s m.val 0x601 (8 + 8 * min 504 (f 4 2)) [(0, 1), (2, 2), (4, 2), (8, 8 * f 4 2)] →
    f 0 1 ≠ 0 → f 0 1 ≤ 15 → 1 ≤ f 4 2 → f 4 2 ≤ 504 → f 2 2 + f 4 2 ≤ 4096 → (∀ i, i < f 4 2 → routeLegal (f (8 + 8 * i) 8) = true) →
    completes (.routeSet m) s (fun t => replyOf t m.val 0 []
      ∧ (∀ d i, d < 4 → (f 0 1).testBit d = true → i < f 4 2 → regGet t (regAddr .fab d (0x100000 + 8 * (f 2 2 + i))) = f (8 + 8 * i) 8)
      ∧ (∀ a, (∀ d i, d < 4 → (f 0 1).testBit d = true → i < f 4 2 → a ≠ regAddr .fab d (0x100000 + 8 * (f 2 2 + i))) →
          (∀ e ∈ s.fab.conns, ∀ u ∈ e.2.unack, u.port.isSome = true) → regGet t a = regGet s a)
      ∧ t.mem = s.mem))
  ∧ (∀ (m : Fin 11) (s : State),
    let f := bodyF s m.val
    commandDue s m.val 0x602 (up4 (8 + 2 * min 2000 (f 4 2))) [(0, 2), (2, 2), (4, 2), (8, 2 * f 4 2)] →
    f 0 2 ≠ 0 → 1 ≤ f 4 2 → f 4 2 ≤ 2000 → f 2 2 + f 4 2 ≤ 4096 → (∀ i, i < f 4 2 → f (8 + 2 * i) 2 < 4096) →
    completes (.lpmSet m) s (fun t => replyOf t m.val 0 []
      ∧ (∀ i, i < f 4 2 → SMap.get? (SMap.getD t.lpm (f 0 2) []) (f 2 2 + i) = some (f (8 + 2 * i) 2))
      ∧ (∀ r, (r < f 2 2 ∨ f 2 2 + f 4 2 ≤ r) → SMap.get? (SMap.getD t.lpm (f 0 2) []) r = SMap.get? (SMap.getD s.lpm (f 0 2) []) r)
      ∧ (∀ j, j ≠ f 0 2 → SMap.get? t.lpm j = SMap.get? s.lpm j)))
  ∧ (∀ (m : Fin 11) (s : State), commandDue s m.val 0x603 4 [(0, 2)] → field (bodyF s m.val 0 2) 12 3 = 0 →
    let v := bodyF s m.val 0 2
    let kept := setField (dptVal s 5) 0 12 0 % 2 ^ 63
    (s.ctxs = [] → v.testBit 15 = false → completes (.fabricIdSet m) s (fun t => replyOf t m.val 0 [] ∧ t.fabricId = some (BitVec.ofNat 12 v)
      ∧ (s.fabricId ≠ some (BitVec.ofNat 12 v) → t.sec = { s.sec with flashId := some (BitVec.ofNat 12 v) } ∧ dptVal t 5 = kept + v % 4096 + 2 ^ 63)))
    ∧ (s.ctxs = [] → v.testBit 15 = true → completes (.fabricIdClear m) s (fun t => replyOf t m.val 0 [] ∧ t.fabricId = none
      ∧ (s.fabricId ≠ none → t.sec = { s.sec with flashId := none } ∧ dptVal t 5 = kept)))
    ∧ (s.ctxs ≠ [] → v.testBit 15 = false → completes (.fabricIdSet m) s (fun t => replyOf t m.val 0x10A (natBytes 4 0xFFFFFFFF)
      ∧ t.fabricId = s.fabricId))
    ∧ (s.ctxs ≠ [] → v.testBit 15 = true → completes (.fabricIdClear m) s (fun t => replyOf t m.val 0x10A (natBytes 4 0xFFFFFFFF)
      ∧ t.fabricId = s.fabricId)))

/-- What the device commands answer and write (02 R22, R23; 15 R338; 16 Table 16.11; 18 R407, R416). -/
def Obligations.DeviceCommands : Prop :=
  (∀ (es : List (Nat × W64)) (s : State),
    (dptMay s = true → completes (.dptUpdate es) s (fun t => dptVal t 1 = dptVal s 1 + 2
      ∧ (∀ j, j ≠ 1 → dptDerived j = false → ((∀ e ∈ es, e.1 ≠ j) ∨ dptWritable j = false) → dptVal t j = dptVal s j)
      ∧ (∀ pre e suf, es = pre ++ e :: suf → dptWritable e.1 = true → (∀ x ∈ suf, x.1 ≠ e.1) → dptVal t e.1 = e.2.toNat)
      ∧ (∀ e ∈ derivedEntries s (es.map (fun e => (e.1, e.2.toNat))), dptVal t e.1 = e.2)
      ∧ (∀ k, k < 16 → (clusterAt t k).st = if clusterFailed s k = true ∧ (clusterAt s k).st ≠ .test then .disabled else (clusterAt s k).st)
      ∧ { t with regs := s.regs, clusters := s.clusters, pwr := s.pwr } = s))
    ∧ (dptMay s = false → exec (.dptUpdate es) s = .next s))
  ∧ (∀ (m : Fin 11) (s : State), commandDue s m.val 0x801 4 [(0, 1), (2, 2)] →
    let f := bodyF s m.val
    f 2 2 ≠ 0 → f 0 1 + f 2 2 ≤ 256 → completes (.dptRead m) s (fun t =>
      replyOf t m.val 0 ((List.range (f 2 2)).flatMap (fun i => natBytes 8 (dptVal s (f 0 1 + i)))) ∧ t.regs = s.regs))
  ∧ (∀ (m : Fin 11) (s : State), commandDue s m.val 0x802 4 [(0, 1)] →
    (bodyF s m.val 0 1 = 0 → completes (.telemetryRead m) s (fun t => replyOf t m.val 0
      (s.pwr.temps.flatMap (fun x => natBytes 2 (unsigned 16 x)) ++ natBytes 4 (s.pwr.samples.headD 0)
        ++ s.clusters.flatMap (fun (c : Cluster) => natBytes 4 c.khz))))
    ∧ (bodyF s m.val 0 1 = 1 → completes (.telemetryRead m) s (fun t => replyOf t m.val 0 ((List.range 16).flatMap (portTelemetry s))))
    ∧ (bodyF s m.val 0 1 = 2 → completes (.telemetryRead m) s (fun t => replyOf t m.val 0
        (natBytes 8 (ftmStatus s) ++ natBytes 8 (unsigned 64 s.fab.ftm.offset) ++ natBytes 8 (unsigned 64 s.fab.ftm.delay))))
    ∧ (2 < bodyF s m.val 0 1 → completes (.telemetryRead m) s (fun t => replyOf t m.val 0x107 (natBytes 4 0))))
  ∧ (∀ (m : Fin 11) (s : State), commandDue s m.val 0x803 8 [(0, 4), (4, 1), (5, 1)] →
    let f := bodyF s m.val
    let age : W32 → Nat := fun n => (s.err.next - n).toNat
    let ls := (s.err.log.filter (fun (l : LogRec) =>
      decide (age l.lsn ≤ age (BitVec.ofNat 32 (f 0 4))) && (!(f 4 1).testBit 1 || !l.read))).take (f 5 1)
    f 4 1 ≤ 3 → 1 ≤ f 5 1 → f 5 1 ≤ 126 → completes (.errlogRead m) s (fun t =>
      (∃ next : W32, ((ls = [] → next = s.err.next) ∧ ∀ pre l, ls = pre ++ [l] → next = l.lsn + 1)
        ∧ replyOf t m.val 0 (natBytes 4 next.toNat ++ natBytes 2 ls.length ++ natBytes 2 0 ++ ls.flatMap recBytes))
      ∧ ((f 4 1).testBit 0 = false → t.err = s.err)
      ∧ ((f 4 1).testBit 0 = true → let marked := s.err.log.map (fun (l : LogRec) => if ls.any (fun (x : LogRec) => x.lsn == l.lsn) then { l with read := true } else l)
          t.err = { s.err with log := marked })))
  ∧ (∀ (m : Fin 11) (s : State), commandDue s m.val 0x804 4 [(0, 4)] →
    let v := bodyF s m.val 0 4
    let want := if v = 0 then 1400000 else v
    ((v = 0 ∨ (300000 ≤ v ∧ v ≤ 1400000)) → completes (.powerLimitSet m) s (fun t => replyOf t m.val 0 (natBytes 4 (max want 480000))
      ∧ powerLimit t = max want 480000 ∧ t.pwr = { s.pwr with raised := decide (want < 480000) } ∧ field (dptVal t 0x82) 0 32 = max want 480000))
    ∧ ((v ≠ 0 ∧ (v < 300000 ∨ 1400000 < v)) → completes (.powerLimitSet m) s (fun t => replyOf t m.val 0x107 (natBytes 4 0)
      ∧ powerLimit t = powerLimit s ∧ t.pwr = s.pwr)))
  ∧ (∀ (m : Fin 11) (s : State), commandDue s m.val 0x901 4 [(0, 1), (1, 1)] →
    let f := bodyF s m.val
    f 0 1 ≤ 31 → 1 ≤ f 1 1 → f 0 1 + f 1 1 ≤ 32 → completes (.selftestReport m) s (fun t =>
      replyOf t m.val 0 ((List.range (f 1 1)).flatMap (fun i =>
        match SMap.get? s.cic.recs (f 0 1 + i) with
        | some r => cicBytes (f 0 1 + i) r
        | none => padTo 64 0 (natBytes 4 (f 0 1 + i + 256)))) ∧ t.cic = s.cic))

/-- 02 R25-R30, R453-R455: a container that fails its checks or its validation is refused by the status of the first that fails; a hit gives the context the
cached kernel; a new kernel is cached under a handle that is not 0. -/
def Obligations.KernelLoading : Prop :=
  ∀ (m : Fin 11) (image : List Byte) (s : State), commandDue s m.val 0x401 24 [(0, 1), (1, 1), (8, 8), (16, 8)] →
    let f := bodyF s m.val
    let n := f 16 8
    f 1 1 ≤ 1 → (f 1 1 = 0 → noRed s ∧ oneSpace s (f 8 8) (f 16 8) = true ∧ (spaceOf s (f 8 8) = .edram ∨ spaceOf s (f 8 8) = .ddr)) →
    let bs := if f 1 1 = 1 then padTo n 0 (image.take n) else memBytes s (f 8 8) n
    let canonical := ctxCanonical s (f 0 1)
    let bad := conCheck s bs (f 16 8) canonical
    let hit := s.kernels.find? (fun (e : Nat × Kernel) => e.2.digest == (bs.drop 0x40).take 48 && e.2.canonical == canonical
      && e.2.dptGen == dptVal s 1 && e.2.rev == dptVal s 0x92)
    let code := conCode bs
    let reach := reached code (conEntries bs)
    let v := conValid s bs code reach
    (bad ≠ 0 → completes (.kernelLoad m image) s (fun t => replyOf t m.val bad [] ∧ t.kernels = s.kernels))
    ∧ (∀ e, bad = 0 → hit = some e → completes (.kernelLoad m image) s (fun t => replyOf t m.val 0x01 (natBytes 8 e.1 ++ natBytes 4 0)
        ∧ ∃ k, SMap.get? t.kernels e.1 = some k ∧ f 0 1 ∈ k.ctxs))
    ∧ (bad = 0 → hit = none → v ≠ 0 → completes (.kernelLoad m image) s (fun t => replyOf t m.val v [] ∧ t.kernels = s.kernels))
    ∧ (bad = 0 → s.kernels = [] → v = 0 → completes (.kernelLoad m image) s (fun t =>
        if Config.microBytes ((bs.drop 0x40).take 48) canonical (dptVal s 1) (dptVal s 0x92) ≤ dptVal s 0x52 then
          ∃ (h : Nat) (w : W32), h ≠ 0 ∧ replyOf t m.val 0 (natBytes 8 h ++ natBytes 4 w.toNat)
            ∧ SMap.get? t.kernels h = some (mkKernel s bs canonical code reach (f 0 1))
        else replyOf t m.val 0x09 [] ∧ t.kernels = []))

/-! ### Security, the package and power -/

/-- 17 R383, R384, R392-R396: keys enter in MANUFACTURE only; LIFECYCLE_ADVANCE names the next state and ends every session, and the transition resets the
module and zeroises keys; a firmware image is written only when every check passes; a TRNG failure is the error state. -/
def Obligations.LifeCycleAndKeys : Prop :=
  (∀ (m : Fin 11) (s : State) (x : Session), commandDue s m.val 0x904 4 [(0, 1), (1, 1)] → authSession s m.val = some x →
    let f := bodyF s m.val
    (f 0 1 = s.sec.lcs → s.ctxs = [] →
      (f 0 1, f 1 1, x.level) ∈ [(1, 2, 3), (2, 3, 0), (2, 4, 0), (3, 4, 0), (3, 4, 2), (4, 1, 3), (4, 5, 3)] →
      (f 0 1 = 1 → ∃ e ∈ s.sec.keys, e.2.mask.testBit 0 = true) → (f 0 1 = 4 → f 1 1 = 1 → s.sec.rma < 3) →
      completes (.lifecycleAdvance m) s (fun t => replyOf t m.val 0 [BitVec.ofNat 8 (f 1 1)] ∧ t.sec = { s.sec with target := f 1 1 }
        ∧ ∀ j, (mbxOf t j).session = none))
    ∧ (f 0 1 ≠ s.sec.lcs → completes (.lifecycleAdvance m) s (fun t => replyOf t m.val 0x10B (natBytes 4 0) ∧ t.sec = s.sec))
    ∧ (f 0 1 = s.sec.lcs → (s.sec.lcs = 5 ∨ f 1 1 = s.sec.lcs) → completes (.lifecycleAdvance m) s (fun t =>
        replyOf t m.val 0x10B (natBytes 4 1) ∧ t.sec = s.sec)))
  ∧ (∀ (s : State), s.pkg.pwrgood = true → s.pkg.held = false →
    (s.sec.target ≠ 7 → completes .transitionComplete s (fun t => t.sec.lcs = s.sec.target ∧ t.sec.target = 7 ∧ t.sec.error = false
      ∧ (t.sec.scan = true ↔ s.sec.target ≤ 1 ∨ s.sec.target = 4)
      ∧ (∀ j, (mbxOf t j).session = none) ∧ t.ctxs = [] ∧ t.mem = State.reset.mem ∧ t.cores = State.reset.cores
      ∧ (s.sec.target = 5 → t.sec.keys = [])
      ∧ (s.sec.target = 4 → t.sec.keys = s.sec.keys.filter (fun (e : Nat × KeyRec) => e.2.mask.testBit 3))
      ∧ (s.sec.target ≠ 4 → s.sec.target ≠ 5 → t.sec.keys = s.sec.keys)))
    ∧ (s.sec.target = 7 → exec .transitionComplete s = .next s))
  ∧ (∀ (r : KeyLoad) (s : State),
    (∀ i, s.sec.scan = true → s.sec.lcs = 1 → s.sec.target = 7 → s.sec.error = false → s.pkg.pwrgood = true → s.pkg.held = false → r.crcOk = true → r.keyId ≠ 0 →
      (∀ e ∈ s.sec.keys, e.2.id ≠ r.keyId.toNat) → i < 32 → SMap.get? s.sec.keys i = none → (∀ j, j < i → SMap.get? s.sec.keys j ≠ none) →
      completes (.keyLoad r) s (fun t => SMap.get? t.sec.keys i = some ⟨r.keyId.toNat, r.key, r.mask.toNat⟩
        ∧ (∀ j, j ≠ i → SMap.get? t.sec.keys j = SMap.get? s.sec.keys j) ∧ { t with sec := { t.sec with keys := s.sec.keys } } = s))
    ∧ ((s.sec.scan = false ∨ s.sec.lcs ≠ 1 ∨ r.crcOk = false ∨ r.keyId = 0) → exec (.keyLoad r) s = .next s))
  ∧ (∀ (s : State), s.pkg.pwrgood = true → s.pkg.held = false → completes .trngHealthFail s (fun t =>
    t.sec = { s.sec with error := true } ∧ t.pkg.held = true ∧ t.mem = s.mem))
  ∧ (∀ (m : Fin 11) (image : List Byte) (s : State), commandDue s m.val 0x903 24 [(0, 1), (1, 1), (2, 2), (8, 8), (16, 8)] →
    let f := bodyF s m.val
    f 0 1 ≤ 1 → f 1 1 ≤ 1 → f 2 2 ≤ 1 → f 16 8 ≠ 0 → f 16 8 ≤ 0x800000 →
    (f 0 1 = 0 → noRed s ∧ oneSpace s (f 8 8) (f 16 8) = true ∧ (spaceOf s (f 8 8) = .edram ∨ spaceOf s (f 8 8) = .ddr)) →
    let bs := if f 0 1 = 1 then padTo (f 16 8) 0 (image.take (f 16 8)) else memBytes s (f 8 8) (f 16 8)
    let word : Nat → Nat → Nat := fun o n => bytesNat ((bs.drop o).take n)
    (f 1 1 = s.sec.running → completes (.fwUpdate m image) s (fun t => replyOf t m.val 0x10A (natBytes 4 1) ∧ t.sec = s.sec))
    ∧ (f 1 1 ≠ s.sec.running → completes (.fwUpdate m image) s (fun t =>
      if word 0 4 ≠ 0x314C5547 then replyOf t m.val 3 [] ∧ t.sec = s.sec
      else if Config.fwSigned (bs.take 0x48) ((bs.drop 0x48).take 96) = false then replyOf t m.val 1 [] ∧ t.sec = s.sec
      else if bs.length < 256 + word 0x14 4 ∨ sha384 ((bs.drop 256).take (word 0x14 4)) ≠ (bs.drop 0x18).take 48 then
        replyOf t m.val 3 [] ∧ t.sec = s.sec
      else if word 0x10 4 < s.sec.rollback then replyOf t m.val 2 [] ∧ t.sec = s.sec
      else replyOf t m.val 0 (natBytes 8 (word 8 8)) ∧ nth t.sec.slots (f 1 1) ⟨false, 0, 0⟩ = ⟨true, word 8 8, word 0x10 4⟩
        ∧ nth t.sec.slots (1 - f 1 1) ⟨false, 0, 0⟩ = nth s.sec.slots (1 - f 1 1) ⟨false, 0, 0⟩
        ∧ t.sec.active = (if f 2 2 = 1 then f 1 1 else s.sec.active) ∧ t.sec.keys = s.sec.keys)))

/-- 19 R422-R428, R441, 18 R398: a rail out of its window for 5 µs or an AVS fault holds the module in reset; PWRGOOD's fall resets all but PD_AON, a cold
reset that too; its rise samples the straps and boots; READY; PERST# resets the host's part; REFCLK and VDD_AON. -/
def Obligations.SuppliesAndResets : Prop :=
  (∀ (r : Rail) (s : State), s.pkg.pwrgood = true →
    (SMap.get? s.pkg.railOut (railKey r) = none → completes (.railExcursionStart r) s (fun t =>
      SMap.get? t.pkg.railOut (railKey r) = some s.now ∧ { t with pkg := { t.pkg with railOut := s.pkg.railOut } } = s))
    ∧ (∀ n, SMap.get? s.pkg.railOut (railKey r) = some n → s.now < n + 5000 → completes (.railGlitch r) s (fun t =>
        SMap.get? t.pkg.railOut (railKey r) = none ∧ t.pkg.railFault = s.pkg.railFault
        ∧ regGet t (regAddr .hst 0 0x28) = (regGet s (regAddr .hst 0 0x28) + 1) % 2 ^ 64) ∧ exec (.railFault r) s = .next s)
    ∧ (∀ n, SMap.get? s.pkg.railOut (railKey r) = some n → n + 5000 ≤ s.now → s.pkg.railFault = false → completes (.railFault r) s (fun t =>
        t.pkg.railFault = true ∧ t.pkg.held = true ∧ t.pkg.ready = false ∧ t.mem = s.mem) ∧ exec (.railGlitch r) s = .next s))
  ∧ (∀ (d : Fin 4) (s : State), s.pkg.pwrgood = true → s.pkg.railFault = false → completes (.avsStatusFault d) s (fun t =>
    t.pkg.railFault = true ∧ t.pkg.held = true ∧ t.pkg.ready = false ∧ t.mem = s.mem))
  ∧ (∀ (s : State), completes .refclkLoss s (fun t => t = { s with pwr := { s.pwr with refclk := false } })
    ∧ completes .refclkReturn s (fun t => t = { s with pwr := { s.pwr with refclk := true } })
    ∧ completes .vddAonLoss s (fun t => t = { s with pwr := { s.pwr with aonGone := true } })
    ∧ completes .perstDeassert s (fun t => t = { s with pkg := { s.pkg with perst := true } }))
  ∧ (∀ (s : State), completes .pwrgoodFall s (fun t => t.pkg.pwrgood = false ∧ t.pkg.ready = false ∧ t.mem = State.reset.mem
    ∧ t.cores = State.reset.cores ∧ t.ctxs = [] ∧ t.que = State.reset.que ∧ t.mbx = State.reset.mbx ∧ t.fab = State.reset.fab
    ∧ t.sec = { s.sec with auth := [], error := false } ∧ t.cic.recs = s.cic.recs ∧ t.cic.aonNs = s.cic.aonNs ∧ t.pwr.aonLost = s.pwr.aonLost
    ∧ (∀ a, regGet t a = if inAon a then regGet s a else 0)))
  ∧ (∀ (s : State), s.pkg.pwrgood = false → completes .coldReset s (fun t => t.regs = [] ∧ t.mem = State.reset.mem ∧ t.cores = State.reset.cores
    ∧ t.ctxs = [] ∧ t.sec = { s.sec with auth := [], error := false } ∧ t.pwr.aonLost = (s.pwr.aonGone || s.pwr.aonLost)
    ∧ t.cic.aonNs = (if s.pwr.aonGone then 0 else s.cic.aonNs)))
  ∧ (∀ (x : Straps) (s : State), s.pkg.pwrgood = false → s.pwr.aonGone = false → s.sec.target = 7 →
    (s.sec.lcs = 5 → completes (.pwrgoodRise x) s (fun t => t.pkg.pwrgood = true ∧ t.pkg.position = x.position.toNat ∧ t.pkg.stage = 2))
    ∧ (s.sec.lcs ≠ 5 → bootSlot s.sec = none → completes (.pwrgoodRise x) s (fun t => t.pkg.pwrgood = true ∧ t.pkg.noFirmware = true
        ∧ t.pkg.stage = 3))
    ∧ (∀ i, s.sec.lcs ≠ 5 → bootSlot s.sec = some i → completes (.pwrgoodRise x) s (fun t => t.pkg.pwrgood = true
        ∧ t.pkg.position = x.position.toNat ∧ t.pkg.stage = 6 ∧ t.pkg.riseAt = s.now
        ∧ t.sec = { s.sec with running := i, fallback := decide (i ≠ s.sec.active % 2) } ∧ t.fabricId = s.sec.flashId
        ∧ field (dptVal t 5) 16 4 = (if 8 < x.position.toNat then 15 else x.position.toNat)
        ∧ (t.pkg.fullTest = false ↔ ∀ d, d < 32 → skipsTest t d = true)
        ∧ (s.cic.busy = none → (t.cic.busy = none ↔ ∀ d, d < 32 → skipsTest t d = true)))))
  ∧ (∀ (s : State),
    (bootEnds s = true →
      let slot := nth s.sec.slots s.sec.running ⟨false, 0, 0⟩
      completes .bootReady s (fun t => t.pkg =
          { s.pkg with ready := true, stage := 11, readyMs := (s.now - s.pkg.riseAt) / 1000000, fullTest := false,
                       ddrInit := decide (0 < ddrPerDie s), ddrMark := [] }
        ∧ t.sec = { s.sec with rollback := max s.sec.rollback slot.rollback } ∧ dptVal t 4 = slot.version ∧ t.mem = s.mem))
    ∧ (bootEnds s = false → exec .bootReady s = .next s))
  ∧ (∀ (s : State), completes .hostReset s (fun t => t.pkg = { s.pkg with perst := false, barLog := 28 } ∧ t.que = { s.que with msix := [] }
    ∧ (∀ j, 9 ≤ j → mbxOf t j = mbxOf s j) ∧ (∀ j, j < 9 → (mbxOf t j).session = none)
    ∧ (∀ j, j < 9 → (mbxOf s j).stage = 0 → mbxOf t j = Mbx.reset)
    ∧ regGet t (regAddr .hst 0 0x08) = 0 ∧ regGetD t (regAddr .hst 0 0x10) 0xFF0000000000 = 0xFF0000000000
    ∧ t.mem = s.mem ∧ t.cores = s.cores ∧ t.ctxs = s.ctxs))

/-- 19 R437: a BAR2 access within memory that is open to the host is performed at the window's base plus its offset; any other is refused. -/
def Obligations.HostMemoryWindow : Prop :=
  ∀ (s : State), s.pkg.pwrgood = true → s.pkg.perst = true → s.pkg.held = false → s.pkg.noFirmware = false →
    let base := regGetD s (regAddr .hst 0 0x08) 0
    (∀ off n, n ≠ 0 → off + n ≤ 2 ^ s.pkg.barLog →
      (bar2Ok s (base + off) n = true → sleeps s (base + off) = false → rangeBad s (base + off) n = false → noRed s → winsIdle s →
        completes (.bar2Access (.read off n)) s (fun t => t.fw.rdHost = memNat s (base + off) n ∧ sameBytes s t))
      ∧ (bar2Ok s (base + off) n = false → completes (.bar2Access (.read off n)) s (fun t => t.fw.rdHost = 2 ^ (8 * n) - 1 ∧ t.mem = s.mem
          ∧ regGet t (regAddr .hst 0 0x20) = (regGet s (regAddr .hst 0 0x20) + 1) % 2 ^ 64)))
    ∧ (∀ off (data : List Byte), data ≠ [] → off + data.length ≤ 2 ^ s.pkg.barLog →
      (bar2Ok s (base + off) data.length = true → sleeps s (base + off) = false → calm s →
        completes (.bar2Access (.write off data)) s (fun t => memBytes t (base + off) data.length = data
          ∧ onlyBytes s t [(base + off, data.length)]))
      ∧ (bar2Ok s (base + off) data.length = false → completes (.bar2Access (.write off data)) s (fun t => t.mem = s.mem
          ∧ regGet t (regAddr .hst 0 0x20) = (regGet s (regAddr .hst 0 0x20) + 1) % 2 ^ 64)))

/-- 18 R401-R403, R406, R410: an idle cluster enters DORMANT, its waits becoming timers; a wake event cancels or ends that; state changes take their slots one
at a time; 45 µs after its wake event it issues; a write to a stopped block is held and shows in the shadow; timers wake. -/
def Obligations.ClusterSleep : Prop :=
  (∀ (k : Fin 16) (s : State), k.val < s.clusters.length → (clusterAt s k.val).st = .run →
    (∀ n, (clusterAt s k.val).idleSince = some n → dwell s ≠ 0 → n + 1000 * dwell s ≤ s.now → (clusterAt s k.val).wake = none →
      clusterIdle s k.val = true → deadlinesFit s k.val = true → completes (.dormantEntry k) s (fun t =>
        clusterAt t k.val = { clusterAt s k.val with st := .entering, since := s.now, gated := false, wake := none }
        ∧ t.pwr.stagger = s.pwr.stagger ++ [{ cluster := k.val, kind := 0, since := s.now + 5500 }]
        ∧ (∀ j, j ≠ k.val → clusterAt t j = clusterAt s j) ∧ t.cores = s.cores ∧ t.mem = s.mem))
    ∧ (clusterIdle s k.val = false → exec (.dormantEntry k) s = .next s))
  ∧ (∀ (k : Fin 16) (s : State), k.val < s.clusters.length → (clusterAt s k.val).st = .entering → (clusterAt s k.val).gated = true →
    (clusterAt s k.val).since + 8000 ≤ s.now → (clusterAt s k.val).wake = none →
    completes (.dormantEntry k) s (fun t => clusterAt t k.val = { clusterAt s k.val with st := .dormant, since := s.now, idleSince := none }
      ∧ (∀ j, j ≠ k.val → clusterAt t j = clusterAt s j) ∧ t.cores = s.cores
      ∧ regGet t (regAddr .pwr 0 0x200) = (regGet s (regAddr .pwr 0 0x200) + 1) % 2 ^ 64))
  ∧ (∀ (k : Fin 16) (why : WakeCause) (s : State), k.val < s.clusters.length → s.pkg.held = false →
    ((clusterAt s k.val).st = .dormant → completes (.dormantWake k why) s (fun t =>
      clusterAt t k.val = { clusterAt s k.val with st := .waking, wake := some s.now, since := s.now }
      ∧ t.pwr.stagger = s.pwr.stagger ++ [{ cluster := k.val, kind := 1, since := s.now }]
      ∧ (∀ x ∈ t.pwr.polled, x.cluster = k.val → x.who = .firmware)))
    ∧ ((clusterAt s k.val).st = .entering → (clusterAt s k.val).gated = false → completes (.dormantWake k why) s (fun t =>
        clusterAt t k.val = { clusterAt s k.val with st := .run, wake := some s.now, idleSince := none, since := s.now }
        ∧ t.pwr.stagger = s.pwr.stagger.filter (fun (g : Stagger) => g.cluster != k.val)))
    ∧ ((clusterAt s k.val).st = .run → exec (.dormantWake k why) s = .next s))
  ∧ (∀ (k : Fin 16) (s : State) (g : Stagger), k.val < s.clusters.length →
    s.pwr.stagger.find? (fun (g : Stagger) => g.cluster == k.val && decide (g.since ≤ s.now)) = some g →
    (s.pwr.staggerEnd ≤ s.now → staggerFirst s g = true → g.kind ≤ 2 → completes (.staggerSlot k) s (fun t =>
      t.pwr.stagger = s.pwr.stagger.erase g ∧ t.pwr.staggerEnd = s.now + 2500
      ∧ (g.kind = 0 → clusterAt t k.val = { clusterAt s k.val with gated := true, since := s.now - 5500 })
      ∧ (g.kind = 1 → clusterAt t k.val = { clusterAt s k.val with gated := false })
      ∧ (g.kind = 2 → clusterAt t k.val = { clusterAt s k.val with st := .test, since := s.now })))
    ∧ ((s.now < s.pwr.staggerEnd ∨ staggerFirst s g = false) → exec (.staggerSlot k) s = .next s))
  ∧ (∀ (k : Fin 16) (s : State) (n : Nat), k.val < s.clusters.length → (clusterAt s k.val).wake = some n →
    (n + 45000 ≤ s.now → (clusterAt s k.val).st = .waking → (∀ g ∈ s.pwr.stagger, g.cluster ≠ k.val) → SMap.get? s.pwr.heldW k.val = none →
      completes (.wakeFirstIssue k) s (fun t =>
        let c := clusterAt s k.val
        clusterAt t k.val = { c with st := .run, wake := none, since := s.now, gated := false, idleSince := none, khz := (othersKhz s k.val).getD c.khz }
        ∧ t.cores = s.cores))
    ∧ (s.now < n + 45000 → exec (.wakeFirstIssue k) s = .next s))
  ∧ (∀ (n : Fin 48) (v : W64) (s : State), s.pkg.held = false → blkStopped s .mat n.val = true →
    let w := fwWr .mat n.val 0 v
    let a := regAddr .mat n.val 0
    ((SMap.getD s.pwr.heldW (clusterOf n.val) []).length < 64 → completes (.heldWrite w) s (fun t =>
      (∃ h : RegWr, SMap.get? t.pwr.heldW (clusterOf n.val) = some (SMap.getD s.pwr.heldW (clusterOf n.val) [] ++ [h])
        ∧ h.src = .firmware ∧ h.addr = a ∧ h.bytes = 4 ∧ h.value = (v.setWidth 32).setWidth 64)
      ∧ SMap.get? t.pwr.shadow a = some (v.toNat % 2 ^ 32 &&& 0x103) ∧ regGet t a = regGet s a))
    ∧ (64 ≤ (SMap.getD s.pwr.heldW (clusterOf n.val) []).length → (clusterAt s (clusterOf n.val)).st = .waking →
        exec (.heldWrite w) s = .next s))
  ∧ (∀ (i : Fin 16) (s : State) (x : Timer), nth s.pwr.slots i.val none = some x →
    (x.due ≤ s.ftime → s.pwr.polled = [] → (clusterAt s x.cluster).st = .run → completes (.timerSlotCompare i) s (fun t =>
      nth t.pwr.slots i.val none = none ∧ ∀ j, j ≠ i.val → nth t.pwr.slots j none = nth s.pwr.slots j none))
    ∧ (s.ftime < x.due → exec (.timerSlotCompare i) s = .next s))
  ∧ (∀ (s : State), (∀ x ∈ s.pwr.polled, (clusterAt s x.cluster).st = .run) → completes .pollTick s (fun t =>
    t.pwr = { s.pwr with polled := s.pwr.polled.filter (fun (x : Timer) => decide (s.ftime < x.due)) } ∧ t.clusters = s.clusters))
  ∧ (∀ (ch : Fin 64) (s : State), (clusterAt s (ch.val / 4)).st = .dormant → dwell s ≠ 0 → s.mem.selfRefresh.contains ch.val = false →
    (SMap.getD s.mem.chanLast ch.val 0 + 1000 * dwell s ≤ s.now → completes (.selfRefreshEntry ch) s (fun t =>
      t.mem.selfRefresh.contains ch.val = true ∧ { t with mem := { t.mem with selfRefresh := s.mem.selfRefresh } } = s))
    ∧ (s.now < SMap.getD s.mem.chanLast ch.val 0 + 1000 * dwell s → exec (.selfRefreshEntry ch) s = .next s))

/-- 18 R399, R407, R408: a sample joins the 1 ms window, and THROTTLE follows its average and a sample above 1.10 times the limit; clocks step by 25 MHz within
0.40 to 1.10 GHz; a die is hot above 100 °C until it is below 97 °C, and trips above 115 °C or 105 °C. -/
def Obligations.PowerAndThermalLimits : Prop :=
  (∀ (mW : Nat) (s : State), completes (.powerSample mW) s (fun t => t.pwr.samples = (mW :: s.pwr.samples).take 100
    ∧ (mW * 10 ≤ powerLimit s * 11 → t.pwr.fast = s.pwr.fast) ∧ (powerLimit s * 11 < mW * 10 → 4 * awake s ≤ t.pwr.fast)
    ∧ t.pwr.throttle = (decide (powerLimit s < (t.pwr.samples.sum / 100)) || decide (t.pwr.fast ≠ 0))
    ∧ { t with pwr := s.pwr } = s))
  ∧ (∀ (k : Fin 16) (s : State), k.val < s.clusters.length → ((clusterAt s k.val).st = .run ∨ (clusterAt s k.val).st = .entering) →
    let c := clusterAt s k.val
    let hot := nth s.pwr.thermal (k.val / 4) false
    (c.stepAt + 100000 ≤ s.now → s.pwr.throttle = false → hot = false → drawAvg s * 100 < powerLimit s * 97 → c.khz < 1100000 →
      completes (.cclkStep k true) s (fun t => clusterAt t k.val = { c with khz := c.khz + 25000, stepAt := s.now }
        ∧ (∀ j, j ≠ k.val → clusterAt t j = clusterAt s j) ∧ { t with clusters := s.clusters } = s))
    ∧ ((s.pwr.throttle = true ∨ hot = true ∨ powerLimit s * 97 ≤ drawAvg s * 100 ∨ 1100000 ≤ c.khz) → exec (.cclkStep k true) s = .next s)
    ∧ (c.stepAt + 100000 ≤ s.now → 400000 < c.khz → completes (.cclkStep k false) s (fun t =>
        clusterAt t k.val = { c with khz := c.khz - 25000, stepAt := s.now } ∧ (∀ j, j ≠ k.val → clusterAt t j = clusterAt s j)
        ∧ t.pwr.fast = s.pwr.fast - 1))
    ∧ (c.khz ≤ 400000 → exec (.cclkStep k false) s = .next s) ∧ (s.now < c.stepAt + 1000 → ∀ up, exec (.cclkStep k up) s = .next s))
  ∧ (∀ (d : Fin 4) (x y : Int) (s : State), s.pkg.pwrgood = true →
    (x ≤ 1840 → y ≤ 1680 → completes (.thermalCheck d x y) s (fun t =>
      nth t.pwr.temps d.val 0 = x ∧ nth t.pwr.temps (4 + d.val) 0 = y ∧ t.pkg = s.pkg ∧ t.mem = s.mem
      ∧ nth t.pwr.thermal d.val false = (decide (1600 < x) || (nth s.pwr.thermal d.val false && decide (1552 ≤ x)))
      ∧ (∀ e, e ≠ d.val → nth t.pwr.thermal e false = nth s.pwr.thermal e false)))
    ∧ ((1840 < x ∨ 1680 < y) → s.pkg.thermtrip = false → completes (.thermalCheck d x y) s (fun t =>
        t.pkg.thermtrip = true ∧ t.pkg.held = true ∧ t.mem = s.mem)))

/-- 18 R413-R417: SELFTEST_RUN tests the domains it names and answers when all are done; a result is recorded; a failed cluster is disabled, and any other
failure is fatal; an eDRAM segment's test leaves its contents. -/
def Obligations.SelfTests : Prop :=
  (∀ (m : Fin 11) (s : State), commandDue s m.val 0x902 4 [(0, 4)] → s.cic.mailbox = none →
    let f := bodyF s m.val 0 4
    (f % 4096 ≠ 0 → s.ctxs ≠ [] → completes (.selftestRun m) s (fun t => replyOf t m.val 0x10A (natBytes 4 0) ∧ t.cic = s.cic))
    ∧ (f = 0 → completes (.selftestRun m) s (fun t => replyOf t m.val 0 (natBytes 4 0 ++ natBytes 4 0) ∧ t.cic = s.cic))
    ∧ (f ≠ 0 → (f % 4096 ≠ 0 → s.ctxs = []) → (∀ k, k < 16 → f.testBit (16 + k) = true → clusterHolds s k = false) → s.cic.busy = none →
      completes (.selftestRun m) s (fun t => (mbxOf t m.val).st = 1 ∧ t.cic.mailbox = some m.val ∧ t.cic.trigger = 2
        ∧ (∃ d, t.cic.busy = some (d, s.now) ∧ f.testBit d = true ∧ (∀ e, e < d → f.testBit e = false)
            ∧ t.cic.todo = (List.range 32).filter (fun e => f.testBit e && decide (d < e))))))
  ∧ (∀ (m : Fin 11) (s : State), s.pkg.ready = true → s.sec.target = 7 → (mbxOf s m.val).st = 1 → (mbxOf s m.val).stage = 1 →
    reqOp s m.val = 0x902 → takesOp s m.val 0x902 = true → s.cic.mailbox = some m.val → s.cic.todo = [] → s.cic.busy = none →
    completes (.selftestRun m) s (fun t => replyOf t m.val 0 (natBytes 4 s.cic.passed ++ natBytes 4 s.cic.failed)
      ∧ t.cic = { s.cic with mailbox := none }))
  ∧ (∀ (d : Fin 32) (s : State) (n : Nat), s.cic.busy = some (d.val, n) → s.cic.todo = [] →
    (16 ≤ d.val → d.val - 16 < s.clusters.length ∧ (clusterAt s (d.val - 16)).st = .test) →
    (12 ≤ d.val → d.val < 16 → SMap.get? s.cic.seg (d.val - 12) = none) →
    completes (.cicadaTestDone d .pass) s (fun t => (∃ r, SMap.get? t.cic.recs d.val = some r ∧ r.pass = true ∧ r.fail = false
        ∧ r.duration = (s.now - n) / 1000 ∧ r.secs = s.cic.aonNs / 1000000000 ∧ r.trigger = s.cic.trigger ∧ r.version = runningVersion s
        ∧ r.fails = 0 ∧ r.loc = 0)
      ∧ t.cic.busy = none ∧ (t.cic.passed.testBit d.val = true) ∧ t.cic.failed = s.cic.failed ∧ t.mem = s.mem
      ∧ (16 ≤ d.val → t.pwr.stagger = s.pwr.stagger ++ [{ cluster := d.val - 16, kind := 3, since := s.now }]))
    ∧ (∀ loc, completes (.cicadaTestDone d (.fail loc)) s (fun t => (∃ r, SMap.get? t.cic.recs d.val = some r ∧ r.pass = false ∧ r.fail = true
        ∧ r.loc = loc % 2 ^ 64)
      ∧ t.cic.failed.testBit d.val = true ∧ t.mem = s.mem
      ∧ (d.val < 16 → t.pkg.held = true)
      ∧ (16 ≤ d.val → t.pkg.held = s.pkg.held ∧ (dptMay s = true → ∀ i, i < 3 → (dptVal t 0x13).testBit (3 * (d.val - 16) + i) = false)))))
  ∧ (∀ (d : Fin 4) (g : Nat) (s : State) (n : Nat), s.cic.busy = some (12 + d.val, n) →
    (SMap.get? s.cic.seg d.val = none → g < 1024 → s.ctxs ≠ [] → Memory.wf s.mem.cells = true → (∀ c ∈ s.mem.badCw, inSegment d.val g (c / 4) = false) →
      completes (.cicadaSegmentTest d g .save) s (fun t => SMap.get? t.cic.seg d.val = some (g, 0)
        ∧ ∀ a, (a < (d.val + 1) * 0x40000000 - 0x100000 ∨ (d.val + 1) * 0x40000000 ≤ a) → memByte t a = memByte s a))
    ∧ (∀ ok, SMap.get? s.cic.seg d.val = some (g, 0) → completes (.cicadaSegmentTest d g (.test ok)) s (fun t =>
        SMap.get? t.cic.seg d.val = some (g, 1) ∧ t.mem = s.mem))
    ∧ (SMap.get? s.cic.seg d.val = some (g, 1) → completes (.cicadaSegmentTest d g .restore) s (fun t =>
        SMap.get? t.cic.seg d.val = none ∧ t.mem = s.mem)))

/-! ### Registers -/

/-- 00 R5-R7, 18 R409, 20 R444: what a write and a read of a register do, at its own width and at another, at an assigned offset and elsewhere, of a block
that runs and of one that does not, by one who may and by one who may not; what the registers read after reset. -/
def Obligations.RegisterAccess : Prop :=
  (∀ (b : RBlk) (u off : Nat) (p : Plain) (v : W64) (s : State), regSplit (regAddr b u off) = some (b, u, off) → plainReg b u off = some p →
    ownWrite b off = false → (regWidth b off).isSome = true → regAddr b u off % (regWidth b off).getD 8 = 0 → ¬(b = .hst ∧ off = 8) →
    ¬(b = .lnk ∧ off = 0) → fwStore .registerWrite b u off v s (fun t =>
      let a := regAddr b u off
      regGetD t a p.reset = p.write (regGetD s a p.reset) (v.toNat % 2 ^ (8 * (regWidth b off).getD 8))
      ∧ (∀ x, x ≠ a → regGet t x = regGet s x) ∧ { t with regs := s.regs } = s))
  ∧ (∀ (p : Plain) (old v : Nat), (p.legal v = false → p.write old v = old)
    ∧ (p.legal v = true → ∀ i, (p.write old v).testBit i = ((p.rw.testBit i && v.testBit i) || (p.w1c.testBit i && old.testBit i && !v.testBit i))))
  ∧ (∀ (b : RBlk) (u off n : Nat) (s : State), regSplit (regAddr b u off) = some (b, u, off) → regAddr b u off < bar0Base → s.pkg.held = false →
    let a := regAddr b u off
    (regWidth b off = some n → a % n = 0 → blkStopped s b u = false → blkOff s b u = false →
      completes (.registerRead .firmware a n) s (fun t => t.fw.rdFw = (readReg s b u off).1 % 2 ^ (8 * n) ∧ t.mem = s.mem ∧ t.cores = s.cores))
    ∧ (regWidth b off = some n → a % n = 0 → blkStopped s b u = true → blkOff s b u = false →
        completes (.registerRead .firmware a n) s (fun t => t.fw.rdFw = SMap.getD s.pwr.shadow a (readReg s b u off).1 % 2 ^ (8 * n)
          ∧ t.pwr.rdstat = setField s.pwr.rdstat 48 1 1 ∧ t.mem = s.mem ∧ t.cores = s.cores))
    ∧ (regWidth b off = some n → a % n = 0 → blkOff s b u = true →
        completes (.registerRead .firmware a n) s (fun t => t.fw.rdFw = 0 ∧ t.pwr.rdstat = setField s.pwr.rdstat 48 1 1))
    ∧ (n ≠ 0 → touchesReg b off n = true → (regWidth b off ≠ some n ∨ a % n ≠ 0) →
        completes (.registerRead .firmware a n) s (fun t => t.fw.rdFw = 2 ^ (8 * n) - 1 ∧ t.mem = s.mem ∧ t.regs = s.regs)))
  ∧ (∀ (a n : Nat) (v : W64) (s : State), s.pkg.held = false → regSplit a = none → a < bar0Base → ¬(0xFE0000000000 ≤ a ∧ a < 0xFE0000800000) →
    completes (.registerRead .firmware a n) s (fun t => t = { s with fw := { s.fw with rdFw := 0 } })
    ∧ exec (.registerWrite { src := .firmware, addr := a, bytes := n, value := v }) s = .next s)
  ∧ (∀ (n : Fin 48) (id : Nat) (a : Access) (l : Lane) (b : RBlk) (u off : Nat) (bytes : Nat) (sgn : Bool) (s : State), s.pkg.held = false →
    dueAccess s n.val id false = some (a, l) → a.op = .ld bytes sgn → a.ctx < 255 → regSplit l.addr = some (b, u, off) → l.addr < bar0Base →
    regWidth b off = some a.op.size → l.addr % a.op.size = 0 → ctxReads s a.ctx b u off = false →
    let log := regGet s (regAddr .ctxlog a.ctx 0)
    completes (.registerRead (.access n id) l.addr a.op.size) s (fun t =>
      regGet t (regAddr .ctxlog a.ctx 0) = log / 2 ^ 32 * 2 ^ 32 + min (log % 2 ^ 32 + 1) 0xFFFFFFFF ∧ t.mem = s.mem
      ∧ (a.todo = [l.tid] →
          ∃ a', SMap.get? (coreOf t n.val).accs id = some a' ∧ a'.st = .done ∧ ∀ x ∈ a'.lanes, x.tid = l.tid → x.old = 0)))
  ∧ (∀ (b : RBlk) (u off v : Nat),
    (b, u, off, v) ∈ [(RBlk.pwr, 0, 0x000, 0xC8), (.pwr, 0, 0x018, 1400000), (.rdx, 0, 0x008, 0x100), (.upd, 0, 0x008, 4), (.fab, 0, 0x000, 0x800805),
      (.lnk, 0, 0x000, 0x4001101), (.slc, 0, 0x000, 0xF), (.mat, 0, 0x000, 3), (.thr, 0, 0x000, 0x110), (.vec, 0, 0x010, 0)] →
    completes (.registerRead .firmware (regAddr b u off) ((regWidth b off).getD 8)) State.reset (fun t => t.fw.rdFw = v))

/-- 03 R57, R58, 08 R180, R200, 19 R439, 20 R445, R448: TRK_CTRL advances and clears a tracker for its owner and firmware; SLC_CTRL begins the eviction of RED lines
and empties the Weevil filter; the performance counters' snapshots and selections; the background initialisation of DDR5. -/
def Obligations.ControlRegisters : Prop :=
  (∀ (d i : Nat) (s : State) (k : Tracker), d < 4 → i < 1024 → SMap.get? s.trackers (1024 * d + i) = some k → k.enabled = true →
    let hist := (if k.obsValid then k.obs else 0) :: k.hist.take 15
    let count := min (k.count + 1) 16
    let next : Tracker :=
      { k with hist := hist, count := count, e := min ((hist.take count).foldl max 0 + k.headroom) 254, obsValid := false, obs := 0 }
    let clear : Tracker := { k with hist := List.replicate 16 0, count := 0, e := k.initE }
    let gives : Tracker → State → Prop := fun x t => SMap.get? t.trackers (1024 * d + i) = some x
      ∧ (∀ j, j ≠ 1024 * d + i → SMap.get? t.trackers j = SMap.get? s.trackers j) ∧ t.mem = s.mem ∧ t.regs = s.regs
    fwStore .trkAdvance .trk d (32 * i + 0x18) 1 s (gives next) ∧ fwStore .trkClearHist .trk d (32 * i + 0x18) 2 s (gives clear)
    ∧ threadStore .trkAdvance .trk d (32 * i + 0x18) k.owner 1 s (fun t => SMap.get? t.trackers (1024 * d + i) = some next)
    ∧ (∀ ctx, ctx ≠ k.owner → threadStore .trkAdvance .trk d (32 * i + 0x18) ctx 1 s (fun t => t.trackers = s.trackers)))
  ∧ (∀ (h : Nat) (s : State), h < 64 →
    fwStore .slcFlushRed .slc h 0x018 2 s (fun t => (∀ y ∈ sliceAt t h, y.kind = .red → y.evicting = true)
      ∧ (∀ g, g ≠ h → sliceAt t g = sliceAt s g) ∧ sameBytes s t)
    ∧ fwStore .slcClrWeevil .slc h 0x018 4 s (fun t => weevilOf t h = [] ∧ (∀ g, g ≠ h → weevilOf t g = weevilOf s g)
      ∧ { t with mem := { t.mem with weevil := s.mem.weevil } } = s))
  ∧ (∀ (d : Nat) (v : W64) (s : State), d < 4 →
    fwStore .pmcSnapNow .pmc d 0x008 2 s (fun t => snapTaken s t d)
    ∧ (let x := v.toNat / 4 * 4
       (x ≠ 0 → x ≤ s.ftime → fwStore .pmcSnapTimeWrite .pmc d 0x010 v s (fun t => snapTaken s t d))
       ∧ (s.ftime < x → fwStore .pmcSnapTimeWrite .pmc d 0x010 v s (fun t => regGet t (regAddr .pmc d 0x010) = x
          ∧ (∀ a, a ≠ regAddr .pmc d 0x010 → regGet t a = regGet s a) ∧ { t with regs := s.regs } = s)))
    ∧ (∀ n, n < 16 →
      (pmcListed (v.toNat % 4096) = true → pmcInstOk (v.toNat % 4096) (field v.toNat 32 8) = true → fwStore .pmcSelWrite .pmc d (0x100 + 8 * n) v s (fun t =>
        regGet t (regAddr .pmc d (0x100 + 8 * n)) = (v.toNat &&& 0xC0FF00FF00000FFF)
        ∧ (∀ a, a ≠ regAddr .pmc d (0x100 + 8 * n) → regGet t a = regGet s a) ∧ { t with regs := s.regs } = s))
      ∧ ((pmcListed (v.toNat % 4096) && pmcInstOk (v.toNat % 4096) (field v.toNat 32 8)) = false → fwStore .pmcSelWrite .pmc d (0x100 + 8 * n) v s (fun t => t = s))))
  ∧ (∀ (d : Fin 4) (s : State),
    let x := regGet s (regAddr .pmc d.val 0x010)
    (x ≠ 0 → x ≤ s.ftime → completes (.pmcSnapshot d) s (fun t => snapTaken s t d.val))
    ∧ ((x = 0 ∨ s.ftime < x) → exec (.pmcSnapshot d) s = .next s))
  ∧ (∀ (ch : Fin 8) (s : State),
    let m := SMap.getD s.pkg.ddrMark ch.val 0
    (s.pkg.ddrInit = true → m < ddrPerDie s / 256 → completes (.ddrInitLine ch) s (fun t => SMap.getD t.pkg.ddrMark ch.val 0 = m + 1
      ∧ (∀ c, c ≠ ch.val → SMap.getD t.pkg.ddrMark c 0 = SMap.getD s.pkg.ddrMark c 0)
      ∧ (t.pkg.ddrInit = false ↔ ∀ c, c < 8 → ddrPerDie s / 256 ≤ SMap.getD t.pkg.ddrMark c 0)
      ∧ { t with pkg := s.pkg } = s))
    ∧ (s.pkg.ddrInit = false → exec (.ddrInitLine ch) s = .next s))

/-! ### The whole machine -/

/-- 02 R26, R28, Tables 2.3, 2.4: an instruction word holds its opcode and every field: reading back what an instruction's fields spell gives the opcode and
the fields, and a word that the opcode table names is spelled by its own opcode and fields. -/
def Obligations.LpkWordsRoundTrip : Prop :=
  (∀ (o : LOp) (w : Lpk), wordOp (lpkWord o w) = some o ∧ wordFields (lpkWord o w) w.ext = w ∧ lpkWord o w < 2 ^ 64)
  ∧ (∀ (v : Nat) (o : LOp) (x : W64), v < 2 ^ 64 → wordOp v = some o → lpkWord o (wordFields v x) = v)

/-- Log entry 1 (the model's choice): with no command waiting a step is one UCLK cycle: time goes on; where no engine has a job, no byte of memory, no register of a thread, no access, no record of a group, no context and no key changes. -/
def Obligations.IdleStep : Prop :=
  ∀ (s : State), s.pending = [] → ∃ t, step s = .next t ∧ t.now = s.now + 1 ∧ t.pending = []
    ∧ (s.jobs = [] →
        t.mem = s.mem ∧ (∀ n i, groupOf t n i = groupOf s n i) ∧ (∀ n, (coreOf t n).accs = (coreOf s n).accs ∧ (coreOf t n).recs = (coreOf s n).recs)
        ∧ t.ctxs = s.ctxs ∧ t.sec = s.sec ∧ t.cic.aonNs = (if s.pwr.aonGone then s.cic.aonNs else s.cic.aonNs + 1))

/-- 17 R394: from a life-cycle state that the fuses can hold every step leads to one, from every state. -/
def Obligations.LifeCycleInvariant : Prop :=
  ∀ (s t : State), lifeOk s.sec → step s = .next t → lifeOk t.sec

/-- After reset the life-cycle state is one that the fuses can hold (which one is log entry 5), every mailbox is IDLE, and nothing runs. -/
def Obligations.StateAfterReset : Prop :=
  lifeOk State.reset.sec ∧ (∀ j, (mbxOf State.reset j).st = 0) ∧ State.reset.pending = [] ∧ State.reset.ctxs = [] ∧ State.reset.pkg.ready = false
  ∧ (∀ n i, groupOf State.reset n i = none) ∧ (∀ a, memByte State.reset a = 0) ∧ (∀ k, k < 16 → (clusterAt State.reset k).khz = 1000000)

/-- 17 R383, R394: no command but LIFECYCLE_ADVANCE, TRANSITION_COMPLETE, PWRGOOD_RISE and KEY_LOAD changes the key store, the life-cycle state or the count of
passes through RMA. -/
def Obligations.KeysAndLifeCycleKept : Prop :=
  ∀ (c : Instr) (s t : State), exec c s = .next t →
    (∀ m, c ≠ .lifecycleAdvance m) → c ≠ .transitionComplete → (∀ x, c ≠ .pwrgoodRise x) → (∀ r, c ≠ .keyLoad r) →
    t.sec.keys = s.sec.keys ∧ t.sec.lcs = s.sec.lcs ∧ t.sec.target = s.sec.target ∧ t.sec.rma = s.sec.rma
end

