-- ==== Sys2Proof/Laws/Crypto.lean ====
section
/-! SUPPORT. Lengths of digests and of message authentication codes; what an authenticated request's check says. -/

namespace Sys2Proof.Machine

theorem shaRound_length (h : List Nat) (kw : Nat × Nat) : (shaRound h kw).length = h.length := by
  unfold shaRound
  split <;> simp

theorem shaRounds_length (l : List (Nat × Nat)) (h : List Nat) : (l.foldl shaRound h).length = h.length := by
  induction l generalizing h with
  | nil => rfl
  | cons x xs ih => simp [ih, shaRound_length]

theorem shaBlock_length (h : List Nat) (bs : List Byte) : (shaBlock h bs).length = h.length := by
  simp [shaBlock, shaRounds_length]

theorem shaBlocks_length (f : Nat → List Byte) (l : List Nat) (h : List Nat) : (l.foldl (fun h i => shaBlock h (f i)) h).length = h.length := by
  induction l generalizing h with
  | nil => rfl
  | cons x xs ih => simp [ih, shaBlock_length]

theorem flatMap_length {α β : Type} (k : Nat) (f : α → List β) (l : List α) (h : ∀ x, (f x).length = k) : (l.flatMap f).length = k * l.length := by
  induction l with
  | nil => rfl
  | cons x xs ih => simp [List.flatMap_cons, ih, h, Nat.mul_succ, Nat.add_comm]

theorem bigBytes_length (n x : Nat) : (bigBytes n x).length = n := by simp [bigBytes, natBytes_length]

theorem sha384_length (m : List Byte) : (sha384 m).length = 48 := by
  rw [sha384, flatMap_length 8 _ _ (bigBytes_length 8), List.length_take,
    shaBlocks_length (fun i => ((shaPad m).drop (128 * i)).take 128)]
  rfl

theorem hmac384_length (key m : List Byte) : (hmac384 key m).length = 48 := sha384_length _

theorem macOf_length (key msg : List Byte) : (macOf key msg).length = 16 := by simp [macOf, hmac384_length]

/-- A message whose MAC is that of its header and body passes the check of its own MAC (16 R362). -/
theorem macOf_checks (key h body : List Byte) (hh : h.length = 16) :
    macOf key (h ++ macOf key (h ++ List.replicate 16 0 ++ body) ++ body) = macOf key (h ++ List.replicate 16 0 ++ body) := by
  simp [macOf, hh, hmac384_length, List.drop_append]

end Sys2Proof.Machine
end

