-- ==== Sys2Proof/Laws/Map.lean ====
section
/-! SUPPORT. Sparse maps and lists: a read after a write gives the value written, a write leaves every other place alone, and
writes keep the canonical form. -/

namespace Sys2Proof.Machine

/-! ### Sparse maps -/

theorem SMap.get?_put_same {α : Type} (m : SMap α) (i : Nat) (x : α) : SMap.get? (SMap.put m i x) i = some x := by
  induction m with
  | nil => simp [SMap.put, SMap.get?]
  | cons p m ih =>
    obtain ⟨k, v⟩ := p
    simp only [SMap.put]
    split
    · simp [SMap.get?]
    · split
      · simp [SMap.get?]
      · rename_i h1 h2
        have h3 : k ≠ i := fun h => h2 h.symm
        simp [SMap.get?, ih, h3]

theorem SMap.get?_put_other {α : Type} (m : SMap α) (i j : Nat) (x : α) (h : j ≠ i) :
    SMap.get? (SMap.put m i x) j = SMap.get? m j := by
  induction m with
  | nil => simp [SMap.put, SMap.get?, h.symm]
  | cons p m ih =>
    obtain ⟨k, v⟩ := p
    simp only [SMap.put]
    split
    · simp [SMap.get?, h.symm]
    · split
      · rename_i h1 h2
        subst h2
        simp [SMap.get?, h.symm]
      · simp [SMap.get?, ih]

theorem SMap.get?_put {α : Type} (m : SMap α) (i j : Nat) (x : α) :
    SMap.get? (SMap.put m i x) j = if j = i then some x else SMap.get? m j := by
  split
  · rename_i h; subst h; exact SMap.get?_put_same m j x
  · rename_i h; exact SMap.get?_put_other m i j x h

theorem SMap.get?_del {α : Type} (m : SMap α) (i j : Nat) :
    SMap.get? (SMap.del m i) j = if j = i then none else SMap.get? m j := by
  induction m with
  | nil => simp [SMap.del, SMap.get?]
  | cons p m ih =>
    obtain ⟨k, v⟩ := p
    simp only [SMap.del]
    split
    · rename_i h
      subst h
      rw [ih]
      split
      · rfl
      · rename_i h
        have h' : k ≠ j := fun e => h e.symm
        simp [SMap.get?, h']
    · rename_i h
      simp only [SMap.get?, ih]
      split
      · rename_i e; subst e; simp [h]
      · rfl

theorem SMap.getD_setD {α : Type} [DecidableEq α] (m : SMap α) (i j : Nat) (d x : α) :
    SMap.getD (SMap.setD m i d x) j d = if j = i then x else SMap.getD m j d := by
  unfold SMap.getD SMap.setD
  split
  · rename_i h
    subst h
    rw [SMap.get?_del]
    split <;> rfl
  · rw [SMap.get?_put]
    split <;> rfl

theorem SMap.above_mono {α : Type} {lo hi : Nat} (h : lo ≤ hi) {m : SMap α} (hm : SMap.above hi m = true) :
    SMap.above lo m = true := by
  cases m with
  | nil => rfl
  | cons p m =>
    simp only [SMap.above, Bool.and_eq_true, decide_eq_true_eq] at *
    exact ⟨by omega, hm.2⟩

theorem SMap.above_put {α : Type} (m : SMap α) (lo i : Nat) (x : α) (hm : SMap.above lo m = true) (hi : lo < i) :
    SMap.above lo (SMap.put m i x) = true := by
  induction m generalizing lo with
  | nil => simp [SMap.put, SMap.above, hi]
  | cons p m ih =>
    obtain ⟨k, v⟩ := p
    simp only [SMap.above, Bool.and_eq_true, decide_eq_true_eq] at hm
    simp only [SMap.put]
    split
    · rename_i h
      simp [SMap.above, hi, h, hm.2]
    · split
      · rename_i h
        subst h
        simp [SMap.above, hi, hm.2]
      · simp only [SMap.above, Bool.and_eq_true, decide_eq_true_eq]
        exact ⟨hm.1, ih k hm.2 (by omega)⟩

theorem SMap.above_del {α : Type} (m : SMap α) (lo i : Nat) (hm : SMap.above lo m = true) :
    SMap.above lo (SMap.del m i) = true := by
  induction m generalizing lo with
  | nil => rfl
  | cons p m ih =>
    obtain ⟨k, v⟩ := p
    simp only [SMap.above, Bool.and_eq_true, decide_eq_true_eq] at hm
    simp only [SMap.del]
    split
    · exact ih lo (SMap.above_mono (by omega) hm.2)
    · simp only [SMap.above, Bool.and_eq_true, decide_eq_true_eq]
      exact ⟨hm.1, ih k hm.2⟩

theorem SMap.sorted_put {α : Type} (m : SMap α) (i : Nat) (x : α) (hm : SMap.sorted m = true) :
    SMap.sorted (SMap.put m i x) = true := by
  cases m with
  | nil => rfl
  | cons p m =>
    obtain ⟨k, v⟩ := p
    simp only [SMap.sorted] at hm
    simp only [SMap.put]
    split
    · rename_i h; simp [SMap.sorted, SMap.above, h, hm]
    · split
      · rename_i h; subst h; simp [SMap.sorted, hm]
      · simp only [SMap.sorted]
        exact SMap.above_put m k i x hm (by omega)

theorem SMap.sorted_of_above {α : Type} {lo : Nat} {m : SMap α} (h : SMap.above lo m = true) : SMap.sorted m = true := by
  cases m with
  | nil => rfl
  | cons p m =>
    simp only [SMap.above, Bool.and_eq_true] at h
    exact h.2

theorem SMap.sorted_del {α : Type} (m : SMap α) (i : Nat) (hm : SMap.sorted m = true) :
    SMap.sorted (SMap.del m i) = true := by
  induction m with
  | nil => rfl
  | cons p m ih =>
    obtain ⟨k, v⟩ := p
    simp only [SMap.sorted] at hm
    simp only [SMap.del]
    split
    · exact ih (SMap.sorted_of_above hm)
    · simp only [SMap.sorted]
      exact SMap.above_del m k i hm

/-! ### Lists -/

@[simp] theorem modAt_length {α : Type} (l : List α) (i : Nat) (f : α → α) : (modAt l i f).length = l.length := by
  induction l generalizing i with
  | nil => rfl
  | cons a l ih => cases i <;> simp [modAt, ih]

theorem nth_modAt {α : Type} (l : List α) (i j : Nat) (f : α → α) (d : α) :
    nth (modAt l i f) j d = if j = i ∧ i < l.length then f (nth l j d) else nth l j d := by
  induction l generalizing i j with
  | nil => simp [modAt, nth]
  | cons a l ih =>
    cases i with
    | zero =>
      cases j with
      | zero => simp [modAt, nth]
      | succ j => simp [modAt, nth]
    | succ i =>
      cases j with
      | zero => simp [modAt, nth]
      | succ j =>
        have := ih i j
        simp only [nth, modAt, List.getD_cons_succ, List.length_cons, Nat.succ_lt_succ_iff,
          Nat.add_right_cancel_iff] at *
        exact this

theorem nth_ge {α : Type} (l : List α) (i : Nat) (d : α) (h : l.length ≤ i) : nth l i d = d := by
  simp [nth, List.getD_eq_getElem?_getD, List.getElem?_eq_none h]

theorem nth_setAt {α : Type} (l : List α) (i j : Nat) (x d : α) :
    nth (setAt l i x) j d = if j = i ∧ i < l.length then x else nth l j d := by
  simp only [setAt, nth_modAt]

theorem nth_padUp {α : Type} (n i : Nat) (d : α) (l : List α) : nth (padUp n d l) i d = nth l i d := by
  unfold nth padUp
  simp only [List.getD_eq_getElem?_getD, List.getElem?_append]
  split
  · rfl
  · rename_i h
    rw [List.getElem?_eq_none (l := l) (by omega), List.getElem?_replicate]
    split <;> rfl

theorem padUp_length {α : Type} (n : Nat) (d : α) (l : List α) : n ≤ (padUp n d l).length := by
  simp only [padUp, List.length_append, List.length_replicate]
  omega

end Sys2Proof.Machine
end

