-- ==== Sys2Proof/Laws/Issue.lean ====
section
/-! SUPPORT. Cores, groups, thread masks, and what the start and the end of an issue leave of them. -/

namespace Sys2Proof.Machine

/-! ### Masks -/

theorem maskOf_getLsbD (l : List Nat) (t : Nat) (ht : t < 32) : (maskOf l).getLsbD t = l.contains t := by
  have h : ∀ (l : List Nat) (m : BitVec 32),
      (l.foldl (fun m i => m ||| (1#32 <<< i)) m).getLsbD t = (m.getLsbD t || l.contains t) := by
    intro l
    induction l with
    | nil => simp
    | cons a l ih =>
      intro m
      rw [List.foldl_cons, ih]
      have e : (1#32 <<< a).getLsbD t = decide (t = a) := by
        simp only [BitVec.getLsbD_shiftLeft, BitVec.getLsbD_one]
        by_cases h1 : t = a
        · subst h1; simp [ht]
        · by_cases h2 : t < a
          · simp [h2, h1]
          · have : t - a ≠ 0 := by omega
            simp [h1, this]
      simp only [BitVec.getLsbD_or, e, List.contains_cons, Bool.or_assoc]
      congr 2
  rw [maskOf, h]
  simp

theorem mem_tids (m : BitVec 32) (t : Nat) : t ∈ tids m ↔ m.getLsbD t = true := by
  simp only [tids, List.mem_filter, List.mem_range]
  constructor
  · exact fun h => h.2
  · intro h
    refine ⟨?_, h⟩
    by_cases ht : t < 32
    · exact ht
    · rw [BitVec.getLsbD_of_ge _ _ (by omega)] at h; exact absurd h (by decide)

theorem tids_nodup (m : BitVec 32) : (tids m).Nodup := List.Pairwise.filter _ List.nodup_range

theorem maskWhere_getLsbD (p : Nat → Bool) (t : Nat) : (maskWhere p).getLsbD t = (decide (t < 32) && p t) := by
  by_cases ht : t < 32
  · rw [maskWhere, maskOf_getLsbD _ _ ht]
    cases hp : p t
    · simp [hp]
    · simp [hp, ht]
  · rw [BitVec.getLsbD_of_ge _ _ (by omega)]; simp [ht]

theorem maskWhere_ne_zero (p : Nat → Bool) (t : Nat) (ht : t < 32) (hp : p t = true) : maskWhere p ≠ 0 := by
  intro h
  have := maskWhere_getLsbD p t
  rw [h] at this
  simp [ht, hp] at this

/-! ### Threads -/

theorem thr_modThr (g : Group) (t k : Nat) (f : Thread → Thread) :
    thr (modThr g t f) k = if k = t ∧ t < g.threads.length then f (thr g k) else thr g k :=
  nth_modAt g.threads t k f _

@[simp] theorem modThr_length (g : Group) (t : Nat) (f : Thread → Thread) :
    (modThr g t f).threads.length = g.threads.length := modAt_length _ _ _

theorem foldl_modThr (l : List Nat) (f : Nat → Thread → Thread) (g : Group) (k : Nat) (hl : l.Nodup) :
    thr (l.foldl (fun g t => modThr g t (f t)) g) k = if k ∈ l ∧ k < g.threads.length then f k (thr g k) else thr g k := by
  induction l generalizing g with
  | nil => simp
  | cons a l ih =>
    have hn := List.nodup_cons.mp hl
    rw [List.foldl_cons, ih _ hn.2, thr_modThr, modThr_length]
    by_cases h1 : k = a
    · subst h1
      simp [hn.1]
    · simp [h1]

theorem foldl_modThr_length (l : List Nat) (f : Nat → Thread → Thread) (g : Group) :
    (l.foldl (fun g t => modThr g t (f t)) g).threads.length = g.threads.length := by
  induction l generalizing g with
  | nil => rfl
  | cons a l ih => rw [List.foldl_cons, ih, modThr_length]

theorem foldl_modThr_frame (l : List Nat) (f : Nat → Thread → Thread) (g : Group) :
    ∃ ts, (l.foldl (fun g t => modThr g t (f t)) g) = { g with threads := ts } := by
  induction l generalizing g with
  | nil => exact ⟨g.threads, rfl⟩
  | cons a l ih =>
    obtain ⟨ts, h⟩ := ih (modThr g a (f a))
    exact ⟨ts, h⟩

/-- The threads of a mask changed, and no other. -/
theorem thr_modThrs (g : Group) (m : BitVec 32) (f : Nat → Thread → Thread) (k : Nat) :
    thr (modThrs g m f) k = if m.getLsbD k = true ∧ k < g.threads.length then f k (thr g k) else thr g k := by
  rw [modThrs, foldl_modThr _ _ _ _ (tids_nodup m)]
  simp only [mem_tids]

@[simp] theorem modThrs_length (g : Group) (m : BitVec 32) (f : Nat → Thread → Thread) :
    (modThrs g m f).threads.length = g.threads.length := foldl_modThr_length _ _ _

/-- A change of threads leaves the rest of the group. -/
theorem modThrs_frame (g : Group) (m : BitVec 32) (f : Nat → Thread → Thread) :
    ∃ ts, modThrs g m f = { g with threads := ts } := foldl_modThr_frame _ _ _

/-! ### Cores and groups -/

theorem coreOf_modCore (s : State) (n m : Nat) (f : Core → Core) :
    coreOf (modCore s n f) m = if m = n ∧ n < max 48 s.cores.length then f (coreOf s m) else coreOf s m := by
  simp only [coreOf, modCore, nth_modAt, nth_padUp]
  have : (padUp 48 Core.reset s.cores).length = max 48 s.cores.length := by
    simp only [padUp, List.length_append, List.length_replicate]; omega
  rw [this]

theorem coreOf_modCore_fin (s : State) (n : Fin 48) (m : Nat) (f : Core → Core) :
    coreOf (modCore s n.val f) m = if m = n.val then f (coreOf s m) else coreOf s m := by
  rw [coreOf_modCore]
  have := n.isLt
  have h : n.val < max 48 s.cores.length := by omega
  simp [h]

theorem groupOf_some_lt {s : State} {n i : Nat} {g : Group} (h : groupOf s n i = some g) :
    n < s.cores.length ∧ i < (coreOf s n).slots.length := by
  have hi : i < (coreOf s n).slots.length := by
    by_cases hi : i < (coreOf s n).slots.length
    · exact hi
    · rw [groupOf, nth_ge _ _ _ (by omega)] at h; exact absurd h (by simp)
  refine ⟨?_, hi⟩
  by_cases hn : n < s.cores.length
  · exact hn
  · have e : coreOf s n = Core.reset := by rw [coreOf, nth_ge _ _ _ (by omega)]
    rw [groupOf, e] at h
    have : ∀ i, nth Core.reset.slots i none = (none : Option Group) := by
      intro i
      simp only [nth, Core.reset, List.getD_eq_getElem?_getD, List.getElem?_replicate]
      split <;> rfl
    rw [this] at h
    exact absurd h (by simp)

theorem groupOf_modGroup (s : State) (n i m j : Nat) (f : Group → Group) :
    groupOf (modGroup s n i f) m j
      = if m = n ∧ j = i then (groupOf s m j).map f else groupOf s m j := by
  simp only [groupOf, modGroup, coreOf_modCore]
  by_cases h : m = n ∧ n < max 48 s.cores.length
  · rw [if_pos h]
    obtain ⟨rfl, hn⟩ := h
    simp only [nth_modAt]
    by_cases hj : j = i
    · subst hj
      by_cases hl : j < (coreOf s m).slots.length
      · simp [hl]
      · simp only [hl, and_false, if_false, true_and, if_true]
        rw [nth_ge _ _ _ (by omega)]; rfl
    · simp [hj]
  · rw [if_neg h]
    by_cases h2 : m = n ∧ j = i
    · rw [if_pos h2]
      obtain ⟨rfl, rfl⟩ := h2
      have hc : ¬ m < s.cores.length := fun x => h ⟨rfl, by omega⟩
      cases hg : nth (coreOf s m).slots j none with
      | none => rfl
      | some g => exact absurd (groupOf_some_lt (s := s) (n := m) (i := j) hg).1 hc
    · rw [if_neg h2]

theorem groupOf_setGroup (s : State) (n i m j : Nat) (o : Option Group) (h : (groupOf s n i).isSome = true) :
    groupOf (setGroup s n i o) m j = if m = n ∧ j = i then o else groupOf s m j := by
  obtain ⟨g, hg⟩ := Option.isSome_iff_exists.mp h
  have hl := groupOf_some_lt hg
  have hp : (coreOf s n).slots.length ≤ (padUp 32 none (coreOf s n).slots).length := by
    simp only [padUp, List.length_append, List.length_replicate]; omega
  simp only [groupOf, setGroup, coreOf_modCore]
  by_cases h2 : m = n
  · subst h2
    rw [if_pos ⟨rfl, by omega⟩, nth_setAt, nth_padUp]
    by_cases h3 : j = i
    · subst h3
      have : j < (padUp 32 none (coreOf s m).slots).length := by omega
      simp [this]
    · simp [h3]
  · simp [h2]

/-- A slot of a core written, whatever it held. -/
theorem groupOf_setGroup_fin (s : State) (n : Fin 48) (i : Fin 32) (m j : Nat) (o : Option Group) :
    groupOf (setGroup s n.val i.val o) m j = if m = n.val ∧ j = i.val then o else groupOf s m j := by
  simp only [groupOf, setGroup, coreOf_modCore_fin]
  by_cases h2 : m = n.val
  · subst h2
    rw [if_pos rfl, nth_setAt, nth_padUp]
    have hp := padUp_length 32 none (coreOf s n.val).slots
    have := i.isLt
    have : i.val < (padUp 32 none (coreOf s n.val).slots).length := by omega
    simp [this]
  · simp [h2]

/-! ### Counters -/

theorem regPut_eq (s : State) (a v : Nat) : regPut s a v = { s with regs := SMap.setD s.regs a 0 v } := rfl

theorem regGet_regPut (s : State) (a b v : Nat) : regGet (regPut s a v) b = if b = a then v else regGet s b :=
  SMap.getD_setD s.regs a b 0 v

/-- The performance counters change stored registers only. -/
theorem pmcFeed_frame (s : State) (die : Nat) (b : RBlk) (off inst amount : Nat) (ctx : Option Nat) :
    ∃ r, pmcFeed s die b off inst amount ctx = { s with regs := r }
      ∧ ∀ a, (∀ i, i < 16 → a ≠ blkAddr .pmc die 0 + 0x200 + 8 * i) → SMap.getD r a 0 = regGet s a := by
  have h : ∀ (l : List Nat) (hl : ∀ i ∈ l, i < 16) (s0 : State),
      ∃ r, l.foldl (fun s i =>
        let base := blkAddr .pmc die 0
        if pmcSelects (regGet s (base + 0x100 + 8 * i)) b off inst ctx then
          regPut s (base + 0x200 + 8 * i) ((regGet s (base + 0x200 + 8 * i) + amount) % 2 ^ 64)
        else s) s0 = { s0 with regs := r }
        ∧ ∀ a, (∀ i, i < 16 → a ≠ blkAddr .pmc die 0 + 0x200 + 8 * i) → SMap.getD r a 0 = regGet s0 a := by
    intro l hl
    induction l with
    | nil => exact fun s0 => ⟨s0.regs, rfl, fun _ _ => rfl⟩
    | cons i l ih =>
      intro s0
      have ih' := ih (fun j hj => hl j (List.mem_cons_of_mem _ hj))
      rw [List.foldl_cons]
      simp only []
      split
      · obtain ⟨r, h1, h2⟩ := ih' (regPut s0 (blkAddr .pmc die 0 + 0x200 + 8 * i)
          ((regGet s0 (blkAddr .pmc die 0 + 0x200 + 8 * i) + amount) % 2 ^ 64))
        refine ⟨r, h1, fun a ha => ?_⟩
        rw [h2 a ha, regGet_regPut, if_neg (ha i (hl i List.mem_cons_self))]
      · exact ih' s0
  exact h _ (fun i hi => List.mem_range.mp hi) s

/-- A counter's advance changes stored registers only: the counter and performance counters of its die. -/
theorem bumpC_frame (s : State) (b : RBlk) (u off amount : Nat) (ctx : Option Nat) :
    ∃ r, bumpC s b u off amount ctx = { s with regs := r }
      ∧ ∀ a, a ≠ regAddr b u off → (∀ i, i < 16 → a ≠ blkAddr .pmc (blkAt b u).1 0 + 0x200 + 8 * i) →
          SMap.getD r a 0 = regGet s a := by
  unfold bumpC
  split
  · exact ⟨s.regs, rfl, fun _ _ _ => rfl⟩
  · simp only []
    split
    · obtain ⟨r, h1, h2⟩ := pmcFeed_frame (regPut s (regAddr b u off) ((regGet s (regAddr b u off) + amount) % 2 ^ 64))
        (blkAt b u).1 b off (blkAt b u).2 amount ctx
      refine ⟨r, h1, fun a ha hp => ?_⟩
      rw [h2 a hp, regGet_regPut, if_neg ha]
    · refine ⟨_, rfl, fun a ha _ => ?_⟩
      exact (regGet_regPut s (regAddr b u off) a _).trans (if_neg ha)

@[simp] theorem bumpC_cores (s : State) (b : RBlk) (u off amount : Nat) (ctx : Option Nat) :
    (bumpC s b u off amount ctx).cores = s.cores := by
  obtain ⟨r, h, _⟩ := bumpC_frame s b u off amount ctx
  rw [h]

@[simp] theorem coreOf_bumpC (s : State) (b : RBlk) (u off amount : Nat) (ctx : Option Nat) (n : Nat) :
    coreOf (bumpC s b u off amount ctx) n = coreOf s n := by
  simp [coreOf]

@[simp] theorem groupOf_bumpC (s : State) (b : RBlk) (u off amount : Nat) (ctx : Option Nat) (n i : Nat) :
    groupOf (bumpC s b u off amount ctx) n i = groupOf s n i := by
  simp [groupOf]

end Sys2Proof.Machine
end

