-- ==== Sys2Proof/Laws/Memory.lean ====
section
/-! SUPPORT. Module memory: a read after a write, and the canonical form that every memory operation keeps. -/

namespace Sys2Proof.Machine

theorem cellPut_wf (m : List (Nat × Byte)) (a : Nat) (v : Byte) (h : Memory.wf m = true) : Memory.wf (cellPut m a v) = true := by
  simp only [Memory.wf, Bool.and_eq_true, List.all_eq_true] at *
  simp only [cellPut, SMap.setD]
  split
  · refine ⟨SMap.sorted_del m a h.1, ?_⟩
    have hs : ∀ x, x ∈ SMap.del m a → x ∈ m := by
      intro x
      induction m with
      | nil => simp [SMap.del]
      | cons p m ih =>
        obtain ⟨k, w⟩ := p
        simp only [SMap.del]
        split
        · intro hx
          exact List.mem_cons_of_mem _ (ih ⟨SMap.sorted_of_above h.1, fun y hy => h.2 y (List.mem_cons_of_mem _ hy)⟩ hx)
        · intro hx
          rcases List.mem_cons.mp hx with e | e
          · exact e ▸ List.mem_cons_self
          · exact List.mem_cons_of_mem _
              (ih ⟨SMap.sorted_of_above h.1, fun y hy => h.2 y (List.mem_cons_of_mem _ hy)⟩ e)
    exact fun x hx => h.2 x (hs x hx)
  · rename_i hv
    refine ⟨SMap.sorted_put m a v h.1, ?_⟩
    have hs : ∀ (l : List (Nat × Byte)) (x : Nat × Byte), x ∈ SMap.put l a v → x ∈ l ∨ x = (a, v) := by
      intro l
      induction l with
      | nil => simp [SMap.put]
      | cons p l ih =>
        intro x
        obtain ⟨k, w⟩ := p
        simp only [SMap.put]
        split
        · intro hx
          rcases List.mem_cons.mp hx with e | e
          · exact .inr e
          · exact .inl e
        · split
          · intro hx
            rcases List.mem_cons.mp hx with e | e
            · exact .inr e
            · exact .inl (List.mem_cons_of_mem _ e)
          · intro hx
            rcases List.mem_cons.mp hx with e | e
            · exact .inl (e ▸ List.mem_cons_self)
            · rcases ih x e with y | y
              · exact .inl (List.mem_cons_of_mem _ y)
              · exact .inr y
    intro x hx
    rcases hs m x hx with e | e
    · exact h.2 x e
    · subst e; simpa using hv

theorem cellsPut_wf (m : List (Nat × Byte)) (a : Nat) (bs : List Byte) (h : Memory.wf m = true) :
    Memory.wf (cellsPut m a bs) = true := by
  induction bs generalizing m a with
  | nil => exact h
  | cons b bs ih => exact ih _ _ (cellPut_wf m a b h)

theorem above_filter (m : List (Nat × Byte)) (lo : Nat) (p : Nat × Byte → Bool) (h : SMap.above lo m = true) :
    SMap.above lo (m.filter p) = true := by
  induction m generalizing lo with
  | nil => rfl
  | cons e m ih =>
    obtain ⟨k, w⟩ := e
    simp only [SMap.above, Bool.and_eq_true, decide_eq_true_eq] at h
    simp only [List.filter_cons]
    split
    · simp only [SMap.above, Bool.and_eq_true, decide_eq_true_eq]
      exact ⟨h.1, ih k h.2⟩
    · exact ih lo (SMap.above_mono (by omega) h.2)

theorem filter_wf (m : List (Nat × Byte)) (p : Nat × Byte → Bool) (h : Memory.wf m = true) : Memory.wf (m.filter p) = true := by
  simp only [Memory.wf, Bool.and_eq_true, List.all_eq_true] at *
  refine ⟨?_, fun x hx => h.2 x (List.mem_filter.mp hx).1⟩
  have h1 := h.1
  clear h
  induction m with
  | nil => rfl
  | cons e m ih =>
    obtain ⟨k, w⟩ := e
    simp only [SMap.sorted] at h1
    simp only [List.filter_cons]
    split
    · simp only [SMap.sorted]
      exact above_filter m k p h1
    · exact ih (SMap.sorted_of_above h1)

theorem memPut_wf (s : State) (a : Nat) (bs : List Byte) (h : Memory.wf s.mem.cells = true) :
    Memory.wf (memPut s a bs).mem.cells = true := cellsPut_wf _ _ _ h

theorem memZero_wf (s : State) (a n : Nat) (h : Memory.wf s.mem.cells = true) :
    Memory.wf (memZero s a n).mem.cells = true := filter_wf _ _ h

theorem getD_cellPut (m : List (Nat × Byte)) (a b : Nat) (v : Byte) :
    SMap.getD (cellPut m a v) b 0 = if b = a then v else SMap.getD m b 0 := SMap.getD_setD m a b 0 v

theorem getD_cellsPut_below (m : List (Nat × Byte)) (a b : Nat) (bs : List Byte) (h : b < a) :
    SMap.getD (cellsPut m a bs) b 0 = SMap.getD m b 0 := by
  induction bs generalizing m a with
  | nil => rfl
  | cons x bs ih =>
    rw [cellsPut, ih _ _ (by omega), getD_cellPut, if_neg (by omega)]

theorem getD_cellsPut (m : List (Nat × Byte)) (a b : Nat) (bs : List Byte) :
    SMap.getD (cellsPut m a bs) b 0 = if a ≤ b ∧ b < a + bs.length then bs.getD (b - a) 0 else SMap.getD m b 0 := by
  induction bs generalizing m a with
  | nil =>
    have h : ¬(a ≤ b ∧ b < a + ([] : List Byte).length) := by simp
    rw [if_neg h, cellsPut]
  | cons x bs ih =>
    by_cases hab : b = a
    · subst hab
      rw [cellsPut, getD_cellsPut_below _ _ _ _ (by omega), getD_cellPut]
      simp
    · rw [cellsPut, ih, getD_cellPut, if_neg hab]
      by_cases hle : a + 1 ≤ b ∧ b < a + 1 + bs.length
      · rw [if_pos hle, if_pos (by simp; omega)]
        have e : b - a = (b - (a + 1)) + 1 := by omega
        rw [e, List.getD_cons_succ]
      · rw [if_neg hle, if_neg (by simp; omega)]

/-- Every byte after a store: the stored bytes where they lie, memory as it was elsewhere. -/
theorem memByte_memPut (s : State) (a b : Nat) (bs : List Byte) :
    memByte (memPut s a bs) b = if a ≤ b ∧ b < a + bs.length then bs.getD (b - a) 0 else memByte s b :=
  getD_cellsPut s.mem.cells a b bs

end Sys2Proof.Machine
end

