-- ==== Sys2Proof/Laws/Scalar.lean ====
section
/-! SUPPORT. What the issue of an instruction does: its start, its end, and an instruction that changes its threads. -/

namespace Sys2Proof.Machine

/-! ### The frame of an issue -/

theorem groupOnly_refl (n i : Nat) (may : Nat → Prop) (s : State) : groupOnly n i may s s :=
  ⟨rfl, fun _ => rfl, fun _ _ _ => rfl, fun _ _ => rfl⟩

theorem groupOnly_trans {n i : Nat} {may : Nat → Prop} {s t r : State} (h : groupOnly n i may s t) (k : groupOnly n i may t r) :
    groupOnly n i may s r := by
  obtain ⟨h1, h2, h3, h4⟩ := h
  obtain ⟨k1, k2, k3, k4⟩ := k
  refine ⟨?_, fun m => ?_, fun m j e => (k3 m j e).trans (h3 m j e), fun a e => (k4 a e).trans (h4 a e)⟩
  · have := congrArg (fun (z : State) => { z with cores := s.cores, regs := s.regs }) k1
    exact this.trans h1
  · have := congrArg (fun (z : Core) => { z with slots := (coreOf s m).slots }) (k2 m)
    exact this.trans (h2 m)

theorem groupOnly_mono {n i : Nat} {p q : Nat → Prop} {s t : State} (h : groupOnly n i p s t) (hp : ∀ a, p a → q a) :
    groupOnly n i q s t :=
  ⟨h.1, h.2.1, h.2.2.1, fun a e => h.2.2.2 a (fun x => e (hp a x))⟩

theorem groupOnly_modGroup (s : State) (n i : Nat) (may : Nat → Prop) (f : Group → Group) :
    groupOnly n i may s (modGroup s n i f) := by
  refine ⟨rfl, fun m => ?_, fun m j e => ?_, fun _ _ => rfl⟩
  · simp only [modGroup, coreOf_modCore]
    split <;> rfl
  · rw [groupOf_modGroup, if_neg e]

theorem groupOnly_setGroup (s : State) (n i : Nat) (may : Nat → Prop) (o : Option Group) (h : (groupOf s n i).isSome = true) :
    groupOnly n i may s (setGroup s n i o) := by
  refine ⟨rfl, fun m => ?_, fun m j e => ?_, fun _ _ => rfl⟩
  · simp only [setGroup, coreOf_modCore]
    split <;> rfl
  · rw [groupOf_setGroup _ _ _ _ _ _ h, if_neg e]

theorem groupOnly_bumpC (s : State) (n i off amount : Nat) (ctx : Option Nat)
    (h : issueReg n (regAddr .thr n off)) : groupOnly n i (issueReg n) s (bumpC s .thr n off amount ctx) := by
  obtain ⟨r, h1, h2⟩ := bumpC_frame s .thr n off amount ctx
  rw [h1]
  refine ⟨rfl, fun _ => rfl, fun _ _ _ => rfl, fun a e => ?_⟩
  exact h2 a (fun x => e (x ▸ h)) (fun j hj x => e (.inr (.inr (.inr ⟨j, hj, x⟩))))

/-! ### The start -/

theorem mem_rotateTo {α : Type} (p : α → Bool) (l : List α) (x : α) (h : x ∈ rotateTo p l) : x ∈ l := by
  rcases List.mem_append.mp h with h | h
  · exact List.dropWhile_sublist _ |>.mem h
  · exact List.takeWhile_sublist _ |>.mem h

theorem subsetOrder_spec {g : Group} {m : BitVec 32} (h : m ∈ subsetOrder g) :
    ∃ l, ∀ t, m.getLsbD t = true → (thr g t).live = true ∧ (thr g t).pc = (thr g l).pc := by
  have hm : m ∈ (subLows g (selMask g)).map (samePc g (selMask g)) := by
    unfold subsetOrder at h
    simp only [] at h
    split at h <;> exact mem_rotateTo _ _ _ h
  obtain ⟨l, _, rfl⟩ := List.mem_map.mp hm
  refine ⟨l, fun t ht => ?_⟩
  rw [samePc, maskWhere_getLsbD] at ht
  simp only [Bool.and_eq_true, decide_eq_true_eq, beq_iff_eq] at ht
  have hs := ht.2.1
  rw [selMask, maskWhere_getLsbD] at hs
  simp only [Bool.and_eq_true] at hs
  exact ⟨hs.2.1.1, ht.2.2⟩

theorem lowTid_mem {m : BitVec 32} {t : Nat} (h : lowTid m = some t) : t < 32 ∧ m.getLsbD t = true := by
  have hm : t ∈ tids m := List.mem_of_head? h
  refine ⟨?_, (mem_tids m t).mp hm⟩
  simp only [tids, List.mem_filter, List.mem_range] at hm
  exact hm.1

/-- What the start of an issue gives. -/
theorem issueBegin_spec {s : State} {u : Issue} {o : LOp} {w : Lpk} {room : Core → Bool} {x : Iss} {s1 : State}
    (h : issueBegin s u o w room = some (x, s1)) :
    x.n = u.core.val ∧ x.i = u.slot.val ∧ x.len = lpkLen o ∧ x.act = predMask x.g w x.sub ∧ groupOf s1 x.n x.i = some x.g
    ∧ (∃ g, groupOf s x.n x.i = some g ∧ x.g = { g with cur := x.g.cur, curIssues := x.g.curIssues, ord := g.ord + 1, lastIssue := x.g.lastIssue })
    ∧ (∀ t, x.sub.getLsbD t = true → (thr x.g t).live = true ∧ (thr x.g t).pc = x.pc)
    ∧ (∃ t, t < 32 ∧ x.sub.getLsbD t = true)
    ∧ groupOnly x.n x.i (issueReg x.n) s s1 := by
  unfold issueBegin at h
  simp only [] at h
  split at h
  · exact absurd h (by simp)
  · rename_i g hg
    split at h
    · split at h
      · exact absurd h (by simp)
      · rename_i m hm
        split at h
        · exact absurd h (by simp)
        · rename_i low hlow
          have hmem := List.mem_of_find?_eq_some (Option.filter_eq_some_iff.mp hm).1
          obtain ⟨l, hl⟩ := subsetOrder_spec hmem
          have hlo := lowTid_mem hlow
          have hg0 : groupOf s u.core.val u.slot.val = some g := hg
          obtain ⟨hx, hs⟩ := Prod.mk.inj (Option.some.inj h)
          subst hx
          have hfr : groupOnly u.core.val u.slot.val (issueReg u.core.val) s
              (if g.lastIssue + starveLimit s u.core.val ≤ ckOf s u.core.val then
                bump0 (if (!m.getLsbD g.cur) = true then bump0 s RBlk.thr u.core.val 0x038 else s) RBlk.thr u.core.val 0x040
              else if (!m.getLsbD g.cur) = true then bump0 s RBlk.thr u.core.val 0x038 else s) := by
            have h1 : groupOnly u.core.val u.slot.val (issueReg u.core.val) s
                (if (!m.getLsbD g.cur) = true then bump0 s RBlk.thr u.core.val 0x038 else s) := by
              split
              · exact groupOnly_bumpC _ _ _ _ _ _ (.inr (.inl rfl))
              · exact groupOnly_refl _ _ _ _
            split
            · exact groupOnly_trans h1 (groupOnly_bumpC _ _ _ _ _ _ (.inr (.inr (.inl rfl))))
            · exact h1
          have hcg : ∀ n i, groupOf (if g.lastIssue + starveLimit s u.core.val ≤ ckOf s u.core.val then
                bump0 (if (!m.getLsbD g.cur) = true then bump0 s RBlk.thr u.core.val 0x038 else s) RBlk.thr u.core.val 0x040
              else if (!m.getLsbD g.cur) = true then bump0 s RBlk.thr u.core.val 0x038 else s) n i = groupOf s n i := by
            intro n i
            split <;> split <;> simp [bump0]
          subst hs
          simp only [decide_eq_true_eq]
          refine ⟨trivial, trivial, trivial, trivial, ?_, ⟨g, hg0, rfl⟩, ?_, ⟨low, hlo.1, hlo.2⟩, ?_⟩
          · rw [groupOf_setGroup _ _ _ _ _ _ (by rw [hcg, hg0]; rfl), if_pos ⟨rfl, rfl⟩]
          · intro t ht
            exact ⟨(hl t ht).1, (hl t ht).2.trans (hl low hlo.2).2.symm⟩
          · exact groupOnly_trans hfr (groupOnly_setGroup _ _ _ _ _ (by rw [hcg, hg0]; rfl))
    · exact absurd h (by simp)

/-! ### The end -/

/-- A subset switch changes the current subset only. -/
theorem doSwitch_spec {s : State} {n i trig : Nat} {g : Group} (hg : groupOf s n i = some g) :
    ∃ g', groupOf (doSwitch s n i trig) n i = some g' ∧ g' = { g with cur := g'.cur, curIssues := g'.curIssues }
      ∧ groupOnly n i (issueReg n) s (doSwitch s n i trig) := by
  have hsome : (groupOf s n i).isSome = true := by rw [hg]; rfl
  have hsw : (switchFrom g trig).1 = { g with cur := (switchFrom g trig).1.cur, curIssues := (switchFrom g trig).1.curIssues } := by
    unfold switchFrom
    simp only []
    split <;> rfl
  refine ⟨(switchFrom g trig).1, ?_, hsw, ?_⟩
  · unfold doSwitch
    rw [hg]
    simp only []
    split
    · rw [bump0, groupOf_bumpC, groupOf_setGroup _ _ _ _ _ _ hsome, if_pos ⟨rfl, rfl⟩]
    · rw [groupOf_setGroup _ _ _ _ _ _ hsome, if_pos ⟨rfl, rfl⟩]
  · unfold doSwitch
    rw [hg]
    simp only []
    split
    · exact groupOnly_trans (groupOnly_setGroup _ _ _ _ _ hsome) (groupOnly_bumpC _ _ _ _ _ _ (.inr (.inl rfl)))
    · exact groupOnly_setGroup _ _ _ _ _ hsome

theorem endSplit_frame (s : State) (x : Iss) (g : Group) : endSplit s x g = { g with splits := (endSplit s x g).splits } := by
  unfold endSplit
  simp only []
  split <;> rfl

theorem endGroup_frame (s : State) (x : Iss) (f : Flow) (g0 : Group) :
    (endGroup s x f g0).1 = { g0 with
      threads := (modThrs g0 x.sub (endThread x f)).threads, splits := (endGroup s x f g0).1.splits,
      cur := (endGroup s x f g0).1.cur, curIssues := (endGroup s x f g0).1.curIssues } := by
  obtain ⟨ts, hts⟩ := modThrs_frame g0 x.sub (endThread x f)
  have h : (endGroup s x f g0).1 = { endSplit s x (modThrs g0 x.sub (endThread x f)) with
      splits := (endGroup s x f g0).1.splits, cur := (endGroup s x f g0).1.cur, curIssues := (endGroup s x f g0).1.curIssues } := rfl
  rw [h, endSplit_frame, hts]

/-- What the end of an issue does: the threads of the subset end or go on, the others stay. -/
theorem issueEnd_spec {x : Iss} {f : Flow} {s : State} {g0 : Group} (hg : groupOf s x.n x.i = some g0) :
    ∃ g', groupOf (issueEnd x f s) x.n x.i = some g'
      ∧ g' = { g0 with threads := g'.threads, splits := g'.splits, cur := g'.cur, curIssues := g'.curIssues }
      ∧ g'.threads.length = g0.threads.length
      ∧ (∀ k, k < g0.threads.length → thr g' k = if x.sub.getLsbD k = true then endThread x f k (thr g0 k) else thr g0 k)
      ∧ groupOnly x.n x.i (issueReg x.n) s (issueEnd x f s) := by
  have hQ := endGroup_frame s x f g0
  have hb : groupOf (bump s .thr x.n 0x028 g0.ctx) x.n x.i = some g0 := by rw [bump, groupOf_bumpC, hg]
  have hsome : (groupOf (bump s .thr x.n 0x028 g0.ctx) x.n x.i).isSome = true := by rw [hb]; rfl
  unfold issueEnd
  rw [hg]
  simp only []
  generalize (endGroup s x f g0) = r at *
  have h1 : groupOf (setGroup (bump s .thr x.n 0x028 g0.ctx) x.n x.i (some r.1)) x.n x.i = some r.1 := by
    rw [groupOf_setGroup _ _ _ _ _ _ hsome, if_pos ⟨rfl, rfl⟩]
  have h2 : groupOnly x.n x.i (issueReg x.n) s (setGroup (bump s .thr x.n 0x028 g0.ctx) x.n x.i (some r.1)) :=
    groupOnly_trans (groupOnly_bumpC _ _ _ _ _ _ (.inl rfl)) (groupOnly_setGroup _ _ _ _ _ hsome)
  have hl : ∀ ts, ts = (modThrs g0 x.sub (endThread x f)).threads → ts.length = g0.threads.length := by
    intro ts e; rw [e, modThrs_length]
  have ht : ∀ g' : Group, g'.threads = (modThrs g0 x.sub (endThread x f)).threads → ∀ k, k < g0.threads.length →
      thr g' k = if x.sub.getLsbD k = true then endThread x f k (thr g0 k) else thr g0 k := by
    intro g' e k hk
    have : thr g' k = thr (modThrs g0 x.sub (endThread x f)) k := by rw [thr, thr, e]
    rw [this, thr_modThrs]
    simp [hk]
  have hrt : r.1.threads = (modThrs g0 x.sub (endThread x f)).threads := by rw [hQ]
  split
  · rename_i t _
    obtain ⟨g', d1, d2, d3⟩ := doSwitch_spec (trig := t) h1
    have et : g'.threads = (modThrs g0 x.sub (endThread x f)).threads := by rw [d2, ← hrt]
    refine ⟨g', d1, ?_, hl _ et, ht g' et, groupOnly_trans h2 d3⟩
    rw [et, d2]
    simp only []
    rw [hQ]
  · refine ⟨r.1, h1, ?_, hl _ hrt, ht _ hrt, h2⟩
    rw [hrt]
    exact hQ

/-! ### An instruction that changes its threads -/

theorem liveMask_ne_zero {g : Group} {t : Nat} (ht : t < 32) (h : (thr g t).live = true) : liveMask g ≠ 0 :=
  maskWhere_ne_zero _ t ht h

/-- A live thread is one of its group. -/
theorem lt_of_live {g : Group} {t : Nat} (h : (thr g t).live = true) : t < g.threads.length := by
  by_cases hk : t < g.threads.length
  · exact hk
  · rw [thr, nth_ge _ _ _ (by omega)] at h
    exact absurd h (by decide)

/-- A group with a live thread does not end. -/
theorem settle_live {s : State} {n i : Nat} {g : Group} (hg : groupOf s n i = some g) {t : Nat} (ht : t < 32)
    (h : (thr g t).live = true) : settle n i s = s := by
  unfold settle
  rw [hg]
  have : liveMask g ≠ 0#32 := liveMask_ne_zero ht h
  simp only []
  rw [if_neg]
  simp only [Bool.and_eq_true, decide_eq_true_eq, not_and, Bool.not_eq_true]
  exact fun e => absurd e.1 this

theorem pcOf_next (x : Iss) (t : Nat) : Flow.pcOf Flow.next x t = x.pc + x.len := rfl

/-- The end of an issue that falls through, after its group's threads were changed by `f` and nothing else of the state by more than
`may` allows. -/
theorem fallThrough_spec {x : Iss} {s s1 s2 : State} {may : Nat → Prop} {g2 : Group}
    (h1 : groupOnly x.n x.i may s s1) (hm : ∀ a, issueReg x.n a → may a)
    (h2 : groupOnly x.n x.i may s1 s2) (hg : groupOf s2 x.n x.i = some g2)
    (hl : ∃ t, t < 32 ∧ (thr g2 t).live = true) :
    ∃ g', groupOf (settle x.n x.i (issueEnd x Flow.next s2)) x.n x.i = some g'
      ∧ g' = { g2 with threads := g'.threads, splits := g'.splits, cur := g'.cur, curIssues := g'.curIssues }
      ∧ g'.threads.length = g2.threads.length
      ∧ (∀ k, k < g2.threads.length → thr g' k = if x.sub.getLsbD k = true then { thr g2 k with pc := x.pc + x.len } else thr g2 k)
      ∧ groupOnly x.n x.i may s (settle x.n x.i (issueEnd x Flow.next s2)) := by
  obtain ⟨g', e1, e2, e3, e4, e5⟩ := issueEnd_spec (f := Flow.next) hg
  obtain ⟨t, ht, hlt⟩ := hl
  have hlive : (thr g' t).live = true := by
    rw [e4 t (lt_of_live hlt)]
    split
    · simp [endThread, Flow.next, hlt]
    · exact hlt
  rw [settle_live e1 ht hlive]
  refine ⟨g', e1, e2, e3, fun k hk => ?_, groupOnly_trans h1 (groupOnly_trans h2 (groupOnly_mono e5 hm))⟩
  rw [e4 k hk]
  split
  · simp [endThread, Flow.next, Flow.pcOf]
  · rfl

/-- An instruction that changes the active threads by `f` and falls through. -/
theorem perThread_spec {u : Issue} {o : LOp} {w : Lpk} {room : Core → Bool} {s : State} {x : Iss} {s1 : State}
    (h : issueBegin s u o w room = some (x, s1)) (f : Group → Nat → Thread → Thread)
    (hf : ∀ k h, (f x.g k h).live = h.live) :
    groupNow x x.g (settle x.n x.i (perThread f x s1))
        (fun g => ∀ k, k < x.g.threads.length → thr g k = stepThread x (f x.g) k (thr x.g k))
      ∧ groupOnly x.n x.i (issueReg x.n) s (settle x.n x.i (perThread f x s1)) := by
  obtain ⟨_, _, _, _, hg, _, hlv, ⟨t, ht, hts⟩, hfr⟩ := issueBegin_spec h
  have hg2 : groupOf (modGroup s1 x.n x.i (fun g => modThrs g x.act (f x.g))) x.n x.i = some (modThrs x.g x.act (f x.g)) := by
    rw [groupOf_modGroup, if_pos ⟨rfl, rfl⟩, hg]; rfl
  have hl2 : (thr (modThrs x.g x.act (f x.g)) t).live = true := by
    rw [thr_modThrs]
    split
    · rw [hf]; exact (hlv t hts).1
    · exact (hlv t hts).1
  obtain ⟨g', e1, e2, e3, e4, e5⟩ := fallThrough_spec hfr (fun _ e => e) (groupOnly_modGroup s1 x.n x.i (issueReg x.n) _) hg2
    ⟨t, ht, hl2⟩
  obtain ⟨ts, hts'⟩ := modThrs_frame x.g x.act (f x.g)
  refine ⟨⟨g', e1, ?_, fun k hk => ?_⟩, e5⟩
  · rw [e2, hts']
  · rw [e4 k (by rw [modThrs_length]; exact hk), thr_modThrs]
    simp only [stepThread, hk, and_true]

/-- A scalar opcode whose meaning changes its active threads by `f`. -/
theorem threadResult_of {c : Issue → Lpk → Instr} {o : LOp} {F : Lpk → Iss → Nat → Thread → Thread}
    (f : Lpk → Group → Nat → Thread → Thread)
    (hc : ∀ u w s, exec (c u w) s = scalarOp o u w (perThread (f w)) s)
    (hF : ∀ w x k h, F w x k h = f w x.g k h) (hf : ∀ w g k h, (f w g k h).live = h.live) : threadResult c o F := by
  intro u w s x s1 ⟨hv, hk, hb⟩
  obtain ⟨h1, h2⟩ := perThread_spec hb (f w) (fun k h => hf w x.g k h)
  refine ⟨_, ?_, ?_, h2⟩
  · rw [hc]
    simp only [scalarOp, issue, hv, hb, hk, pipeCheck, if_true]
  · have e : F w x = f w x.g := by
      funext k h; exact hF w x k h
    rw [e]
    exact h1

end Sys2Proof.Machine
end

