-- ==== Sys2Proof/Laws/State.lean ====
section
/-! SUPPORT. What each update of State leaves: one lemma per update and field, so that no proof unfolds a record update. -/

namespace Sys2Proof.Machine

/-! ### regPutD -/

@[simp] theorem regPutD_pending (s : State) (a d v : Nat) : (regPutD s a d v).pending = s.pending := rfl
@[simp] theorem regPutD_now (s : State) (a d v : Nat) : (regPutD s a d v).now = s.now := rfl
@[simp] theorem regPutD_free (s : State) (a d v : Nat) : (regPutD s a d v).free = s.free := rfl
@[simp] theorem regPutD_cores (s : State) (a d v : Nat) : (regPutD s a d v).cores = s.cores := rfl
@[simp] theorem regPutD_mem (s : State) (a d v : Nat) : (regPutD s a d v).mem = s.mem := rfl
@[simp] theorem regPutD_jobs (s : State) (a d v : Nat) : (regPutD s a d v).jobs = s.jobs := rfl
@[simp] theorem regPutD_nextJob (s : State) (a d v : Nat) : (regPutD s a d v).nextJob = s.nextJob := rfl
@[simp] theorem regPutD_sync (s : State) (a d v : Nat) : (regPutD s a d v).sync = s.sync := rfl
@[simp] theorem regPutD_que (s : State) (a d v : Nat) : (regPutD s a d v).que = s.que := rfl
@[simp] theorem regPutD_fab (s : State) (a d v : Nat) : (regPutD s a d v).fab = s.fab := rfl
@[simp] theorem regPutD_err (s : State) (a d v : Nat) : (regPutD s a d v).err = s.err := rfl
@[simp] theorem regPutD_trackers (s : State) (a d v : Nat) : (regPutD s a d v).trackers = s.trackers := rfl
@[simp] theorem regPutD_regions (s : State) (a d v : Nat) : (regPutD s a d v).regions = s.regions := rfl
@[simp] theorem regPutD_ctxs (s : State) (a d v : Nat) : (regPutD s a d v).ctxs = s.ctxs := rfl
@[simp] theorem regPutD_kernels (s : State) (a d v : Nat) : (regPutD s a d v).kernels = s.kernels := rfl
@[simp] theorem regPutD_ckpts (s : State) (a d v : Nat) : (regPutD s a d v).ckpts = s.ckpts := rfl
@[simp] theorem regPutD_buckets (s : State) (a d v : Nat) : (regPutD s a d v).buckets = s.buckets := rfl
@[simp] theorem regPutD_runs (s : State) (a d v : Nat) : (regPutD s a d v).runs = s.runs := rfl
@[simp] theorem regPutD_utables (s : State) (a d v : Nat) : (regPutD s a d v).utables = s.utables := rfl
@[simp] theorem regPutD_heldSeq (s : State) (a d v : Nat) : (regPutD s a d v).heldSeq = s.heldSeq := rfl
@[simp] theorem regPutD_lpm (s : State) (a d v : Nat) : (regPutD s a d v).lpm = s.lpm := rfl
@[simp] theorem regPutD_clusters (s : State) (a d v : Nat) : (regPutD s a d v).clusters = s.clusters := rfl
@[simp] theorem regPutD_fabricId (s : State) (a d v : Nat) : (regPutD s a d v).fabricId = s.fabricId := rfl
@[simp] theorem regPutD_ftime (s : State) (a d v : Nat) : (regPutD s a d v).ftime = s.ftime := rfl
@[simp] theorem regPutD_mbx (s : State) (a d v : Nat) : (regPutD s a d v).mbx = s.mbx := rfl
@[simp] theorem regPutD_sec (s : State) (a d v : Nat) : (regPutD s a d v).sec = s.sec := rfl
@[simp] theorem regPutD_pwr (s : State) (a d v : Nat) : (regPutD s a d v).pwr = s.pwr := rfl
@[simp] theorem regPutD_cic (s : State) (a d v : Nat) : (regPutD s a d v).cic = s.cic := rfl
@[simp] theorem regPutD_pkg (s : State) (a d v : Nat) : (regPutD s a d v).pkg = s.pkg := rfl
@[simp] theorem regPutD_fw (s : State) (a d v : Nat) : (regPutD s a d v).fw = s.fw := rfl

/-! ### regPut -/

@[simp] theorem regPut_pending (s : State) (a v : Nat) : (regPut s a v).pending = s.pending := rfl
@[simp] theorem regPut_now (s : State) (a v : Nat) : (regPut s a v).now = s.now := rfl
@[simp] theorem regPut_free (s : State) (a v : Nat) : (regPut s a v).free = s.free := rfl
@[simp] theorem regPut_cores (s : State) (a v : Nat) : (regPut s a v).cores = s.cores := rfl
@[simp] theorem regPut_mem (s : State) (a v : Nat) : (regPut s a v).mem = s.mem := rfl
@[simp] theorem regPut_jobs (s : State) (a v : Nat) : (regPut s a v).jobs = s.jobs := rfl
@[simp] theorem regPut_nextJob (s : State) (a v : Nat) : (regPut s a v).nextJob = s.nextJob := rfl
@[simp] theorem regPut_sync (s : State) (a v : Nat) : (regPut s a v).sync = s.sync := rfl
@[simp] theorem regPut_que (s : State) (a v : Nat) : (regPut s a v).que = s.que := rfl
@[simp] theorem regPut_fab (s : State) (a v : Nat) : (regPut s a v).fab = s.fab := rfl
@[simp] theorem regPut_err (s : State) (a v : Nat) : (regPut s a v).err = s.err := rfl
@[simp] theorem regPut_trackers (s : State) (a v : Nat) : (regPut s a v).trackers = s.trackers := rfl
@[simp] theorem regPut_regions (s : State) (a v : Nat) : (regPut s a v).regions = s.regions := rfl
@[simp] theorem regPut_ctxs (s : State) (a v : Nat) : (regPut s a v).ctxs = s.ctxs := rfl
@[simp] theorem regPut_kernels (s : State) (a v : Nat) : (regPut s a v).kernels = s.kernels := rfl
@[simp] theorem regPut_ckpts (s : State) (a v : Nat) : (regPut s a v).ckpts = s.ckpts := rfl
@[simp] theorem regPut_buckets (s : State) (a v : Nat) : (regPut s a v).buckets = s.buckets := rfl
@[simp] theorem regPut_runs (s : State) (a v : Nat) : (regPut s a v).runs = s.runs := rfl
@[simp] theorem regPut_utables (s : State) (a v : Nat) : (regPut s a v).utables = s.utables := rfl
@[simp] theorem regPut_heldSeq (s : State) (a v : Nat) : (regPut s a v).heldSeq = s.heldSeq := rfl
@[simp] theorem regPut_lpm (s : State) (a v : Nat) : (regPut s a v).lpm = s.lpm := rfl
@[simp] theorem regPut_clusters (s : State) (a v : Nat) : (regPut s a v).clusters = s.clusters := rfl
@[simp] theorem regPut_fabricId (s : State) (a v : Nat) : (regPut s a v).fabricId = s.fabricId := rfl
@[simp] theorem regPut_ftime (s : State) (a v : Nat) : (regPut s a v).ftime = s.ftime := rfl
@[simp] theorem regPut_mbx (s : State) (a v : Nat) : (regPut s a v).mbx = s.mbx := rfl
@[simp] theorem regPut_sec (s : State) (a v : Nat) : (regPut s a v).sec = s.sec := rfl
@[simp] theorem regPut_pwr (s : State) (a v : Nat) : (regPut s a v).pwr = s.pwr := rfl
@[simp] theorem regPut_cic (s : State) (a v : Nat) : (regPut s a v).cic = s.cic := rfl
@[simp] theorem regPut_pkg (s : State) (a v : Nat) : (regPut s a v).pkg = s.pkg := rfl
@[simp] theorem regPut_fw (s : State) (a v : Nat) : (regPut s a v).fw = s.fw := rfl

/-! ### modCore -/

@[simp] theorem modCore_pending (s : State) (n : Nat) (f : Core → Core) : (modCore s n f).pending = s.pending := rfl
@[simp] theorem modCore_now (s : State) (n : Nat) (f : Core → Core) : (modCore s n f).now = s.now := rfl
@[simp] theorem modCore_free (s : State) (n : Nat) (f : Core → Core) : (modCore s n f).free = s.free := rfl
@[simp] theorem modCore_regs (s : State) (n : Nat) (f : Core → Core) : (modCore s n f).regs = s.regs := rfl
@[simp] theorem modCore_mem (s : State) (n : Nat) (f : Core → Core) : (modCore s n f).mem = s.mem := rfl
@[simp] theorem modCore_jobs (s : State) (n : Nat) (f : Core → Core) : (modCore s n f).jobs = s.jobs := rfl
@[simp] theorem modCore_nextJob (s : State) (n : Nat) (f : Core → Core) : (modCore s n f).nextJob = s.nextJob := rfl
@[simp] theorem modCore_sync (s : State) (n : Nat) (f : Core → Core) : (modCore s n f).sync = s.sync := rfl
@[simp] theorem modCore_que (s : State) (n : Nat) (f : Core → Core) : (modCore s n f).que = s.que := rfl
@[simp] theorem modCore_fab (s : State) (n : Nat) (f : Core → Core) : (modCore s n f).fab = s.fab := rfl
@[simp] theorem modCore_err (s : State) (n : Nat) (f : Core → Core) : (modCore s n f).err = s.err := rfl
@[simp] theorem modCore_trackers (s : State) (n : Nat) (f : Core → Core) : (modCore s n f).trackers = s.trackers := rfl
@[simp] theorem modCore_regions (s : State) (n : Nat) (f : Core → Core) : (modCore s n f).regions = s.regions := rfl
@[simp] theorem modCore_ctxs (s : State) (n : Nat) (f : Core → Core) : (modCore s n f).ctxs = s.ctxs := rfl
@[simp] theorem modCore_kernels (s : State) (n : Nat) (f : Core → Core) : (modCore s n f).kernels = s.kernels := rfl
@[simp] theorem modCore_ckpts (s : State) (n : Nat) (f : Core → Core) : (modCore s n f).ckpts = s.ckpts := rfl
@[simp] theorem modCore_buckets (s : State) (n : Nat) (f : Core → Core) : (modCore s n f).buckets = s.buckets := rfl
@[simp] theorem modCore_runs (s : State) (n : Nat) (f : Core → Core) : (modCore s n f).runs = s.runs := rfl
@[simp] theorem modCore_utables (s : State) (n : Nat) (f : Core → Core) : (modCore s n f).utables = s.utables := rfl
@[simp] theorem modCore_heldSeq (s : State) (n : Nat) (f : Core → Core) : (modCore s n f).heldSeq = s.heldSeq := rfl
@[simp] theorem modCore_lpm (s : State) (n : Nat) (f : Core → Core) : (modCore s n f).lpm = s.lpm := rfl
@[simp] theorem modCore_clusters (s : State) (n : Nat) (f : Core → Core) : (modCore s n f).clusters = s.clusters := rfl
@[simp] theorem modCore_fabricId (s : State) (n : Nat) (f : Core → Core) : (modCore s n f).fabricId = s.fabricId := rfl
@[simp] theorem modCore_ftime (s : State) (n : Nat) (f : Core → Core) : (modCore s n f).ftime = s.ftime := rfl
@[simp] theorem modCore_mbx (s : State) (n : Nat) (f : Core → Core) : (modCore s n f).mbx = s.mbx := rfl
@[simp] theorem modCore_sec (s : State) (n : Nat) (f : Core → Core) : (modCore s n f).sec = s.sec := rfl
@[simp] theorem modCore_pwr (s : State) (n : Nat) (f : Core → Core) : (modCore s n f).pwr = s.pwr := rfl
@[simp] theorem modCore_cic (s : State) (n : Nat) (f : Core → Core) : (modCore s n f).cic = s.cic := rfl
@[simp] theorem modCore_pkg (s : State) (n : Nat) (f : Core → Core) : (modCore s n f).pkg = s.pkg := rfl
@[simp] theorem modCore_fw (s : State) (n : Nat) (f : Core → Core) : (modCore s n f).fw = s.fw := rfl

/-! ### modGroup -/

@[simp] theorem modGroup_pending (s : State) (n i : Nat) (f : Group → Group) : (modGroup s n i f).pending = s.pending := rfl
@[simp] theorem modGroup_now (s : State) (n i : Nat) (f : Group → Group) : (modGroup s n i f).now = s.now := rfl
@[simp] theorem modGroup_free (s : State) (n i : Nat) (f : Group → Group) : (modGroup s n i f).free = s.free := rfl
@[simp] theorem modGroup_regs (s : State) (n i : Nat) (f : Group → Group) : (modGroup s n i f).regs = s.regs := rfl
@[simp] theorem modGroup_mem (s : State) (n i : Nat) (f : Group → Group) : (modGroup s n i f).mem = s.mem := rfl
@[simp] theorem modGroup_jobs (s : State) (n i : Nat) (f : Group → Group) : (modGroup s n i f).jobs = s.jobs := rfl
@[simp] theorem modGroup_nextJob (s : State) (n i : Nat) (f : Group → Group) : (modGroup s n i f).nextJob = s.nextJob := rfl
@[simp] theorem modGroup_sync (s : State) (n i : Nat) (f : Group → Group) : (modGroup s n i f).sync = s.sync := rfl
@[simp] theorem modGroup_que (s : State) (n i : Nat) (f : Group → Group) : (modGroup s n i f).que = s.que := rfl
@[simp] theorem modGroup_fab (s : State) (n i : Nat) (f : Group → Group) : (modGroup s n i f).fab = s.fab := rfl
@[simp] theorem modGroup_err (s : State) (n i : Nat) (f : Group → Group) : (modGroup s n i f).err = s.err := rfl
@[simp] theorem modGroup_trackers (s : State) (n i : Nat) (f : Group → Group) : (modGroup s n i f).trackers = s.trackers := rfl
@[simp] theorem modGroup_regions (s : State) (n i : Nat) (f : Group → Group) : (modGroup s n i f).regions = s.regions := rfl
@[simp] theorem modGroup_ctxs (s : State) (n i : Nat) (f : Group → Group) : (modGroup s n i f).ctxs = s.ctxs := rfl
@[simp] theorem modGroup_kernels (s : State) (n i : Nat) (f : Group → Group) : (modGroup s n i f).kernels = s.kernels := rfl
@[simp] theorem modGroup_ckpts (s : State) (n i : Nat) (f : Group → Group) : (modGroup s n i f).ckpts = s.ckpts := rfl
@[simp] theorem modGroup_buckets (s : State) (n i : Nat) (f : Group → Group) : (modGroup s n i f).buckets = s.buckets := rfl
@[simp] theorem modGroup_runs (s : State) (n i : Nat) (f : Group → Group) : (modGroup s n i f).runs = s.runs := rfl
@[simp] theorem modGroup_utables (s : State) (n i : Nat) (f : Group → Group) : (modGroup s n i f).utables = s.utables := rfl
@[simp] theorem modGroup_heldSeq (s : State) (n i : Nat) (f : Group → Group) : (modGroup s n i f).heldSeq = s.heldSeq := rfl
@[simp] theorem modGroup_lpm (s : State) (n i : Nat) (f : Group → Group) : (modGroup s n i f).lpm = s.lpm := rfl
@[simp] theorem modGroup_clusters (s : State) (n i : Nat) (f : Group → Group) : (modGroup s n i f).clusters = s.clusters := rfl
@[simp] theorem modGroup_fabricId (s : State) (n i : Nat) (f : Group → Group) : (modGroup s n i f).fabricId = s.fabricId := rfl
@[simp] theorem modGroup_ftime (s : State) (n i : Nat) (f : Group → Group) : (modGroup s n i f).ftime = s.ftime := rfl
@[simp] theorem modGroup_mbx (s : State) (n i : Nat) (f : Group → Group) : (modGroup s n i f).mbx = s.mbx := rfl
@[simp] theorem modGroup_sec (s : State) (n i : Nat) (f : Group → Group) : (modGroup s n i f).sec = s.sec := rfl
@[simp] theorem modGroup_pwr (s : State) (n i : Nat) (f : Group → Group) : (modGroup s n i f).pwr = s.pwr := rfl
@[simp] theorem modGroup_cic (s : State) (n i : Nat) (f : Group → Group) : (modGroup s n i f).cic = s.cic := rfl
@[simp] theorem modGroup_pkg (s : State) (n i : Nat) (f : Group → Group) : (modGroup s n i f).pkg = s.pkg := rfl
@[simp] theorem modGroup_fw (s : State) (n i : Nat) (f : Group → Group) : (modGroup s n i f).fw = s.fw := rfl

/-! ### setGroup -/

@[simp] theorem setGroup_pending (s : State) (n i : Nat) (o : Option Group) : (setGroup s n i o).pending = s.pending := rfl
@[simp] theorem setGroup_now (s : State) (n i : Nat) (o : Option Group) : (setGroup s n i o).now = s.now := rfl
@[simp] theorem setGroup_free (s : State) (n i : Nat) (o : Option Group) : (setGroup s n i o).free = s.free := rfl
@[simp] theorem setGroup_regs (s : State) (n i : Nat) (o : Option Group) : (setGroup s n i o).regs = s.regs := rfl
@[simp] theorem setGroup_mem (s : State) (n i : Nat) (o : Option Group) : (setGroup s n i o).mem = s.mem := rfl
@[simp] theorem setGroup_jobs (s : State) (n i : Nat) (o : Option Group) : (setGroup s n i o).jobs = s.jobs := rfl
@[simp] theorem setGroup_nextJob (s : State) (n i : Nat) (o : Option Group) : (setGroup s n i o).nextJob = s.nextJob := rfl
@[simp] theorem setGroup_sync (s : State) (n i : Nat) (o : Option Group) : (setGroup s n i o).sync = s.sync := rfl
@[simp] theorem setGroup_que (s : State) (n i : Nat) (o : Option Group) : (setGroup s n i o).que = s.que := rfl
@[simp] theorem setGroup_fab (s : State) (n i : Nat) (o : Option Group) : (setGroup s n i o).fab = s.fab := rfl
@[simp] theorem setGroup_err (s : State) (n i : Nat) (o : Option Group) : (setGroup s n i o).err = s.err := rfl
@[simp] theorem setGroup_trackers (s : State) (n i : Nat) (o : Option Group) : (setGroup s n i o).trackers = s.trackers := rfl
@[simp] theorem setGroup_regions (s : State) (n i : Nat) (o : Option Group) : (setGroup s n i o).regions = s.regions := rfl
@[simp] theorem setGroup_ctxs (s : State) (n i : Nat) (o : Option Group) : (setGroup s n i o).ctxs = s.ctxs := rfl
@[simp] theorem setGroup_kernels (s : State) (n i : Nat) (o : Option Group) : (setGroup s n i o).kernels = s.kernels := rfl
@[simp] theorem setGroup_ckpts (s : State) (n i : Nat) (o : Option Group) : (setGroup s n i o).ckpts = s.ckpts := rfl
@[simp] theorem setGroup_buckets (s : State) (n i : Nat) (o : Option Group) : (setGroup s n i o).buckets = s.buckets := rfl
@[simp] theorem setGroup_runs (s : State) (n i : Nat) (o : Option Group) : (setGroup s n i o).runs = s.runs := rfl
@[simp] theorem setGroup_utables (s : State) (n i : Nat) (o : Option Group) : (setGroup s n i o).utables = s.utables := rfl
@[simp] theorem setGroup_heldSeq (s : State) (n i : Nat) (o : Option Group) : (setGroup s n i o).heldSeq = s.heldSeq := rfl
@[simp] theorem setGroup_lpm (s : State) (n i : Nat) (o : Option Group) : (setGroup s n i o).lpm = s.lpm := rfl
@[simp] theorem setGroup_clusters (s : State) (n i : Nat) (o : Option Group) : (setGroup s n i o).clusters = s.clusters := rfl
@[simp] theorem setGroup_fabricId (s : State) (n i : Nat) (o : Option Group) : (setGroup s n i o).fabricId = s.fabricId := rfl
@[simp] theorem setGroup_ftime (s : State) (n i : Nat) (o : Option Group) : (setGroup s n i o).ftime = s.ftime := rfl
@[simp] theorem setGroup_mbx (s : State) (n i : Nat) (o : Option Group) : (setGroup s n i o).mbx = s.mbx := rfl
@[simp] theorem setGroup_sec (s : State) (n i : Nat) (o : Option Group) : (setGroup s n i o).sec = s.sec := rfl
@[simp] theorem setGroup_pwr (s : State) (n i : Nat) (o : Option Group) : (setGroup s n i o).pwr = s.pwr := rfl
@[simp] theorem setGroup_cic (s : State) (n i : Nat) (o : Option Group) : (setGroup s n i o).cic = s.cic := rfl
@[simp] theorem setGroup_pkg (s : State) (n i : Nat) (o : Option Group) : (setGroup s n i o).pkg = s.pkg := rfl
@[simp] theorem setGroup_fw (s : State) (n i : Nat) (o : Option Group) : (setGroup s n i o).fw = s.fw := rfl

/-! ### modCluster -/

@[simp] theorem modCluster_pending (s : State) (k : Nat) (f : Cluster → Cluster) : (modCluster s k f).pending = s.pending := rfl
@[simp] theorem modCluster_now (s : State) (k : Nat) (f : Cluster → Cluster) : (modCluster s k f).now = s.now := rfl
@[simp] theorem modCluster_free (s : State) (k : Nat) (f : Cluster → Cluster) : (modCluster s k f).free = s.free := rfl
@[simp] theorem modCluster_regs (s : State) (k : Nat) (f : Cluster → Cluster) : (modCluster s k f).regs = s.regs := rfl
@[simp] theorem modCluster_cores (s : State) (k : Nat) (f : Cluster → Cluster) : (modCluster s k f).cores = s.cores := rfl
@[simp] theorem modCluster_mem (s : State) (k : Nat) (f : Cluster → Cluster) : (modCluster s k f).mem = s.mem := rfl
@[simp] theorem modCluster_jobs (s : State) (k : Nat) (f : Cluster → Cluster) : (modCluster s k f).jobs = s.jobs := rfl
@[simp] theorem modCluster_nextJob (s : State) (k : Nat) (f : Cluster → Cluster) : (modCluster s k f).nextJob = s.nextJob := rfl
@[simp] theorem modCluster_sync (s : State) (k : Nat) (f : Cluster → Cluster) : (modCluster s k f).sync = s.sync := rfl
@[simp] theorem modCluster_que (s : State) (k : Nat) (f : Cluster → Cluster) : (modCluster s k f).que = s.que := rfl
@[simp] theorem modCluster_fab (s : State) (k : Nat) (f : Cluster → Cluster) : (modCluster s k f).fab = s.fab := rfl
@[simp] theorem modCluster_err (s : State) (k : Nat) (f : Cluster → Cluster) : (modCluster s k f).err = s.err := rfl
@[simp] theorem modCluster_trackers (s : State) (k : Nat) (f : Cluster → Cluster) : (modCluster s k f).trackers = s.trackers := rfl
@[simp] theorem modCluster_regions (s : State) (k : Nat) (f : Cluster → Cluster) : (modCluster s k f).regions = s.regions := rfl
@[simp] theorem modCluster_ctxs (s : State) (k : Nat) (f : Cluster → Cluster) : (modCluster s k f).ctxs = s.ctxs := rfl
@[simp] theorem modCluster_kernels (s : State) (k : Nat) (f : Cluster → Cluster) : (modCluster s k f).kernels = s.kernels := rfl
@[simp] theorem modCluster_ckpts (s : State) (k : Nat) (f : Cluster → Cluster) : (modCluster s k f).ckpts = s.ckpts := rfl
@[simp] theorem modCluster_buckets (s : State) (k : Nat) (f : Cluster → Cluster) : (modCluster s k f).buckets = s.buckets := rfl
@[simp] theorem modCluster_runs (s : State) (k : Nat) (f : Cluster → Cluster) : (modCluster s k f).runs = s.runs := rfl
@[simp] theorem modCluster_utables (s : State) (k : Nat) (f : Cluster → Cluster) : (modCluster s k f).utables = s.utables := rfl
@[simp] theorem modCluster_heldSeq (s : State) (k : Nat) (f : Cluster → Cluster) : (modCluster s k f).heldSeq = s.heldSeq := rfl
@[simp] theorem modCluster_lpm (s : State) (k : Nat) (f : Cluster → Cluster) : (modCluster s k f).lpm = s.lpm := rfl
@[simp] theorem modCluster_fabricId (s : State) (k : Nat) (f : Cluster → Cluster) : (modCluster s k f).fabricId = s.fabricId := rfl
@[simp] theorem modCluster_ftime (s : State) (k : Nat) (f : Cluster → Cluster) : (modCluster s k f).ftime = s.ftime := rfl
@[simp] theorem modCluster_mbx (s : State) (k : Nat) (f : Cluster → Cluster) : (modCluster s k f).mbx = s.mbx := rfl
@[simp] theorem modCluster_sec (s : State) (k : Nat) (f : Cluster → Cluster) : (modCluster s k f).sec = s.sec := rfl
@[simp] theorem modCluster_pwr (s : State) (k : Nat) (f : Cluster → Cluster) : (modCluster s k f).pwr = s.pwr := rfl
@[simp] theorem modCluster_cic (s : State) (k : Nat) (f : Cluster → Cluster) : (modCluster s k f).cic = s.cic := rfl
@[simp] theorem modCluster_pkg (s : State) (k : Nat) (f : Cluster → Cluster) : (modCluster s k f).pkg = s.pkg := rfl
@[simp] theorem modCluster_fw (s : State) (k : Nat) (f : Cluster → Cluster) : (modCluster s k f).fw = s.fw := rfl

/-! ### setCells -/

@[simp] theorem setCells_pending (s : State) (m : List (Nat × Byte)) : (setCells s m).pending = s.pending := rfl
@[simp] theorem setCells_now (s : State) (m : List (Nat × Byte)) : (setCells s m).now = s.now := rfl
@[simp] theorem setCells_free (s : State) (m : List (Nat × Byte)) : (setCells s m).free = s.free := rfl
@[simp] theorem setCells_regs (s : State) (m : List (Nat × Byte)) : (setCells s m).regs = s.regs := rfl
@[simp] theorem setCells_cores (s : State) (m : List (Nat × Byte)) : (setCells s m).cores = s.cores := rfl
@[simp] theorem setCells_jobs (s : State) (m : List (Nat × Byte)) : (setCells s m).jobs = s.jobs := rfl
@[simp] theorem setCells_nextJob (s : State) (m : List (Nat × Byte)) : (setCells s m).nextJob = s.nextJob := rfl
@[simp] theorem setCells_sync (s : State) (m : List (Nat × Byte)) : (setCells s m).sync = s.sync := rfl
@[simp] theorem setCells_que (s : State) (m : List (Nat × Byte)) : (setCells s m).que = s.que := rfl
@[simp] theorem setCells_fab (s : State) (m : List (Nat × Byte)) : (setCells s m).fab = s.fab := rfl
@[simp] theorem setCells_err (s : State) (m : List (Nat × Byte)) : (setCells s m).err = s.err := rfl
@[simp] theorem setCells_trackers (s : State) (m : List (Nat × Byte)) : (setCells s m).trackers = s.trackers := rfl
@[simp] theorem setCells_regions (s : State) (m : List (Nat × Byte)) : (setCells s m).regions = s.regions := rfl
@[simp] theorem setCells_ctxs (s : State) (m : List (Nat × Byte)) : (setCells s m).ctxs = s.ctxs := rfl
@[simp] theorem setCells_kernels (s : State) (m : List (Nat × Byte)) : (setCells s m).kernels = s.kernels := rfl
@[simp] theorem setCells_ckpts (s : State) (m : List (Nat × Byte)) : (setCells s m).ckpts = s.ckpts := rfl
@[simp] theorem setCells_buckets (s : State) (m : List (Nat × Byte)) : (setCells s m).buckets = s.buckets := rfl
@[simp] theorem setCells_runs (s : State) (m : List (Nat × Byte)) : (setCells s m).runs = s.runs := rfl
@[simp] theorem setCells_utables (s : State) (m : List (Nat × Byte)) : (setCells s m).utables = s.utables := rfl
@[simp] theorem setCells_heldSeq (s : State) (m : List (Nat × Byte)) : (setCells s m).heldSeq = s.heldSeq := rfl
@[simp] theorem setCells_lpm (s : State) (m : List (Nat × Byte)) : (setCells s m).lpm = s.lpm := rfl
@[simp] theorem setCells_clusters (s : State) (m : List (Nat × Byte)) : (setCells s m).clusters = s.clusters := rfl
@[simp] theorem setCells_fabricId (s : State) (m : List (Nat × Byte)) : (setCells s m).fabricId = s.fabricId := rfl
@[simp] theorem setCells_ftime (s : State) (m : List (Nat × Byte)) : (setCells s m).ftime = s.ftime := rfl
@[simp] theorem setCells_mbx (s : State) (m : List (Nat × Byte)) : (setCells s m).mbx = s.mbx := rfl
@[simp] theorem setCells_sec (s : State) (m : List (Nat × Byte)) : (setCells s m).sec = s.sec := rfl
@[simp] theorem setCells_pwr (s : State) (m : List (Nat × Byte)) : (setCells s m).pwr = s.pwr := rfl
@[simp] theorem setCells_cic (s : State) (m : List (Nat × Byte)) : (setCells s m).cic = s.cic := rfl
@[simp] theorem setCells_pkg (s : State) (m : List (Nat × Byte)) : (setCells s m).pkg = s.pkg := rfl
@[simp] theorem setCells_fw (s : State) (m : List (Nat × Byte)) : (setCells s m).fw = s.fw := rfl

/-! ### memPut -/

@[simp] theorem memPut_pending (s : State) (a : Nat) (bs : List Byte) : (memPut s a bs).pending = s.pending := rfl
@[simp] theorem memPut_now (s : State) (a : Nat) (bs : List Byte) : (memPut s a bs).now = s.now := rfl
@[simp] theorem memPut_free (s : State) (a : Nat) (bs : List Byte) : (memPut s a bs).free = s.free := rfl
@[simp] theorem memPut_regs (s : State) (a : Nat) (bs : List Byte) : (memPut s a bs).regs = s.regs := rfl
@[simp] theorem memPut_cores (s : State) (a : Nat) (bs : List Byte) : (memPut s a bs).cores = s.cores := rfl
@[simp] theorem memPut_jobs (s : State) (a : Nat) (bs : List Byte) : (memPut s a bs).jobs = s.jobs := rfl
@[simp] theorem memPut_nextJob (s : State) (a : Nat) (bs : List Byte) : (memPut s a bs).nextJob = s.nextJob := rfl
@[simp] theorem memPut_sync (s : State) (a : Nat) (bs : List Byte) : (memPut s a bs).sync = s.sync := rfl
@[simp] theorem memPut_que (s : State) (a : Nat) (bs : List Byte) : (memPut s a bs).que = s.que := rfl
@[simp] theorem memPut_fab (s : State) (a : Nat) (bs : List Byte) : (memPut s a bs).fab = s.fab := rfl
@[simp] theorem memPut_err (s : State) (a : Nat) (bs : List Byte) : (memPut s a bs).err = s.err := rfl
@[simp] theorem memPut_trackers (s : State) (a : Nat) (bs : List Byte) : (memPut s a bs).trackers = s.trackers := rfl
@[simp] theorem memPut_regions (s : State) (a : Nat) (bs : List Byte) : (memPut s a bs).regions = s.regions := rfl
@[simp] theorem memPut_ctxs (s : State) (a : Nat) (bs : List Byte) : (memPut s a bs).ctxs = s.ctxs := rfl
@[simp] theorem memPut_kernels (s : State) (a : Nat) (bs : List Byte) : (memPut s a bs).kernels = s.kernels := rfl
@[simp] theorem memPut_ckpts (s : State) (a : Nat) (bs : List Byte) : (memPut s a bs).ckpts = s.ckpts := rfl
@[simp] theorem memPut_buckets (s : State) (a : Nat) (bs : List Byte) : (memPut s a bs).buckets = s.buckets := rfl
@[simp] theorem memPut_runs (s : State) (a : Nat) (bs : List Byte) : (memPut s a bs).runs = s.runs := rfl
@[simp] theorem memPut_utables (s : State) (a : Nat) (bs : List Byte) : (memPut s a bs).utables = s.utables := rfl
@[simp] theorem memPut_heldSeq (s : State) (a : Nat) (bs : List Byte) : (memPut s a bs).heldSeq = s.heldSeq := rfl
@[simp] theorem memPut_lpm (s : State) (a : Nat) (bs : List Byte) : (memPut s a bs).lpm = s.lpm := rfl
@[simp] theorem memPut_clusters (s : State) (a : Nat) (bs : List Byte) : (memPut s a bs).clusters = s.clusters := rfl
@[simp] theorem memPut_fabricId (s : State) (a : Nat) (bs : List Byte) : (memPut s a bs).fabricId = s.fabricId := rfl
@[simp] theorem memPut_ftime (s : State) (a : Nat) (bs : List Byte) : (memPut s a bs).ftime = s.ftime := rfl
@[simp] theorem memPut_mbx (s : State) (a : Nat) (bs : List Byte) : (memPut s a bs).mbx = s.mbx := rfl
@[simp] theorem memPut_sec (s : State) (a : Nat) (bs : List Byte) : (memPut s a bs).sec = s.sec := rfl
@[simp] theorem memPut_pwr (s : State) (a : Nat) (bs : List Byte) : (memPut s a bs).pwr = s.pwr := rfl
@[simp] theorem memPut_cic (s : State) (a : Nat) (bs : List Byte) : (memPut s a bs).cic = s.cic := rfl
@[simp] theorem memPut_pkg (s : State) (a : Nat) (bs : List Byte) : (memPut s a bs).pkg = s.pkg := rfl
@[simp] theorem memPut_fw (s : State) (a : Nat) (bs : List Byte) : (memPut s a bs).fw = s.fw := rfl

/-! ### setObj -/

@[simp] theorem setObj_pending (s : State) (p : Nat) (o : SyncObj) : (setObj s p o).pending = s.pending := rfl
@[simp] theorem setObj_now (s : State) (p : Nat) (o : SyncObj) : (setObj s p o).now = s.now := rfl
@[simp] theorem setObj_free (s : State) (p : Nat) (o : SyncObj) : (setObj s p o).free = s.free := rfl
@[simp] theorem setObj_regs (s : State) (p : Nat) (o : SyncObj) : (setObj s p o).regs = s.regs := rfl
@[simp] theorem setObj_cores (s : State) (p : Nat) (o : SyncObj) : (setObj s p o).cores = s.cores := rfl
@[simp] theorem setObj_mem (s : State) (p : Nat) (o : SyncObj) : (setObj s p o).mem = s.mem := rfl
@[simp] theorem setObj_jobs (s : State) (p : Nat) (o : SyncObj) : (setObj s p o).jobs = s.jobs := rfl
@[simp] theorem setObj_nextJob (s : State) (p : Nat) (o : SyncObj) : (setObj s p o).nextJob = s.nextJob := rfl
@[simp] theorem setObj_que (s : State) (p : Nat) (o : SyncObj) : (setObj s p o).que = s.que := rfl
@[simp] theorem setObj_fab (s : State) (p : Nat) (o : SyncObj) : (setObj s p o).fab = s.fab := rfl
@[simp] theorem setObj_err (s : State) (p : Nat) (o : SyncObj) : (setObj s p o).err = s.err := rfl
@[simp] theorem setObj_trackers (s : State) (p : Nat) (o : SyncObj) : (setObj s p o).trackers = s.trackers := rfl
@[simp] theorem setObj_regions (s : State) (p : Nat) (o : SyncObj) : (setObj s p o).regions = s.regions := rfl
@[simp] theorem setObj_ctxs (s : State) (p : Nat) (o : SyncObj) : (setObj s p o).ctxs = s.ctxs := rfl
@[simp] theorem setObj_kernels (s : State) (p : Nat) (o : SyncObj) : (setObj s p o).kernels = s.kernels := rfl
@[simp] theorem setObj_ckpts (s : State) (p : Nat) (o : SyncObj) : (setObj s p o).ckpts = s.ckpts := rfl
@[simp] theorem setObj_buckets (s : State) (p : Nat) (o : SyncObj) : (setObj s p o).buckets = s.buckets := rfl
@[simp] theorem setObj_runs (s : State) (p : Nat) (o : SyncObj) : (setObj s p o).runs = s.runs := rfl
@[simp] theorem setObj_utables (s : State) (p : Nat) (o : SyncObj) : (setObj s p o).utables = s.utables := rfl
@[simp] theorem setObj_heldSeq (s : State) (p : Nat) (o : SyncObj) : (setObj s p o).heldSeq = s.heldSeq := rfl
@[simp] theorem setObj_lpm (s : State) (p : Nat) (o : SyncObj) : (setObj s p o).lpm = s.lpm := rfl
@[simp] theorem setObj_clusters (s : State) (p : Nat) (o : SyncObj) : (setObj s p o).clusters = s.clusters := rfl
@[simp] theorem setObj_fabricId (s : State) (p : Nat) (o : SyncObj) : (setObj s p o).fabricId = s.fabricId := rfl
@[simp] theorem setObj_ftime (s : State) (p : Nat) (o : SyncObj) : (setObj s p o).ftime = s.ftime := rfl
@[simp] theorem setObj_mbx (s : State) (p : Nat) (o : SyncObj) : (setObj s p o).mbx = s.mbx := rfl
@[simp] theorem setObj_sec (s : State) (p : Nat) (o : SyncObj) : (setObj s p o).sec = s.sec := rfl
@[simp] theorem setObj_pwr (s : State) (p : Nat) (o : SyncObj) : (setObj s p o).pwr = s.pwr := rfl
@[simp] theorem setObj_cic (s : State) (p : Nat) (o : SyncObj) : (setObj s p o).cic = s.cic := rfl
@[simp] theorem setObj_pkg (s : State) (p : Nat) (o : SyncObj) : (setObj s p o).pkg = s.pkg := rfl
@[simp] theorem setObj_fw (s : State) (p : Nat) (o : SyncObj) : (setObj s p o).fw = s.fw := rfl

/-! ### syncSend -/

@[simp] theorem syncSend_pending (s : State) (m : SyncMsg) : (syncSend s m).pending = s.pending := rfl
@[simp] theorem syncSend_now (s : State) (m : SyncMsg) : (syncSend s m).now = s.now := rfl
@[simp] theorem syncSend_free (s : State) (m : SyncMsg) : (syncSend s m).free = s.free := rfl
@[simp] theorem syncSend_regs (s : State) (m : SyncMsg) : (syncSend s m).regs = s.regs := rfl
@[simp] theorem syncSend_cores (s : State) (m : SyncMsg) : (syncSend s m).cores = s.cores := rfl
@[simp] theorem syncSend_mem (s : State) (m : SyncMsg) : (syncSend s m).mem = s.mem := rfl
@[simp] theorem syncSend_jobs (s : State) (m : SyncMsg) : (syncSend s m).jobs = s.jobs := rfl
@[simp] theorem syncSend_nextJob (s : State) (m : SyncMsg) : (syncSend s m).nextJob = s.nextJob := rfl
@[simp] theorem syncSend_que (s : State) (m : SyncMsg) : (syncSend s m).que = s.que := rfl
@[simp] theorem syncSend_fab (s : State) (m : SyncMsg) : (syncSend s m).fab = s.fab := rfl
@[simp] theorem syncSend_err (s : State) (m : SyncMsg) : (syncSend s m).err = s.err := rfl
@[simp] theorem syncSend_trackers (s : State) (m : SyncMsg) : (syncSend s m).trackers = s.trackers := rfl
@[simp] theorem syncSend_regions (s : State) (m : SyncMsg) : (syncSend s m).regions = s.regions := rfl
@[simp] theorem syncSend_ctxs (s : State) (m : SyncMsg) : (syncSend s m).ctxs = s.ctxs := rfl
@[simp] theorem syncSend_kernels (s : State) (m : SyncMsg) : (syncSend s m).kernels = s.kernels := rfl
@[simp] theorem syncSend_ckpts (s : State) (m : SyncMsg) : (syncSend s m).ckpts = s.ckpts := rfl
@[simp] theorem syncSend_buckets (s : State) (m : SyncMsg) : (syncSend s m).buckets = s.buckets := rfl
@[simp] theorem syncSend_runs (s : State) (m : SyncMsg) : (syncSend s m).runs = s.runs := rfl
@[simp] theorem syncSend_utables (s : State) (m : SyncMsg) : (syncSend s m).utables = s.utables := rfl
@[simp] theorem syncSend_heldSeq (s : State) (m : SyncMsg) : (syncSend s m).heldSeq = s.heldSeq := rfl
@[simp] theorem syncSend_lpm (s : State) (m : SyncMsg) : (syncSend s m).lpm = s.lpm := rfl
@[simp] theorem syncSend_clusters (s : State) (m : SyncMsg) : (syncSend s m).clusters = s.clusters := rfl
@[simp] theorem syncSend_fabricId (s : State) (m : SyncMsg) : (syncSend s m).fabricId = s.fabricId := rfl
@[simp] theorem syncSend_ftime (s : State) (m : SyncMsg) : (syncSend s m).ftime = s.ftime := rfl
@[simp] theorem syncSend_mbx (s : State) (m : SyncMsg) : (syncSend s m).mbx = s.mbx := rfl
@[simp] theorem syncSend_sec (s : State) (m : SyncMsg) : (syncSend s m).sec = s.sec := rfl
@[simp] theorem syncSend_pwr (s : State) (m : SyncMsg) : (syncSend s m).pwr = s.pwr := rfl
@[simp] theorem syncSend_cic (s : State) (m : SyncMsg) : (syncSend s m).cic = s.cic := rfl
@[simp] theorem syncSend_pkg (s : State) (m : SyncMsg) : (syncSend s m).pkg = s.pkg := rfl
@[simp] theorem syncSend_fw (s : State) (m : SyncMsg) : (syncSend s m).fw = s.fw := rfl

/-! ### raiseMsix -/

@[simp] theorem raiseMsix_pending (s : State) (v : Nat) : (raiseMsix s v).pending = s.pending := rfl
@[simp] theorem raiseMsix_now (s : State) (v : Nat) : (raiseMsix s v).now = s.now := rfl
@[simp] theorem raiseMsix_free (s : State) (v : Nat) : (raiseMsix s v).free = s.free := rfl
@[simp] theorem raiseMsix_regs (s : State) (v : Nat) : (raiseMsix s v).regs = s.regs := rfl
@[simp] theorem raiseMsix_cores (s : State) (v : Nat) : (raiseMsix s v).cores = s.cores := rfl
@[simp] theorem raiseMsix_mem (s : State) (v : Nat) : (raiseMsix s v).mem = s.mem := rfl
@[simp] theorem raiseMsix_jobs (s : State) (v : Nat) : (raiseMsix s v).jobs = s.jobs := rfl
@[simp] theorem raiseMsix_nextJob (s : State) (v : Nat) : (raiseMsix s v).nextJob = s.nextJob := rfl
@[simp] theorem raiseMsix_sync (s : State) (v : Nat) : (raiseMsix s v).sync = s.sync := rfl
@[simp] theorem raiseMsix_fab (s : State) (v : Nat) : (raiseMsix s v).fab = s.fab := rfl
@[simp] theorem raiseMsix_err (s : State) (v : Nat) : (raiseMsix s v).err = s.err := rfl
@[simp] theorem raiseMsix_trackers (s : State) (v : Nat) : (raiseMsix s v).trackers = s.trackers := rfl
@[simp] theorem raiseMsix_regions (s : State) (v : Nat) : (raiseMsix s v).regions = s.regions := rfl
@[simp] theorem raiseMsix_ctxs (s : State) (v : Nat) : (raiseMsix s v).ctxs = s.ctxs := rfl
@[simp] theorem raiseMsix_kernels (s : State) (v : Nat) : (raiseMsix s v).kernels = s.kernels := rfl
@[simp] theorem raiseMsix_ckpts (s : State) (v : Nat) : (raiseMsix s v).ckpts = s.ckpts := rfl
@[simp] theorem raiseMsix_buckets (s : State) (v : Nat) : (raiseMsix s v).buckets = s.buckets := rfl
@[simp] theorem raiseMsix_runs (s : State) (v : Nat) : (raiseMsix s v).runs = s.runs := rfl
@[simp] theorem raiseMsix_utables (s : State) (v : Nat) : (raiseMsix s v).utables = s.utables := rfl
@[simp] theorem raiseMsix_heldSeq (s : State) (v : Nat) : (raiseMsix s v).heldSeq = s.heldSeq := rfl
@[simp] theorem raiseMsix_lpm (s : State) (v : Nat) : (raiseMsix s v).lpm = s.lpm := rfl
@[simp] theorem raiseMsix_clusters (s : State) (v : Nat) : (raiseMsix s v).clusters = s.clusters := rfl
@[simp] theorem raiseMsix_fabricId (s : State) (v : Nat) : (raiseMsix s v).fabricId = s.fabricId := rfl
@[simp] theorem raiseMsix_ftime (s : State) (v : Nat) : (raiseMsix s v).ftime = s.ftime := rfl
@[simp] theorem raiseMsix_mbx (s : State) (v : Nat) : (raiseMsix s v).mbx = s.mbx := rfl
@[simp] theorem raiseMsix_sec (s : State) (v : Nat) : (raiseMsix s v).sec = s.sec := rfl
@[simp] theorem raiseMsix_pwr (s : State) (v : Nat) : (raiseMsix s v).pwr = s.pwr := rfl
@[simp] theorem raiseMsix_cic (s : State) (v : Nat) : (raiseMsix s v).cic = s.cic := rfl
@[simp] theorem raiseMsix_pkg (s : State) (v : Nat) : (raiseMsix s v).pkg = s.pkg := rfl
@[simp] theorem raiseMsix_fw (s : State) (v : Nat) : (raiseMsix s v).fw = s.fw := rfl

/-! ### fabEnter -/

@[simp] theorem fabEnter_pending (s : State) (l : List OutTxn) : (fabEnter s l).pending = s.pending := rfl
@[simp] theorem fabEnter_now (s : State) (l : List OutTxn) : (fabEnter s l).now = s.now := rfl
@[simp] theorem fabEnter_free (s : State) (l : List OutTxn) : (fabEnter s l).free = s.free := rfl
@[simp] theorem fabEnter_regs (s : State) (l : List OutTxn) : (fabEnter s l).regs = s.regs := rfl
@[simp] theorem fabEnter_cores (s : State) (l : List OutTxn) : (fabEnter s l).cores = s.cores := rfl
@[simp] theorem fabEnter_mem (s : State) (l : List OutTxn) : (fabEnter s l).mem = s.mem := rfl
@[simp] theorem fabEnter_jobs (s : State) (l : List OutTxn) : (fabEnter s l).jobs = s.jobs := rfl
@[simp] theorem fabEnter_nextJob (s : State) (l : List OutTxn) : (fabEnter s l).nextJob = s.nextJob := rfl
@[simp] theorem fabEnter_sync (s : State) (l : List OutTxn) : (fabEnter s l).sync = s.sync := rfl
@[simp] theorem fabEnter_que (s : State) (l : List OutTxn) : (fabEnter s l).que = s.que := rfl
@[simp] theorem fabEnter_err (s : State) (l : List OutTxn) : (fabEnter s l).err = s.err := rfl
@[simp] theorem fabEnter_trackers (s : State) (l : List OutTxn) : (fabEnter s l).trackers = s.trackers := rfl
@[simp] theorem fabEnter_regions (s : State) (l : List OutTxn) : (fabEnter s l).regions = s.regions := rfl
@[simp] theorem fabEnter_ctxs (s : State) (l : List OutTxn) : (fabEnter s l).ctxs = s.ctxs := rfl
@[simp] theorem fabEnter_kernels (s : State) (l : List OutTxn) : (fabEnter s l).kernels = s.kernels := rfl
@[simp] theorem fabEnter_ckpts (s : State) (l : List OutTxn) : (fabEnter s l).ckpts = s.ckpts := rfl
@[simp] theorem fabEnter_buckets (s : State) (l : List OutTxn) : (fabEnter s l).buckets = s.buckets := rfl
@[simp] theorem fabEnter_runs (s : State) (l : List OutTxn) : (fabEnter s l).runs = s.runs := rfl
@[simp] theorem fabEnter_utables (s : State) (l : List OutTxn) : (fabEnter s l).utables = s.utables := rfl
@[simp] theorem fabEnter_heldSeq (s : State) (l : List OutTxn) : (fabEnter s l).heldSeq = s.heldSeq := rfl
@[simp] theorem fabEnter_lpm (s : State) (l : List OutTxn) : (fabEnter s l).lpm = s.lpm := rfl
@[simp] theorem fabEnter_clusters (s : State) (l : List OutTxn) : (fabEnter s l).clusters = s.clusters := rfl
@[simp] theorem fabEnter_fabricId (s : State) (l : List OutTxn) : (fabEnter s l).fabricId = s.fabricId := rfl
@[simp] theorem fabEnter_ftime (s : State) (l : List OutTxn) : (fabEnter s l).ftime = s.ftime := rfl
@[simp] theorem fabEnter_mbx (s : State) (l : List OutTxn) : (fabEnter s l).mbx = s.mbx := rfl
@[simp] theorem fabEnter_sec (s : State) (l : List OutTxn) : (fabEnter s l).sec = s.sec := rfl
@[simp] theorem fabEnter_pwr (s : State) (l : List OutTxn) : (fabEnter s l).pwr = s.pwr := rfl
@[simp] theorem fabEnter_cic (s : State) (l : List OutTxn) : (fabEnter s l).cic = s.cic := rfl
@[simp] theorem fabEnter_pkg (s : State) (l : List OutTxn) : (fabEnter s l).pkg = s.pkg := rfl
@[simp] theorem fabEnter_fw (s : State) (l : List OutTxn) : (fabEnter s l).fw = s.fw := rfl

/-! ### modConn -/

@[simp] theorem modConn_pending (s : State) (p : Nat) (f : Conn → Conn) : (modConn s p f).pending = s.pending := rfl
@[simp] theorem modConn_now (s : State) (p : Nat) (f : Conn → Conn) : (modConn s p f).now = s.now := rfl
@[simp] theorem modConn_free (s : State) (p : Nat) (f : Conn → Conn) : (modConn s p f).free = s.free := rfl
@[simp] theorem modConn_regs (s : State) (p : Nat) (f : Conn → Conn) : (modConn s p f).regs = s.regs := rfl
@[simp] theorem modConn_cores (s : State) (p : Nat) (f : Conn → Conn) : (modConn s p f).cores = s.cores := rfl
@[simp] theorem modConn_mem (s : State) (p : Nat) (f : Conn → Conn) : (modConn s p f).mem = s.mem := rfl
@[simp] theorem modConn_jobs (s : State) (p : Nat) (f : Conn → Conn) : (modConn s p f).jobs = s.jobs := rfl
@[simp] theorem modConn_nextJob (s : State) (p : Nat) (f : Conn → Conn) : (modConn s p f).nextJob = s.nextJob := rfl
@[simp] theorem modConn_sync (s : State) (p : Nat) (f : Conn → Conn) : (modConn s p f).sync = s.sync := rfl
@[simp] theorem modConn_que (s : State) (p : Nat) (f : Conn → Conn) : (modConn s p f).que = s.que := rfl
@[simp] theorem modConn_err (s : State) (p : Nat) (f : Conn → Conn) : (modConn s p f).err = s.err := rfl
@[simp] theorem modConn_trackers (s : State) (p : Nat) (f : Conn → Conn) : (modConn s p f).trackers = s.trackers := rfl
@[simp] theorem modConn_regions (s : State) (p : Nat) (f : Conn → Conn) : (modConn s p f).regions = s.regions := rfl
@[simp] theorem modConn_ctxs (s : State) (p : Nat) (f : Conn → Conn) : (modConn s p f).ctxs = s.ctxs := rfl
@[simp] theorem modConn_kernels (s : State) (p : Nat) (f : Conn → Conn) : (modConn s p f).kernels = s.kernels := rfl
@[simp] theorem modConn_ckpts (s : State) (p : Nat) (f : Conn → Conn) : (modConn s p f).ckpts = s.ckpts := rfl
@[simp] theorem modConn_buckets (s : State) (p : Nat) (f : Conn → Conn) : (modConn s p f).buckets = s.buckets := rfl
@[simp] theorem modConn_runs (s : State) (p : Nat) (f : Conn → Conn) : (modConn s p f).runs = s.runs := rfl
@[simp] theorem modConn_utables (s : State) (p : Nat) (f : Conn → Conn) : (modConn s p f).utables = s.utables := rfl
@[simp] theorem modConn_heldSeq (s : State) (p : Nat) (f : Conn → Conn) : (modConn s p f).heldSeq = s.heldSeq := rfl
@[simp] theorem modConn_lpm (s : State) (p : Nat) (f : Conn → Conn) : (modConn s p f).lpm = s.lpm := rfl
@[simp] theorem modConn_clusters (s : State) (p : Nat) (f : Conn → Conn) : (modConn s p f).clusters = s.clusters := rfl
@[simp] theorem modConn_fabricId (s : State) (p : Nat) (f : Conn → Conn) : (modConn s p f).fabricId = s.fabricId := rfl
@[simp] theorem modConn_ftime (s : State) (p : Nat) (f : Conn → Conn) : (modConn s p f).ftime = s.ftime := rfl
@[simp] theorem modConn_mbx (s : State) (p : Nat) (f : Conn → Conn) : (modConn s p f).mbx = s.mbx := rfl
@[simp] theorem modConn_sec (s : State) (p : Nat) (f : Conn → Conn) : (modConn s p f).sec = s.sec := rfl
@[simp] theorem modConn_pwr (s : State) (p : Nat) (f : Conn → Conn) : (modConn s p f).pwr = s.pwr := rfl
@[simp] theorem modConn_cic (s : State) (p : Nat) (f : Conn → Conn) : (modConn s p f).cic = s.cic := rfl
@[simp] theorem modConn_pkg (s : State) (p : Nat) (f : Conn → Conn) : (modConn s p f).pkg = s.pkg := rfl
@[simp] theorem modConn_fw (s : State) (p : Nat) (f : Conn → Conn) : (modConn s p f).fw = s.fw := rfl

/-! ### setPort -/

@[simp] theorem setPort_pending (s : State) (p : Nat) (x : Port) : (setPort s p x).pending = s.pending := rfl
@[simp] theorem setPort_now (s : State) (p : Nat) (x : Port) : (setPort s p x).now = s.now := rfl
@[simp] theorem setPort_free (s : State) (p : Nat) (x : Port) : (setPort s p x).free = s.free := rfl
@[simp] theorem setPort_regs (s : State) (p : Nat) (x : Port) : (setPort s p x).regs = s.regs := rfl
@[simp] theorem setPort_cores (s : State) (p : Nat) (x : Port) : (setPort s p x).cores = s.cores := rfl
@[simp] theorem setPort_mem (s : State) (p : Nat) (x : Port) : (setPort s p x).mem = s.mem := rfl
@[simp] theorem setPort_jobs (s : State) (p : Nat) (x : Port) : (setPort s p x).jobs = s.jobs := rfl
@[simp] theorem setPort_nextJob (s : State) (p : Nat) (x : Port) : (setPort s p x).nextJob = s.nextJob := rfl
@[simp] theorem setPort_sync (s : State) (p : Nat) (x : Port) : (setPort s p x).sync = s.sync := rfl
@[simp] theorem setPort_que (s : State) (p : Nat) (x : Port) : (setPort s p x).que = s.que := rfl
@[simp] theorem setPort_err (s : State) (p : Nat) (x : Port) : (setPort s p x).err = s.err := rfl
@[simp] theorem setPort_trackers (s : State) (p : Nat) (x : Port) : (setPort s p x).trackers = s.trackers := rfl
@[simp] theorem setPort_regions (s : State) (p : Nat) (x : Port) : (setPort s p x).regions = s.regions := rfl
@[simp] theorem setPort_ctxs (s : State) (p : Nat) (x : Port) : (setPort s p x).ctxs = s.ctxs := rfl
@[simp] theorem setPort_kernels (s : State) (p : Nat) (x : Port) : (setPort s p x).kernels = s.kernels := rfl
@[simp] theorem setPort_ckpts (s : State) (p : Nat) (x : Port) : (setPort s p x).ckpts = s.ckpts := rfl
@[simp] theorem setPort_buckets (s : State) (p : Nat) (x : Port) : (setPort s p x).buckets = s.buckets := rfl
@[simp] theorem setPort_runs (s : State) (p : Nat) (x : Port) : (setPort s p x).runs = s.runs := rfl
@[simp] theorem setPort_utables (s : State) (p : Nat) (x : Port) : (setPort s p x).utables = s.utables := rfl
@[simp] theorem setPort_heldSeq (s : State) (p : Nat) (x : Port) : (setPort s p x).heldSeq = s.heldSeq := rfl
@[simp] theorem setPort_lpm (s : State) (p : Nat) (x : Port) : (setPort s p x).lpm = s.lpm := rfl
@[simp] theorem setPort_clusters (s : State) (p : Nat) (x : Port) : (setPort s p x).clusters = s.clusters := rfl
@[simp] theorem setPort_fabricId (s : State) (p : Nat) (x : Port) : (setPort s p x).fabricId = s.fabricId := rfl
@[simp] theorem setPort_ftime (s : State) (p : Nat) (x : Port) : (setPort s p x).ftime = s.ftime := rfl
@[simp] theorem setPort_mbx (s : State) (p : Nat) (x : Port) : (setPort s p x).mbx = s.mbx := rfl
@[simp] theorem setPort_sec (s : State) (p : Nat) (x : Port) : (setPort s p x).sec = s.sec := rfl
@[simp] theorem setPort_pwr (s : State) (p : Nat) (x : Port) : (setPort s p x).pwr = s.pwr := rfl
@[simp] theorem setPort_cic (s : State) (p : Nat) (x : Port) : (setPort s p x).cic = s.cic := rfl
@[simp] theorem setPort_pkg (s : State) (p : Nat) (x : Port) : (setPort s p x).pkg = s.pkg := rfl
@[simp] theorem setPort_fw (s : State) (p : Nat) (x : Port) : (setPort s p x).fw = s.fw := rfl

/-! ### modMbx -/

@[simp] theorem modMbx_pending (s : State) (m : Nat) (f : Mbx → Mbx) : (modMbx s m f).pending = s.pending := rfl
@[simp] theorem modMbx_now (s : State) (m : Nat) (f : Mbx → Mbx) : (modMbx s m f).now = s.now := rfl
@[simp] theorem modMbx_free (s : State) (m : Nat) (f : Mbx → Mbx) : (modMbx s m f).free = s.free := rfl
@[simp] theorem modMbx_regs (s : State) (m : Nat) (f : Mbx → Mbx) : (modMbx s m f).regs = s.regs := rfl
@[simp] theorem modMbx_cores (s : State) (m : Nat) (f : Mbx → Mbx) : (modMbx s m f).cores = s.cores := rfl
@[simp] theorem modMbx_mem (s : State) (m : Nat) (f : Mbx → Mbx) : (modMbx s m f).mem = s.mem := rfl
@[simp] theorem modMbx_jobs (s : State) (m : Nat) (f : Mbx → Mbx) : (modMbx s m f).jobs = s.jobs := rfl
@[simp] theorem modMbx_nextJob (s : State) (m : Nat) (f : Mbx → Mbx) : (modMbx s m f).nextJob = s.nextJob := rfl
@[simp] theorem modMbx_sync (s : State) (m : Nat) (f : Mbx → Mbx) : (modMbx s m f).sync = s.sync := rfl
@[simp] theorem modMbx_que (s : State) (m : Nat) (f : Mbx → Mbx) : (modMbx s m f).que = s.que := rfl
@[simp] theorem modMbx_fab (s : State) (m : Nat) (f : Mbx → Mbx) : (modMbx s m f).fab = s.fab := rfl
@[simp] theorem modMbx_err (s : State) (m : Nat) (f : Mbx → Mbx) : (modMbx s m f).err = s.err := rfl
@[simp] theorem modMbx_trackers (s : State) (m : Nat) (f : Mbx → Mbx) : (modMbx s m f).trackers = s.trackers := rfl
@[simp] theorem modMbx_regions (s : State) (m : Nat) (f : Mbx → Mbx) : (modMbx s m f).regions = s.regions := rfl
@[simp] theorem modMbx_ctxs (s : State) (m : Nat) (f : Mbx → Mbx) : (modMbx s m f).ctxs = s.ctxs := rfl
@[simp] theorem modMbx_kernels (s : State) (m : Nat) (f : Mbx → Mbx) : (modMbx s m f).kernels = s.kernels := rfl
@[simp] theorem modMbx_ckpts (s : State) (m : Nat) (f : Mbx → Mbx) : (modMbx s m f).ckpts = s.ckpts := rfl
@[simp] theorem modMbx_buckets (s : State) (m : Nat) (f : Mbx → Mbx) : (modMbx s m f).buckets = s.buckets := rfl
@[simp] theorem modMbx_runs (s : State) (m : Nat) (f : Mbx → Mbx) : (modMbx s m f).runs = s.runs := rfl
@[simp] theorem modMbx_utables (s : State) (m : Nat) (f : Mbx → Mbx) : (modMbx s m f).utables = s.utables := rfl
@[simp] theorem modMbx_heldSeq (s : State) (m : Nat) (f : Mbx → Mbx) : (modMbx s m f).heldSeq = s.heldSeq := rfl
@[simp] theorem modMbx_lpm (s : State) (m : Nat) (f : Mbx → Mbx) : (modMbx s m f).lpm = s.lpm := rfl
@[simp] theorem modMbx_clusters (s : State) (m : Nat) (f : Mbx → Mbx) : (modMbx s m f).clusters = s.clusters := rfl
@[simp] theorem modMbx_fabricId (s : State) (m : Nat) (f : Mbx → Mbx) : (modMbx s m f).fabricId = s.fabricId := rfl
@[simp] theorem modMbx_ftime (s : State) (m : Nat) (f : Mbx → Mbx) : (modMbx s m f).ftime = s.ftime := rfl
@[simp] theorem modMbx_sec (s : State) (m : Nat) (f : Mbx → Mbx) : (modMbx s m f).sec = s.sec := rfl
@[simp] theorem modMbx_pwr (s : State) (m : Nat) (f : Mbx → Mbx) : (modMbx s m f).pwr = s.pwr := rfl
@[simp] theorem modMbx_cic (s : State) (m : Nat) (f : Mbx → Mbx) : (modMbx s m f).cic = s.cic := rfl
@[simp] theorem modMbx_pkg (s : State) (m : Nat) (f : Mbx → Mbx) : (modMbx s m f).pkg = s.pkg := rfl
@[simp] theorem modMbx_fw (s : State) (m : Nat) (f : Mbx → Mbx) : (modMbx s m f).fw = s.fw := rfl

/-! ### setBucket -/

@[simp] theorem setBucket_pending (s : State) (b : Nat) (k : Bucket) : (setBucket s b k).pending = s.pending := rfl
@[simp] theorem setBucket_now (s : State) (b : Nat) (k : Bucket) : (setBucket s b k).now = s.now := rfl
@[simp] theorem setBucket_free (s : State) (b : Nat) (k : Bucket) : (setBucket s b k).free = s.free := rfl
@[simp] theorem setBucket_regs (s : State) (b : Nat) (k : Bucket) : (setBucket s b k).regs = s.regs := rfl
@[simp] theorem setBucket_cores (s : State) (b : Nat) (k : Bucket) : (setBucket s b k).cores = s.cores := rfl
@[simp] theorem setBucket_mem (s : State) (b : Nat) (k : Bucket) : (setBucket s b k).mem = s.mem := rfl
@[simp] theorem setBucket_jobs (s : State) (b : Nat) (k : Bucket) : (setBucket s b k).jobs = s.jobs := rfl
@[simp] theorem setBucket_nextJob (s : State) (b : Nat) (k : Bucket) : (setBucket s b k).nextJob = s.nextJob := rfl
@[simp] theorem setBucket_sync (s : State) (b : Nat) (k : Bucket) : (setBucket s b k).sync = s.sync := rfl
@[simp] theorem setBucket_que (s : State) (b : Nat) (k : Bucket) : (setBucket s b k).que = s.que := rfl
@[simp] theorem setBucket_fab (s : State) (b : Nat) (k : Bucket) : (setBucket s b k).fab = s.fab := rfl
@[simp] theorem setBucket_err (s : State) (b : Nat) (k : Bucket) : (setBucket s b k).err = s.err := rfl
@[simp] theorem setBucket_trackers (s : State) (b : Nat) (k : Bucket) : (setBucket s b k).trackers = s.trackers := rfl
@[simp] theorem setBucket_regions (s : State) (b : Nat) (k : Bucket) : (setBucket s b k).regions = s.regions := rfl
@[simp] theorem setBucket_ctxs (s : State) (b : Nat) (k : Bucket) : (setBucket s b k).ctxs = s.ctxs := rfl
@[simp] theorem setBucket_kernels (s : State) (b : Nat) (k : Bucket) : (setBucket s b k).kernels = s.kernels := rfl
@[simp] theorem setBucket_ckpts (s : State) (b : Nat) (k : Bucket) : (setBucket s b k).ckpts = s.ckpts := rfl
@[simp] theorem setBucket_runs (s : State) (b : Nat) (k : Bucket) : (setBucket s b k).runs = s.runs := rfl
@[simp] theorem setBucket_utables (s : State) (b : Nat) (k : Bucket) : (setBucket s b k).utables = s.utables := rfl
@[simp] theorem setBucket_heldSeq (s : State) (b : Nat) (k : Bucket) : (setBucket s b k).heldSeq = s.heldSeq := rfl
@[simp] theorem setBucket_lpm (s : State) (b : Nat) (k : Bucket) : (setBucket s b k).lpm = s.lpm := rfl
@[simp] theorem setBucket_clusters (s : State) (b : Nat) (k : Bucket) : (setBucket s b k).clusters = s.clusters := rfl
@[simp] theorem setBucket_fabricId (s : State) (b : Nat) (k : Bucket) : (setBucket s b k).fabricId = s.fabricId := rfl
@[simp] theorem setBucket_ftime (s : State) (b : Nat) (k : Bucket) : (setBucket s b k).ftime = s.ftime := rfl
@[simp] theorem setBucket_mbx (s : State) (b : Nat) (k : Bucket) : (setBucket s b k).mbx = s.mbx := rfl
@[simp] theorem setBucket_sec (s : State) (b : Nat) (k : Bucket) : (setBucket s b k).sec = s.sec := rfl
@[simp] theorem setBucket_pwr (s : State) (b : Nat) (k : Bucket) : (setBucket s b k).pwr = s.pwr := rfl
@[simp] theorem setBucket_cic (s : State) (b : Nat) (k : Bucket) : (setBucket s b k).cic = s.cic := rfl
@[simp] theorem setBucket_pkg (s : State) (b : Nat) (k : Bucket) : (setBucket s b k).pkg = s.pkg := rfl
@[simp] theorem setBucket_fw (s : State) (b : Nat) (k : Bucket) : (setBucket s b k).fw = s.fw := rfl

/-! ### setRun -/

@[simp] theorem setRun_pending (s : State) (r : Nat) (u : URun) : (setRun s r u).pending = s.pending := rfl
@[simp] theorem setRun_now (s : State) (r : Nat) (u : URun) : (setRun s r u).now = s.now := rfl
@[simp] theorem setRun_free (s : State) (r : Nat) (u : URun) : (setRun s r u).free = s.free := rfl
@[simp] theorem setRun_regs (s : State) (r : Nat) (u : URun) : (setRun s r u).regs = s.regs := rfl
@[simp] theorem setRun_cores (s : State) (r : Nat) (u : URun) : (setRun s r u).cores = s.cores := rfl
@[simp] theorem setRun_mem (s : State) (r : Nat) (u : URun) : (setRun s r u).mem = s.mem := rfl
@[simp] theorem setRun_jobs (s : State) (r : Nat) (u : URun) : (setRun s r u).jobs = s.jobs := rfl
@[simp] theorem setRun_nextJob (s : State) (r : Nat) (u : URun) : (setRun s r u).nextJob = s.nextJob := rfl
@[simp] theorem setRun_sync (s : State) (r : Nat) (u : URun) : (setRun s r u).sync = s.sync := rfl
@[simp] theorem setRun_que (s : State) (r : Nat) (u : URun) : (setRun s r u).que = s.que := rfl
@[simp] theorem setRun_fab (s : State) (r : Nat) (u : URun) : (setRun s r u).fab = s.fab := rfl
@[simp] theorem setRun_err (s : State) (r : Nat) (u : URun) : (setRun s r u).err = s.err := rfl
@[simp] theorem setRun_trackers (s : State) (r : Nat) (u : URun) : (setRun s r u).trackers = s.trackers := rfl
@[simp] theorem setRun_regions (s : State) (r : Nat) (u : URun) : (setRun s r u).regions = s.regions := rfl
@[simp] theorem setRun_ctxs (s : State) (r : Nat) (u : URun) : (setRun s r u).ctxs = s.ctxs := rfl
@[simp] theorem setRun_kernels (s : State) (r : Nat) (u : URun) : (setRun s r u).kernels = s.kernels := rfl
@[simp] theorem setRun_ckpts (s : State) (r : Nat) (u : URun) : (setRun s r u).ckpts = s.ckpts := rfl
@[simp] theorem setRun_buckets (s : State) (r : Nat) (u : URun) : (setRun s r u).buckets = s.buckets := rfl
@[simp] theorem setRun_utables (s : State) (r : Nat) (u : URun) : (setRun s r u).utables = s.utables := rfl
@[simp] theorem setRun_heldSeq (s : State) (r : Nat) (u : URun) : (setRun s r u).heldSeq = s.heldSeq := rfl
@[simp] theorem setRun_lpm (s : State) (r : Nat) (u : URun) : (setRun s r u).lpm = s.lpm := rfl
@[simp] theorem setRun_clusters (s : State) (r : Nat) (u : URun) : (setRun s r u).clusters = s.clusters := rfl
@[simp] theorem setRun_fabricId (s : State) (r : Nat) (u : URun) : (setRun s r u).fabricId = s.fabricId := rfl
@[simp] theorem setRun_ftime (s : State) (r : Nat) (u : URun) : (setRun s r u).ftime = s.ftime := rfl
@[simp] theorem setRun_mbx (s : State) (r : Nat) (u : URun) : (setRun s r u).mbx = s.mbx := rfl
@[simp] theorem setRun_sec (s : State) (r : Nat) (u : URun) : (setRun s r u).sec = s.sec := rfl
@[simp] theorem setRun_pwr (s : State) (r : Nat) (u : URun) : (setRun s r u).pwr = s.pwr := rfl
@[simp] theorem setRun_cic (s : State) (r : Nat) (u : URun) : (setRun s r u).cic = s.cic := rfl
@[simp] theorem setRun_pkg (s : State) (r : Nat) (u : URun) : (setRun s r u).pkg = s.pkg := rfl
@[simp] theorem setRun_fw (s : State) (r : Nat) (u : URun) : (setRun s r u).fw = s.fw := rfl

/-! ### modCkpt -/

@[simp] theorem modCkpt_pending (s : State) (c : Nat) (f : Ckpt → Ckpt) : (modCkpt s c f).pending = s.pending := rfl
@[simp] theorem modCkpt_now (s : State) (c : Nat) (f : Ckpt → Ckpt) : (modCkpt s c f).now = s.now := rfl
@[simp] theorem modCkpt_free (s : State) (c : Nat) (f : Ckpt → Ckpt) : (modCkpt s c f).free = s.free := rfl
@[simp] theorem modCkpt_regs (s : State) (c : Nat) (f : Ckpt → Ckpt) : (modCkpt s c f).regs = s.regs := rfl
@[simp] theorem modCkpt_cores (s : State) (c : Nat) (f : Ckpt → Ckpt) : (modCkpt s c f).cores = s.cores := rfl
@[simp] theorem modCkpt_mem (s : State) (c : Nat) (f : Ckpt → Ckpt) : (modCkpt s c f).mem = s.mem := rfl
@[simp] theorem modCkpt_jobs (s : State) (c : Nat) (f : Ckpt → Ckpt) : (modCkpt s c f).jobs = s.jobs := rfl
@[simp] theorem modCkpt_nextJob (s : State) (c : Nat) (f : Ckpt → Ckpt) : (modCkpt s c f).nextJob = s.nextJob := rfl
@[simp] theorem modCkpt_sync (s : State) (c : Nat) (f : Ckpt → Ckpt) : (modCkpt s c f).sync = s.sync := rfl
@[simp] theorem modCkpt_que (s : State) (c : Nat) (f : Ckpt → Ckpt) : (modCkpt s c f).que = s.que := rfl
@[simp] theorem modCkpt_fab (s : State) (c : Nat) (f : Ckpt → Ckpt) : (modCkpt s c f).fab = s.fab := rfl
@[simp] theorem modCkpt_err (s : State) (c : Nat) (f : Ckpt → Ckpt) : (modCkpt s c f).err = s.err := rfl
@[simp] theorem modCkpt_trackers (s : State) (c : Nat) (f : Ckpt → Ckpt) : (modCkpt s c f).trackers = s.trackers := rfl
@[simp] theorem modCkpt_regions (s : State) (c : Nat) (f : Ckpt → Ckpt) : (modCkpt s c f).regions = s.regions := rfl
@[simp] theorem modCkpt_ctxs (s : State) (c : Nat) (f : Ckpt → Ckpt) : (modCkpt s c f).ctxs = s.ctxs := rfl
@[simp] theorem modCkpt_kernels (s : State) (c : Nat) (f : Ckpt → Ckpt) : (modCkpt s c f).kernels = s.kernels := rfl
@[simp] theorem modCkpt_buckets (s : State) (c : Nat) (f : Ckpt → Ckpt) : (modCkpt s c f).buckets = s.buckets := rfl
@[simp] theorem modCkpt_runs (s : State) (c : Nat) (f : Ckpt → Ckpt) : (modCkpt s c f).runs = s.runs := rfl
@[simp] theorem modCkpt_utables (s : State) (c : Nat) (f : Ckpt → Ckpt) : (modCkpt s c f).utables = s.utables := rfl
@[simp] theorem modCkpt_heldSeq (s : State) (c : Nat) (f : Ckpt → Ckpt) : (modCkpt s c f).heldSeq = s.heldSeq := rfl
@[simp] theorem modCkpt_lpm (s : State) (c : Nat) (f : Ckpt → Ckpt) : (modCkpt s c f).lpm = s.lpm := rfl
@[simp] theorem modCkpt_clusters (s : State) (c : Nat) (f : Ckpt → Ckpt) : (modCkpt s c f).clusters = s.clusters := rfl
@[simp] theorem modCkpt_fabricId (s : State) (c : Nat) (f : Ckpt → Ckpt) : (modCkpt s c f).fabricId = s.fabricId := rfl
@[simp] theorem modCkpt_ftime (s : State) (c : Nat) (f : Ckpt → Ckpt) : (modCkpt s c f).ftime = s.ftime := rfl
@[simp] theorem modCkpt_mbx (s : State) (c : Nat) (f : Ckpt → Ckpt) : (modCkpt s c f).mbx = s.mbx := rfl
@[simp] theorem modCkpt_sec (s : State) (c : Nat) (f : Ckpt → Ckpt) : (modCkpt s c f).sec = s.sec := rfl
@[simp] theorem modCkpt_pwr (s : State) (c : Nat) (f : Ckpt → Ckpt) : (modCkpt s c f).pwr = s.pwr := rfl
@[simp] theorem modCkpt_cic (s : State) (c : Nat) (f : Ckpt → Ckpt) : (modCkpt s c f).cic = s.cic := rfl
@[simp] theorem modCkpt_pkg (s : State) (c : Nat) (f : Ckpt → Ckpt) : (modCkpt s c f).pkg = s.pkg := rfl
@[simp] theorem modCkpt_fw (s : State) (c : Nat) (f : Ckpt → Ckpt) : (modCkpt s c f).fw = s.fw := rfl

/-! ### putTimer -/

@[simp] theorem putTimer_pending (s : State) (i : Nat) (t : Option Timer) : (putTimer s i t).pending = s.pending := rfl
@[simp] theorem putTimer_now (s : State) (i : Nat) (t : Option Timer) : (putTimer s i t).now = s.now := rfl
@[simp] theorem putTimer_free (s : State) (i : Nat) (t : Option Timer) : (putTimer s i t).free = s.free := rfl
@[simp] theorem putTimer_regs (s : State) (i : Nat) (t : Option Timer) : (putTimer s i t).regs = s.regs := rfl
@[simp] theorem putTimer_cores (s : State) (i : Nat) (t : Option Timer) : (putTimer s i t).cores = s.cores := rfl
@[simp] theorem putTimer_mem (s : State) (i : Nat) (t : Option Timer) : (putTimer s i t).mem = s.mem := rfl
@[simp] theorem putTimer_jobs (s : State) (i : Nat) (t : Option Timer) : (putTimer s i t).jobs = s.jobs := rfl
@[simp] theorem putTimer_nextJob (s : State) (i : Nat) (t : Option Timer) : (putTimer s i t).nextJob = s.nextJob := rfl
@[simp] theorem putTimer_sync (s : State) (i : Nat) (t : Option Timer) : (putTimer s i t).sync = s.sync := rfl
@[simp] theorem putTimer_que (s : State) (i : Nat) (t : Option Timer) : (putTimer s i t).que = s.que := rfl
@[simp] theorem putTimer_fab (s : State) (i : Nat) (t : Option Timer) : (putTimer s i t).fab = s.fab := rfl
@[simp] theorem putTimer_err (s : State) (i : Nat) (t : Option Timer) : (putTimer s i t).err = s.err := rfl
@[simp] theorem putTimer_trackers (s : State) (i : Nat) (t : Option Timer) : (putTimer s i t).trackers = s.trackers := rfl
@[simp] theorem putTimer_regions (s : State) (i : Nat) (t : Option Timer) : (putTimer s i t).regions = s.regions := rfl
@[simp] theorem putTimer_ctxs (s : State) (i : Nat) (t : Option Timer) : (putTimer s i t).ctxs = s.ctxs := rfl
@[simp] theorem putTimer_kernels (s : State) (i : Nat) (t : Option Timer) : (putTimer s i t).kernels = s.kernels := rfl
@[simp] theorem putTimer_ckpts (s : State) (i : Nat) (t : Option Timer) : (putTimer s i t).ckpts = s.ckpts := rfl
@[simp] theorem putTimer_buckets (s : State) (i : Nat) (t : Option Timer) : (putTimer s i t).buckets = s.buckets := rfl
@[simp] theorem putTimer_runs (s : State) (i : Nat) (t : Option Timer) : (putTimer s i t).runs = s.runs := rfl
@[simp] theorem putTimer_utables (s : State) (i : Nat) (t : Option Timer) : (putTimer s i t).utables = s.utables := rfl
@[simp] theorem putTimer_heldSeq (s : State) (i : Nat) (t : Option Timer) : (putTimer s i t).heldSeq = s.heldSeq := rfl
@[simp] theorem putTimer_lpm (s : State) (i : Nat) (t : Option Timer) : (putTimer s i t).lpm = s.lpm := rfl
@[simp] theorem putTimer_clusters (s : State) (i : Nat) (t : Option Timer) : (putTimer s i t).clusters = s.clusters := rfl
@[simp] theorem putTimer_fabricId (s : State) (i : Nat) (t : Option Timer) : (putTimer s i t).fabricId = s.fabricId := rfl
@[simp] theorem putTimer_ftime (s : State) (i : Nat) (t : Option Timer) : (putTimer s i t).ftime = s.ftime := rfl
@[simp] theorem putTimer_mbx (s : State) (i : Nat) (t : Option Timer) : (putTimer s i t).mbx = s.mbx := rfl
@[simp] theorem putTimer_sec (s : State) (i : Nat) (t : Option Timer) : (putTimer s i t).sec = s.sec := rfl
@[simp] theorem putTimer_cic (s : State) (i : Nat) (t : Option Timer) : (putTimer s i t).cic = s.cic := rfl
@[simp] theorem putTimer_pkg (s : State) (i : Nat) (t : Option Timer) : (putTimer s i t).pkg = s.pkg := rfl
@[simp] theorem putTimer_fw (s : State) (i : Nat) (t : Option Timer) : (putTimer s i t).fw = s.fw := rfl

/-! ### Free values -/

theorem drawW32_frame (s : State) : (drawW32 s).2 = { s with free := s.free + 1 } := rfl
theorem drawW64_frame (s : State) : (drawW64 s).2 = { s with free := s.free + 1 } := rfl
theorem drawNat_frame (s : State) : (drawNat s).2 = { s with free := s.free + 1 } := rfl
theorem drawBytes_frame (n : Nat) (s : State) : (drawBytes n s).2 = { s with free := s.free + n } := rfl

end Sys2Proof.Machine
end

