-- ==== Sys2Proof/Tests/Slice0.lean ====
section
/-! SUPPORT. Tests: what the checks of WellFormed refuse, one step of commands of every family, and states that meet the hypotheses of the statements. -/

namespace Sys2Proof.Tests
open Sys2Proof Sys2Proof.Machine
set_option Elab.async false

/-! ### States that the witnesses share -/

/-- An instruction word's fields. -/
def W (d a b : BitVec 6) (mod : BitVec 30 := 0) (ext : W64 := 0) : Lpk := { pn := false, preg := 0, d := d, a := a, b := b, mod := mod, ext := ext }
/-- A thread with registers from 0 on. -/
def T (pc : Nat) (regs : List W32) : Thread := { Thread.start pc 0 with regs := padTo 64 0 regs }
/-- A group of context 0. -/
def G (ts : List Thread) : Group :=
  { ctx := 0, canonical := true, launch := 1, kernel := 1, sgid := 0, gcount := 1, age := 1, arg := 0, spadBase := 0x100000000,
    spadBytes := 16384, ocBase := 0, ocBytes := 0, threads := ts, cur := 0, curIssues := 0, splits := [], barrier := none, wait := .none,
    park := none, ord := 0, fences := [], farinvs := [], sent := [], numf := 0x7F, fpl := 0, fpf := 0x1F, mtiles := List.replicate 4 0,
    tiles := List.replicate 4 (List.replicate 256 0), bind := none, lastIssue := 0, lastYield := none }
/-- Core 0 changed. -/
def onCore (f : Core → Core) (s : State) : State := modCore s 0 f
/-- A context. -/
def C0 : Ctx :=
  { canonical := true, deadchk := false, job := 0, parkBase := 0x20000000, evq := 1, keyId := 7, preempted := false, preemptAt := none,
    rearm := false, quiesced := false }
/-- A kernel. -/
def K0 : Kernel :=
  { digest := [], canonical := true, dptGen := 0, rev := 0, flags := 0, gregs := 64, tregs := 4, mtiles := 4, spad := 0, oc := 0, vsync := 0,
    code := [], entries := [(0, 1)], reach := [], callRet := [5], rpc := [], held := [], ctxs := [0], lastLaunch := 0, bytes := 0 }
/-- A module that is ready, with a context, a kernel and a group in slot 0 of core 0. -/
def S (ts : List Thread) : State :=
  onCore (fun c => { c with slots := setAt c.slots 0 (some (G ts)), spadAreas := [⟨1, 0, 16384⟩] })
    { State.reset with ctxs := [(0, C0)], kernels := [(1, K0)], pkg := { State.reset.pkg with ready := true, pwrgood := true } }
/-- Two threads. -/
def S2 : State := S [T 3 [5, 0xFFFFFFFB, 3, 0, 1, 0x100], T 3 [7, 2, 0, 0, 1, 0x100]]
/-- The issue of slot 0 of core 0. -/
def U : Issue := { core := 0, slot := 0, chk := .clean }
/-- Whether a word of an opcode issues. -/
def issues (o : LOp) (w : Lpk) (s : State) (room : Core → Bool := anyRoom) : Bool :=
  lpkValid o w && (issueBegin s U o w room).isSome
/-- The issue of a word, as the statements name it. -/
def iss (o : LOp) (w : Lpk) (s : State) (room : Core → Bool := anyRoom) : Option Iss := (issueBegin s U o w room).map (·.1)

/-- `issues` is the hypothesis `issuing` of the statements. -/
theorem issuing_of (o : LOp) (w : Lpk) (s : State) (room : Core → Bool) (h : issues o w s room = true) :
    ∃ x s1, issuing o U w room s x s1 ∧ iss o w s room = some x := by
  unfold issues at h
  simp only [Bool.and_eq_true] at h
  obtain ⟨hv, hb⟩ := h
  obtain ⟨p, hp⟩ := Option.isSome_iff_exists.mp hb
  exact ⟨p.1, p.2, ⟨hv, rfl, hp⟩, by simp [iss, hp]⟩

/-- A word of the scalar opcodes that the statements about scalar instructions name. -/
def scalarWords : List (LOp × Lpk) :=
  ([.add, .sub, .mul, .mulhs, .mulhu, .divs, .divu, .rems, .remu, .and_, .or_, .xor_, .shl, .shr, .sar, .mins, .maxs, .minu, .maxu, .clz, .popc,
    .sel, .fadd, .fsub, .fmul, .ffma, .fmin, .fmax, .fabs, .fneg, .nop, .yield, .exit] : List LOp).map (fun o => (o, W 4 1 2))
  ++ [(.setp, W 3 1 2 0x4000000), (.movi, W 4 0 0 0xFFFFF), (.movhi, W 4 0 0 0xABCD), (.srd, W 4 0 0 0x7), (.swr, W 0 4 0 0x6), (.swr, W 0 4 0 0x9),
      (.swr, W 0 4 0 0xB), (.swr, W 0 4 0 0x0), (.fcvt, W 4 1 0 2), (.fsetp, W 3 1 2 0x2000000), (.bra, W 0 0 0 0xFFFFFE), (.call, W 6 0 0 4),
      (.trap, W 0 0 0 0x1234)]

/-- IntegerInstructions, SpecialRegisterAccess, ScalarFpResults, ControlFlow: each of their words issues with both threads active. -/
theorem test_scalar_words_issue : scalarWords.all (fun e => issues e.1 e.2 S2 && (iss e.1 e.2 S2).map (fun x => x.act) == some 3) = true := by
  decide +kernel

/-- RET to a return point and elsewhere. -/
theorem test_ret_issues : issues .ret (W 0 0 0) S2 = true ∧ issues .ret (W 0 3 0) S2 = true
    ∧ isReturn S2 1 5 = true ∧ isReturn S2 1 0 = false := by decide +kernel

/-- The state a command answers. -/
def nx (c : Instr) (s : State) : State := match exec c s with | .next t => t | _ => s
/-- A command answers a next state. -/
def runs (c : Instr) (s : State) : Bool := match exec c s with | .next _ => true | _ => false
/-- A command changes nothing. -/
def idle (c : Instr) (s : State) : Bool := match exec c s with | .next t => t == s | _ => false
/-- The group in slot 0 of core 0. -/
def g0 (s : State) : Group := (groupOf s 0 0).getD (G [])
/-- Slot 0 of core 0. -/
def U0 : Slot := { core := 0, slot := 0 }
/-- The group in slot 0 of core 0 changed. -/
def onG (f : Group → Group) (s : State) : State := modGroup s 0 0 f

/-- ExitAndBarrier: a thread that stays, the last threads, masks that agree and that do not. -/
theorem test_exit_and_barrier :
    let odd : Lpk := { W 0 0 0 with preg := 1 }
    let s1 := onG (fun g => { g with threads := modAt g.threads 0 (fun h => { h with preds := 3 }) }) S2
    let room : Core → Bool := fun c => match nth c.slots 0 none with | some g => !barrierDone g | none => true
    (issues .exit odd s1 && (iss .exit odd s1).map (fun x => x.act) == some 1 && liveMask (g0 (nx (.exit U odd) s1)) == 2
      && (groupOf (nx (.exit U (W 0 0 0)) S2) 0 0).isNone && groupBusy S2 0 1 == false
      && issues .gbar (W 0 2 0) S2 room && (g0 (nx (.gbar U (W 0 2 0)) S2)).park.isSome
      && issues .gbar (W 0 4 0) (S [T 3 [0, 0, 0, 0, 1]]) room && (g0 (nx (.gbar U (W 0 4 0)) (S [T 3 [0, 0, 0, 0, 1]]))).barrier.isSome) = true := by
  decide +kernel

/-- One thread whose register pair 2 holds an address in the scratchpad of core 0, and registers 6 and 7 data. -/
def SA (lo hi : W32) : State := S [T 3 [0, 0, lo, hi, 9, 9, 0xFFFFFF80, 0x11223344]]
/-- Its memory words: A is the pair 2, B is 6, D is 8. -/
def memWords : List (LOp × Lpk × Nat) :=
  memoryInstrs.map (fun e => (e.2.1, W 8 2 6 0, e.2.2))

/-- What an access needs. -/
def permOf (o : LOp) : Perm := if lopClass o = 5 then .accum else if [LOp.stb, .sth, .stw, .std].contains o then .write else .read

/-- ScratchpadAccesses, MemoryInstructionFrame: each instruction issues and meets the scratchpad alone, at its first and last bytes. -/
theorem test_scratchpad_accesses : memoryInstrs.all (fun e =>
    let w := W 8 2 6
    [0x100000000, 0x100004000 - e.2.2].all (fun a =>
      let s := SA (BitVec.ofNat 32 a) 1
      match issueBegin s U e.2.1 w anyRoom with
      | some (x, s1) =>
        lpkValid e.2.1 w && x.act == maskOf [0] && ldstAddr x.g 0 w == a && (coreOf s1 0).accs.isEmpty && slotOfAge (coreOf s1 0) x.g.age == some 0
          && x.g.farinvs.isEmpty && !sleeps s1 (128 * (a / 128)) && !ckptHeld s1 (128 * (a / 128))
          && (match target s1 x.g a e.2.2 (permOf e.2.1) (e.2.2 == 4 && lopClass e.2.1 == 5) with | .loc (.spad _) => true | _ => false)
          && runs (e.1 U w) s
      | none => false)) = true := by decide +kernel

/-- ScratchpadAccesses: a signed byte loads sign-extended, a store writes its bytes, an atomic combines. -/
theorem test_scratchpad_values :
    let a := 0x100000010
    let s := memPut (SA 0x10 1) a [0x80, 0xFF, 0, 0]
    (memNat (nx (.sth U (W 8 2 7)) s) a 4 == 0x3344 && memNat (nx (.aadd U (W 8 2 6)) s) a 4 == (0xFF80 + 0xFFFFFF80) % 2 ^ 32) = true
    ∧ thr (g0 (nx (.loadReturn 0 0 0) (nx (.ldb U (W 8 2 6)) s))) 0 = ((thr (g0 (nx (.ldb U (W 8 2 6)) s)) 0).setReg 8 0xFFFFFF80) := by
  decide +kernel

/-- LoadDataAndMisalignment: addresses at the limits of both clauses, and data that returns clean and with an error. -/
theorem test_misaligned_and_load_return :
    let bad := SA 0 0x10000000
    let off := SA 1 1
    let dpt := SA (BitVec.ofNat 32 (blkAddr .dpt 0 0 + 0x7FF)) (BitVec.ofNat 32 (blkAddr .dpt 0 0 / 2 ^ 32))
    let s := nx (.ldd U (W 8 2 6)) (SA 0x10 1)
    (memoryInstrs.all (fun e => issues e.2.1 (W 8 2 6) bad && (g0 (nx (e.1 U (W 8 2 6)) bad)).park.map (fun p => p.cause) == some 1)
      && memoryInstrs.all (fun e => issues e.2.1 (W 8 2 6) off
          && (e.2.2 == 1 || (g0 (nx (e.1 U (W 8 2 6)) off)).park.map (fun p => p.cause) == some 2))
      && (memoryInstrs.take 10).all (fun e => issues e.2.1 (W 8 2 6) dpt && (g0 (nx (e.1 U (W 8 2 6)) dpt)).park.isNone)
      && (match SMap.get? (coreOf s 0).accs 0 with | some e => e.st == .done && e.op == .ld 8 false && e.lanes.length == 1 | none => false)
      && (SMap.get? (coreOf (nx (.loadReturn 0 0 0) s) 0).accs 0).isNone
      && (g0 (nx (.loadReturn 0 0 1) s)).park.isSome && (thr (g0 (nx (.loadReturn 0 0 1) s)) 0).regs == (thr (g0 s) 0).regs) = true := by
  decide +kernel

/-- FencesAndBarriers: a fence that may complete at once and one that waits for an access to eDRAM; a barrier complete, incomplete and past its
limit; a split past its limit. -/
theorem test_fences_and_barriers :
    let f := nx (.fence U (W 0 0 0 1)) S2
    let held : Access := { slot := 0, age := 1, ctx := 0, ord := 0, pc := 0, op := .st 4, d := 0, noalloc := false, dead := false, flag := false, redOk := false, place := .home, line := 0, region := none, lanes := [⟨0, 0, 0, 0, 0⟩], subset := 3, st := .held, stale := false, todo := [], entered := [], unanswered := [], queued := false, late := false, data := [], bad := 0, badCause := 0 }
    let fw := onCore (fun c => { c with accs := [(0, held)] }) f
    let b : BitVec 32 → State := fun m => onG (fun g => { g with barrier := some ⟨3, m, 3, 0⟩, threads := g.threads.map (fun h => { h with stat := .bar }) }) S2
    let late : State := { b 1 with clusters := modAt (b 1).clusters 0 (fun c => { c with ckPhase := 2 ^ 20 * 1000000 }) }
    let sp := onG (fun g => { g with splits := [⟨9, 3, 1, 1024⟩] }) S2
    (issues .fence (W 0 0 0 1) S2 && fenceDone f 0 1 1 1 3 && !idle (.fenceComplete U0 1) f && !fenceDone fw 0 1 1 1 3 && idle (.fenceComplete U0 1) fw
      && fenceDone (b 3) 0 1 1 1 3 && (g0 (nx (.gbarComplete U0) (b 3))).barrier.isNone && idle (.gbarComplete U0) (b 1)
      && idle (.gbarWatchdogExpiry U0) (b 1) && (g0 (nx (.gbarWatchdogExpiry U0) late)).park.map (fun p => p.cause) == some 8
      && (g0 (nx (.reconvRelease U0 9) sp)).splits == [⟨9, 2, 0, 0⟩]) = true := by decide +kernel

/-- A region entry of context 0: `[base, limit]` in blocks of 4 KiB, LOCAL. -/
def R0 (base limit : Nat) : Region :=
  { valid := true, kind := false, owner := 0, base := base, limit := limit, peer := 0, ridx := 0, key := 5, epoch := 0, noncache := false,
    exported := true, accum := true, write := true, read := true, naks := 0 }
/-- The same as an IMPORT of module 2. -/
def R1 (base limit : Nat) : Region := { R0 base limit with kind := true, peer := 2, ridx := 0, exported := false }
/-- Module 1 with LOCAL entry 0 over the first 16 MiB of eDRAM and IMPORT entry 1 of module 2. -/
def F (s : State) : State := { s with fabricId := some 1, regions := [(0, R0 0 4095), (1, R1 0 4095)] }
/-- An access of the group in slot 0. -/
def A0 (op : MemOp) (place : Place) (addr : Nat) (st : AccSt) (v : W64 := 0) : Access :=
  { slot := 0, age := 1, ctx := 0, ord := 0, pc := 0, op := op, d := 8, noalloc := false, dead := false, flag := false, redOk := false,
    place := place, line := addr / 128, region := none, lanes := [⟨0, addr, v, 0, 0⟩], subset := 1, st := st, stale := false, todo := [0],
    entered := [], unanswered := [], queued := false, late := false, data := [], bad := 0, badCause := 0 }
/-- Core 0 with an access. -/
def acc (a : Access) (s : State) : State := onCore (fun c => { c with accs := SMap.put c.accs 0 a, nextAcc := 1 }) s
/-- A line of a slice. -/
def L0 (line : Nat) (kind : SKind) : SLine :=
  { kind := kind, line := line, way := 0, back := none, sharers := 0, pf := none, redKind := 0, part := [], evicting := false, data := [], rgn := 0, epoch := 0 }
/-- A queue of context 0 on QID 1: 16 entries. -/
def Q (ty : Nat) (esize : Nat := 1) : QDesc := newQueue 0x1000 ty 4 esize 0 0 0 0 0
/-- A module with that queue. -/
def withQ (ty : Nat) (s : State) (esize : Nat := 1) : State := { F s with que := { s.que with descs := [(1, Q ty esize)] } }
/-- Virtual IDs of context 0 with their translation entries. -/
def XL (l : List (Nat × Nat)) (s : State) : State := l.foldl (fun s e => putXlat s 0 e.1 e.2) (regPut s (regAddr .syn 0 0x010) xlatArea)
/-- Virtual IDs 0 and 3 of context 0 name object 9 with every right; virtual ID 2 has none. -/
def Y (s : State) : State :=
  XL [(0, 0xF0009), (2, 0x10009), (3, 0xF0009)] { s with sync := { s.sync with objs := [(9, { SyncObj.reset with st := .armed, cnt := 4 })] } }

/-- PrefetchAndFarLines: a request with a slot and one at a full cap; a prefetch of a present line and of an absent one; FARINV at both ends of its
address range, ready and waiting. -/
theorem test_prefetch_and_far_lines :
    let a := A0 (.ld 4 false) .home 0x100 .waiting
    let full := onCore (fun c => { c with accs := (List.range 32).map (fun i => (i + 1, A0 (.ld 4 false) .home 0x100 .held)) }) (F (SA 0 0))
    let full := onCore (fun c => { c with accs := SMap.put c.accs 0 a }) full
    let p := F (SA 0x100 0)
    let here : State := { p with mem := { p.mem with slices := [(homeSlice 0x100, [L0 2 .home])] } }
    let t1 : State → Option Bool := fun s => (issueBegin s U .pref (W 0 2 0) anyRoom).map (fun r =>
      target r.2 r.1.g (ldstAddr r.1.g 0 (W 0 2 0)) 1 .read false == .loc .home && r.1.act == maskOf [0])
    let fa : BitVec 32 → BitVec 32 → State := fun lo hi => F (SA lo hi)
    let f := nx (.farinv U (W 0 2 4)) (fa 0x100 0x20000)
    let far : State := { f with mem := { f.mem with slices := [(farSliceOn (F (SA 0 0)) 0 (farLine 2 2), [L0 (farLine 2 2) .far])] } }
    let busy := acc { A0 (.ld 4 false) (.module 2) 0x100 .remote with region := some 1 } far
    (mayGrant (acc a (F (SA 0 0))) 0 0 a && (SMap.get? (coreOf (nx (.requestSlotGrant 0 0) (acc a (F (SA 0 0)))) 0).accs 0).map (fun e => e.st) == some .held
      && !mayGrant full 0 0 a && idle (.requestSlotGrant 0 0) full
      && issues .pref (W 0 2 0) p && t1 p == some true && t1 here == some true && (nx (.pref U (W 0 2 0)) here).mem == here.mem
      && (slcCfg p (homeSlice 0x100)).testBit 3 && (SMap.get? (nx (.pref U (W 0 2 0)) p).mem.fills 0).map (fun x => x.line) == some 2
      && issues .farinv (W 0 2 4) (fa 0 0x10000) && issues .farinv (W 0 2 4) (fa 0xFFFFFFFF 0xFFFFFFF)
      && (g0 f).farinvs.length == 1 && farinvReady (coreOf far 0) 1 ((g0 f).farinvs.headD ⟨0, 0, []⟩) && (g0 (nx (.farinvComplete U0 1) far)).farinvs.isEmpty
      && sliceAt (nx (.farinvComplete U0 1) far) (farSliceOn (F (SA 0 0)) 0 (farLine 2 2)) == []
      && !farinvReady (coreOf busy 0) 1 ((g0 f).farinvs.headD ⟨0, 0, []⟩) && idle (.farinvComplete U0 1) busy) = true := by decide +kernel

/-- PrefetchAndFarLines: requests of the other places; a prefetch of a remote line, and one with PF_EN clear; FARINV of no bytes and of a malformed address. -/
theorem test_prefetch_and_far_lines_more :
    let b := F (SA 0 0)
    let at_ : Place → Nat → State := fun p a => acc (A0 (.ld 4 false) p a .waiting) b
    let st : Place → Nat → Option AccSt := fun p a => (SMap.get? (coreOf (nx (.requestSlotGrant 0 0) (at_ p a)) 0).accs 0).map (fun e => e.st)
    let w := W 0 2 0 0x10000
    let rp := F (SA 0x100 0x20000)
    let off := regPut (F (SA 0x100 0)) (regAddr .slc (homeSlice 0x100) 0) 7
    (st (.wbuf 0) 0x200000000 == some .held && st .regs 0x300000000 == some .held && st (.module 2) 0x100 == some .remote && st (.spad 0) 0x100000000 == some .done
      && issues .pref w rp && (SMap.get? (coreOf (nx (.pref U w) rp) 0).accs 0).map (fun e => (e.place, e.line, e.region)) == some (.module 2, 2, some 1)
      && (slcCfg off (homeSlice 0x100)).testBit 3 == false && (nx (.pref U (W 0 2 0)) off).mem == off.mem
      && issues .farinv (W 0 2 20) rp && (g0 (nx (.farinv U (W 0 2 20)) rp)).farinvs.isEmpty
      && issues .farinv (W 0 2 4) (SA 0 0x10000000) && (g0 (nx (.farinv U (W 0 2 4)) (SA 0 0x10000000))).park.map (fun p => p.cause) == some 1) = true := by
  decide +kernel

/-- ClearCountsCommands: the first and the last unit of a block of cores. -/
theorem test_clear_counts :
    let s := regPut (regPut S2 (regAddr .thr 47 0x028) 9) (regAddr .thr 47 0x000) 9
    let t := nx (.thrClrCounts (fwWr .thr 47 0x020 1)) s
    (regGet t (regAddr .thr 47 0x028) == 0 && regGet t (regAddr .thr 47 0) == 9 && !blkStopped s .thr 47 && !blkOff s .thr 47 && !s.pkg.held
      && runs (.numClrCounts (fwWr .num 0 0x08 1)) s) = true := by decide +kernel

/-- SyncInstructionsSend: virtual IDs with the right, unmapped and without it. -/
theorem test_sync_instructions :
    let s := withQ 2 (Y (S [T 3 [0, 1, 2, 3, 7]]))
    let words : List (LOp × (Issue → Lpk → Instr) × Lpk) := [(.signal, .signal, W 8 0 4), (.wait, .wait, W 8 0 4), (.watch, .watch, W 8 0 4 0 1),
      (.sread, .sread, W 8 0 4), (.sarm, .sarm, W 8 0 4 1), (.wcancel, .wcancel, W 8 0 4)]
    words.all (fun e =>
      let at_ : BitVec 6 → Lpk := fun r => { e.2.2 with a := r }
      issues e.1 (at_ 0) s && (nx (e.2.1 U (at_ 0)) s).sync.msgs.map (fun m => m.obj) == [9]
        && issues e.1 (at_ 1) s && (g0 (nx (e.2.1 U (at_ 1)) s)).park.map (fun p => p.cause) == some 0x20
        && issues e.1 (at_ 2) s && (g0 (nx (e.2.1 U (at_ 2)) s)).park.map (fun p => p.cause) == some 0x21) = true := by decide +kernel

/-- A wait of the group in slot 0 at object 9. -/
def wt (cond : Nat) (v : W32) (dl : Option Nat) : SWait :=
  { core := 0, age := 1, ctx := 0, cond := cond, operand := v, deadline := dl, left := none, d := 8, mask := 1 }
/-- Object 9 with that wait and a message under way. -/
def obj (w : List SWait) (ops : List SyncOp) (s : State) : State :=
  onG (fun g => { g with wait := .sync 8 1 })
    { Y s with sync := { (Y s).sync with objs := [(9, { SyncObj.reset with st := .armed, cnt := 4, waits := w })],
                                         msgs := ops.map (fun o => ⟨9, none, 0, 0, 0, 0, o⟩) } }

/-- SyncArbitration: a signal that meets a wait's condition at its boundary and one that does not, without a wait, SARM with both values of SET; timeouts at
their boundary; a held message with room and without; the translation caches. -/
theorem test_sync_arbitration :
    let s := S [T 3 [0]]
    let sig := fun w => obj w [.signal 3 false] s
    let ff := onG (fun g => { g with wait := .firefly 0 8 1 1 (some 0) }) s
    let late := onG (fun g => { g with wait := .firefly 0 8 1 1 (some 1) }) s
    let q := withQ 2 s
    let held : State := { q with sync := { q.sync with held := [(0, [⟨1, 9, [1, 2]⟩])] } }
    let full : State := { held with que := { held.que with descs := [(1, { Q 2 with prod := 16 })] } }
    let t := nx (.syncArbitration 9) (sig [wt 0 7 none])
    let c : State := { s with sync := { s.sync with cache := [(3, [(1, 1)]), (4, [(2, 1)])] } }
    ((objOf t 9).waits.isEmpty && (objOf t 9).cnt == 7 && gReg (g0 t) 0 8 == 0 && gReg (g0 t) 0 9 == 7 && (g0 t).wait == .none
      && (objOf (nx (.syncArbitration 9) (sig [wt 0 8 none])) 9).waits.length == 1 && (objOf (nx (.syncArbitration 9) (sig [])) 9).cnt == 7
      && (objOf (nx (.syncArbitration 9) (obj [] [.sarm true 2] s)) 9).cnt == 2 && (objOf (nx (.syncArbitration 9) (obj [] [.sarm false 2] s)) 9).cnt == 4
      && waitObj (obj [wt 0 9 (some 0)] [] s) 0 1 == some (9, wt 0 9 (some 0)) && !timerKept s 0 1
      && gReg (g0 (nx (.waitTimeout 0 (.slot 0)) (obj [wt 0 9 (some 0)] [] s))) 0 8 == 1 && idle (.waitTimeout 0 (.slot 0)) (obj [wt 0 9 (some 1)] [] s)
      && gReg (g0 (nx (.waitTimeout 0 (.slot 0)) (obj [wt 0 9 (some 0)] [.signal 4 false] s))) 0 8 == 1
      && gReg (g0 (nx (.waitTimeout 0 (.slot 0)) (obj [wt 0 9 (some 0)] [.signal 5 false] s))) 0 8 == 0
      && gReg (g0 (nx (.waitTimeout 0 (.slot 0)) ff)) 0 8 == 1 && idle (.waitTimeout 0 (.slot 0)) late
      && canAppend held (Q 2) && (SMap.get? (nx (.watchMsgDeliver 0 1) held).que.descs 1).map (fun d => d.prod) == some 1
      && !canAppend full { Q 2 with prod := 16 } && idle (.watchMsgDeliver 0 1) full
      && (nx (.synXltInval (fwWr .syn 0 0x008 2)) c).sync.cache == [(4, [(2, 1)])]) = true := by decide +kernel

/-- FireflyLines: a core of the grant, none of it; a wait with and without an arrival; a line due and not; a pin free and driven. -/
theorem test_firefly_lines :
    let s := S [T 3 [0]]
    let g := regPut (regPut s (regAddr .syn 0 0x100) (1 + 65536)) (regAddr .syn 0 0x140) 1
    let a := nx (.ffarrive U (W 0 0 0)) g
    let r := nx (.fireflyRelease 0) a
    let low := regPut g (regAddr .syn 0 0x108) 8
    (issues .ffarrive (W 0 0 0) g && ffHolds g 0 0 && (ffCores g 0).testBit 0 && (ffLine a 0).arrs.length == 1
      && !ffHolds g 0 1 && (g0 (nx (.ffarrive U (W 0 0 0 1)) g)).park.map (fun p => p.cause) == some 0x23
      && issues .ffwait (W 8 0 0) a && ffTarget (ffLine a 0) 0 == some 1 && (g0 (nx (.ffwait U (W 8 0 0)) a)).wait == .firefly 0 8 1 1 none
      && ffTarget (ffLine r 0) 0 == none && (g0 (nx (.ffwait U (W 8 0 0)) r)).wait == .none
      && ffLevel a 0 && (ffLine r 0).hold == some 16 && !ffLevel g 0 && idle (.fireflyRelease 0) g
      && idle (.fireflyHoldEnd 0) r && (ffLine (nx (.fireflyHoldEnd 0) { r with now := 16 }) 0).hold == none
      && pinLow low 0 && idle (.fflyPinEdge 0 true) low && nth (nx (.fflyPinEdge 0 false) low).sync.pins 0 true == false
      && !ffPinReserved 0x1FF0 && regGet (nx (.ffPinWrite (fwWr .syn 0 0x108 0x1F0)) g) (regAddr .syn 0 0x108) == 0x1F0
      && regGet (nx (.ffPinWrite (fwWr .syn 0 0x108 0x1F0)) { g with fab := { g.fab with relay := true } }) (regAddr .syn 0 0x108) == 0x170) = true := by
  decide +kernel


/-- The tile instructions and CHRUN, with a word that takes its address or value from register pair 2. -/
def tileWords : List (LOp × (Issue → Lpk → Instr)) :=
  [(.tld, .tld), (.tst, .tst), (.tgather, .tgather), (.tmov, .tmov), (.tadd, .tadd), (.tmul, .tmul), (.tfma, .tfma), (.tmin, .tmin), (.tmax, .tmax),
   (.tcmp, .tcmp), (.tsel, .tsel), (.tcvt, .tcvt), (.tsfu, .tsfu), (.tred, .tred), (.tbcast, .tbcast), (.text, .text), (.mld, .mld), (.mst, .mst),
   (.ocload, .ocload), (.ocstore, .ocstore), (.chrun, .chrun)]
/-- A word with G in register 2. -/
def WG (d a b : BitVec 6) (mod : BitVec 30 := 0) : Lpk := W d a b (mod ||| 0x400000)
/-- A module whose group has a full set of tile and mask tiles and slot 0 of the vector queue's core. -/
def V (q : List VecEntry) (s : State := S [T 3 [0, 0, 0x40, 1]]) : State :=
  onCore (fun c => { c with vecq := q }) (onG (fun g => { g with tiles := List.replicate 4 (List.replicate 256 0x3F800000), mtiles := List.replicate 7 5 }) s)
/-- An entry of the vector queue. -/
def VE (opc : Nat) (w : Lpk) (g : Nat := 0x40000000) : VecEntry :=
  { slot := 0, age := 1, ctx := 0, pc := 3, chain := false, opc := opc, w := w, g := g, mask := 1 }
/-- The first elements of a tile register of the group. -/
def els (s : State) (d : Nat) : List W32 := (List.range 4).map (fun j => tElem (g0 s) d j)

/-- VectorInstructionsQueue: every word issues with an active thread and takes an entry; TLD captures a 64-bit address. -/
theorem test_vector_words_enter : tileWords.all (fun e =>
    let w := if e.1 == .tmov then WG 1 1 1 else WG 1 0 2
    let s := V []
    issues e.1 w s vecRoom && (iss e.1 w s vecRoom).map (fun x => x.act) == some 1
      && ((coreOf (nx (e.2 U w) s) 0).vecq.map (fun v => (v.opc, v.g))).length == 1
      && (e.1 != .tld || ((coreOf (nx (e.2 U w) s) 0).vecq.map (fun v => (v.opc, v.g))) == [(1, 0x100000040)])) = true := by decide +kernel

/-- TileInstructionResults: the head of the queue under the mask 5 (elements 0 and 2): TADD, TFMA, TSEL, TBCAST, TCMP and TEXT. -/
theorem test_tile_results :
    let s : Nat → Lpk → State := fun o w => V [VE o w]
    let r := fun o w d => els (nx (.vecqExecute 0 .clean) (s o w)) d
    let m : BitVec 30 := 0x8000000
    let h := onG (fun g => { g with wait := .text }) (s 0x10 (WG 0 1 0 3))
    let x := nx (.vecqExecute 0 .clean) (s 0x0A (WG 2 0 1 m))
    let q := s 0x05 (WG 2 0 1 m)
    (coreRuns q 0 && vecFence q 0 != 15 && !fusedWaits q 0 && slotOfAge (coreOf q 0) 1 == some 0 && liveMask (g0 q) != 0
      && r 0x05 (WG 2 0 1 m) 2 == [0x40000000, 0x3F800000, 0x40000000, 0x3F800000]
      && r 0x07 (WG 2 0 1 m) 2 == [0x40000000, 0x3F800000, 0x40000000, 0x3F800000]
      && r 0x0F (WG 2 0 1 m) 2 == [0x40000000, 0x3F800000, 0x40000000, 0x3F800000]
      && r 0x0B (WG 2 0 1 m) 2 == [0x3F800000, 0x3F800000, 0x3F800000, 0x3F800000]
      && maskTile (g0 (s 0x0A (WG 2 0 1 m))) 2 == 5 && maskTile (g0 x) 2 == 0 && (coreOf x 0).vecq == []
      && gReg (g0 (nx (.vecqExecute 0 .clean) h)) 0 2 == 0x3F800000 && (g0 (nx (.vecqExecute 0 .clean) h)).wait == .none) = true := by decide +kernel

/-- VectorFenceAndBinding: TFENCE with and without an entry, CHBIND and CHUNBIND, a write to VEC_CFG with an idle and a busy engine, the check word. -/
theorem test_vector_fence_and_binding :
    let w := WG 0 0 0 0x8000000
    let f := nx (.tfence U w) (V [VE 5 (WG 2 0 1)])
    let d : State := onCore (fun c => { c with vecq := [] }) f
    let b := nx (.chbind U w) (V [])
    let k := nx (.vecClrCheck (fwWr .vec 0 0x020 2)) (regPut (V []) (regAddr .vec 0 0x018) 0x500000007)
    (issues .tfence w (V [VE 5 (WG 2 0 1)]) && (g0 f).wait == .tfence && idle (.tfenceComplete U0) f && (g0 (nx (.tfenceComplete U0) d)).wait == .none
      && issues .chbind w (V []) && (g0 b).bind == some (0x40, 1) && issues .chunbind w b && (g0 (nx (.chunbind U w) b)).bind == none
      && regGet (nx (.vecFenceWrite (fwWr .vec 0 0 9)) (V [])) (regAddr .vec 0 0) == 9
      && (regGet (nx (.vecFenceWrite (fwWr .vec 0 0 9)) b) (regAddr .vec 0 8)).testBit 20
      && regGet (nx (.vecFenceWrite (fwWr .vec 0 0 9)) b) (regAddr .vec 0 0) == 0
      && regGet k (regAddr .vec 0 0x018) == 0x500000000) = true := by decide +kernel

/-- A ring that holds its queue's entries at 0x1000, in a context whose memory reads there. -/
def ringQ (ty : Nat) (prod cons : W32) (host : Bool := false) (s : State) : State :=
  { F s with que := { s.que with descs := [(1, { Q ty with prod := prod, cons := cons, hostProd := host, hostCons := host, take := cons })] } }

/-- SystemInstructions: QSTAT, QPUT with room, at a full ring, at the last and beyond the last scratchpad range and at a queue of another type; QGET. -/
theorem test_system_instructions :
    let t : W32 → List Thread := fun off => [T 3 [1, off]]
    let w := W 8 0 1
    let at_ : W32 → State := fun off => S (t off)
    let put := ringQ 3 2 1 false (memPut (at_ 0x20) 0x100000020 [1, 2, 3])
    let got := nx (.qget U w) (memPut (ringQ 3 2 1 false (at_ 0x20)) 0x1020 [7, 8])
    let room : State → Core → Bool := fun s _ => qputReady s U && !qputHeld s U w
    let park := fun (s : State) => (g0 s).park.map (fun p => p.cause)
    (issues .qstat w put && gReg (g0 (nx (.qstat U w) put)) 0 8 == 2 && gReg (g0 (nx (.qstat U w) put)) 0 9 == 1
      && issues .qput w put (room put) && gReg (g0 (nx (.qput U w) put)) 0 8 == 2
      && (SMap.get? (nx (.qput U w) put).que.descs 1).map (fun d => d.prod) == some 3 && memNat (nx (.qput U w) put) 0x1040 4 == 0x30201
      && (let f := ringQ 3 17 1 false (at_ 0x20); issues .qput w f (room f) && gReg (g0 (nx (.qput U w) f)) 0 8 == 0xFFFFFFFF)
      && (let f := ringQ 3 2 1 false (at_ 0x3FE0); issues .qput w f (room f) && (g0 (nx (.qput U w) f)).park == none)
      && (let f := ringQ 3 2 1 false (at_ 0x4000); issues .qput w f (room f) && park (nx (.qput U w) f) == some 0x71)
      && (let f := ringQ 2 2 1 false (at_ 0x20); issues .qput w f (room f) && park (nx (.qput U w) f) == some 0x70)
      && issues .qget w (ringQ 3 2 1 false (at_ 0x20)) && gReg (g0 got) 0 8 == 0 && memNat got 0x100000020 2 == 0x807
      && gReg (g0 (nx (.qget U w) (ringQ 3 1 1 false (at_ 0x20)))) 0 8 == 1
      && park (nx (.qget U w) (ringQ 3 2 1 true (at_ 0x20))) == some 0x70) = true := by decide +kernel

/-- SystemInstructions: no slice of the state of QGET holds a RED line. -/
theorem test_no_red (s : State) (h : s.mem.slices = []) : noRed s := by
  intro k y hy
  simp [sliceAt, h, SMap.getD, SMap.get?] at hy

/-- Whether no core has a native sweep to start, a replay or an MWLOAD. -/
def allIdle (s : State) : Bool :=
  s.cores.all (fun c => c.stage.left == 0 && c.stage.todo.isEmpty && c.arrays.all (fun a => a.replay.isNone) && c.rings.all (fun r => r.loads.isEmpty))

/-- SystemInstructions and others: such a state has no window at work. -/
theorem test_wins_idle (s : State) (h : allIdle s = true) : winsIdle s := by
  have core : ∀ n q, arrBusy (coreOf s n) q = false ∧ fillBusy (coreOf s n) q = false := by
    intro n q
    by_cases hn : n < s.cores.length
    · have hc := List.all_eq_true.mp h s.cores[n] (List.getElem_mem hn)
      simp only [Bool.and_eq_true, List.isEmpty_iff, List.all_eq_true, beq_iff_eq] at hc
      obtain ⟨⟨⟨h0, h1⟩, h2⟩, h3⟩ := hc
      have e : coreOf s n = s.cores[n] := by simp [coreOf, nth, hn]
      constructor
      · rw [arrBusy, e, h1, h0]
        by_cases hq : q < s.cores[n].arrays.length
        · have := h2 _ (List.getElem_mem hq)
          simp [nth, hq] at this ⊢; exact this
        · simp [nth, Nat.not_lt.mp hq]; rfl
      · rw [fillBusy, e]
        by_cases hq : q < s.cores[n].rings.length
        · have := h3 _ (List.getElem_mem hq)
          simp [nth, hq] at this ⊢; exact this
        · simp [nth, Nat.not_lt.mp hq]; rfl
    · have e : coreOf s n = Core.reset := by simp [coreOf, nth, Nat.not_lt.mp hn]
      rw [e]
      rcases q with _ | _ | q <;> exact ⟨rfl, rfl⟩
  intro a
  unfold winHit
  split
  · simp [core]
  · rfl

/-- SystemInstructions and others: the state of a group that issues has no window at work. -/
theorem test_wins_idle_witness : winsIdle (S [T 3 []]) := test_wins_idle _ (by decide +kernel)

/-- DoorbellsAndHeldEvents: the last index that fits and the first that does not, from both sides; an event with room and without; FLUSH. -/
theorem test_doorbells :
    let s := S [T 3 []]
    let bell : W64 → RegWr := fun v => { src := .host, addr := 0xFE0000000008, bytes := 8, value := v }
    let p := ringQ 0 2 1 true s
    let c := ringQ 2 5 1 true s
    let ix := fun (t : State) => (SMap.get? t.que.descs 1).map (fun d => (d.prod.toNat, d.cons.toNat, d.refused.toNat))
    let ev : W32 → State := fun prod => { ringQ 2 prod 1 false s with que := { (ringQ 2 prod 1 false s).que with held := [⟨1, [9], 0, none⟩] } }
    (ix (nx (.doorbell (bell 17)) p) == some (17, 1, 0) && ix (nx (.doorbell (bell 18)) p) == some (2, 1, 1)
      && ix (nx (.doorbell (bell 0x100000005)) c) == some (5, 5, 0) && ix (nx (.doorbell (bell 0x100000006)) c) == some (5, 1, 1)
      && !isQuiesced s 0 && ix (nx (.heldEventPost 1) (ev 16)) == some (17, 1, 0) && memNat (nx (.heldEventPost 1) (ev 16)) 0x1000 4 == 9
      && idle (.heldEventPost 1) (ev 17) && idle (.queFlush (fwWr .que 0 8 2)) s) = true := by decide +kernel

/-- A LAUNCH queue on QID 1 with one entry, whose bytes are given: kernel 1, entry 0, cores 0 and 1, argument 0x100. -/
def launchQ (e : List (Nat × List Byte)) (s : State) : State :=
  let s := ringQ 0 1 0 false s
  let s : State := { s with que := { s.que with descs := [(1, { Q 0 2 with prod := 1 })] } }
  (e.foldl (fun s x => memPut s (0x1000 + x.1) x.2) (memPut (memPut (memPut s 0x1000 [1]) 0x1010 [3]) 0x1018 [0, 1]))
/-- A launch of kernel 1 on core 1. -/
def LN : Launch :=
  { qid := 1, index := 0, ctx := 0, kernel := 1, entryPc := 0, groups := 1, tokbase := 4, cores := 2, arg := 0x100, doneSig := true, doneEvent := false,
    doneVs := 0, tag := 9, stamp := 0, placed := [], ended := [], started := true, cut := false }
/-- A module that runs it. -/
def withLN (l : Launch) (s : State) : State := { s with que := { s.que with launches := [(0, l)], nextLaunch := 1 } }

/-- LaunchSteps: an entry without START, one of an unknown kernel, START watches tried again, a group placed, a launch that completes. -/
theorem test_launch_steps :
    let s := Y (S [T 3 []])
    let q := launchQ [] s
    let ok := nx (.launchEntryTake 1) q
    let bad := nx (.launchEntryTake 1) (launchQ [(0, [2])] s)
    let st : Byte → State := fun vs => launchQ [(0x0B, [1]), (0x20, [vs]), (0x24, [4])] s
    let again : Byte → State := fun vs => withLN { LN with index := 0 } { st vs with que := { (st vs).que with descs := [(1, { Q 0 2 with prod := 1, take := 1, startWait := some (0, false) })] } }
    let pl := nx (.launchPlace 0 1) (withLN LN s)
    let fin := nx (.launchComplete 0) (withLN { LN with placed := [(1, 1)], ended := [(1, 1)] } s)
    ((SMap.get? ok.que.launches 0).map (fun l => (l.started, l.cores, l.arg)) == some (true, 3, 0x100) && ok.que.nextLaunch == 1
      && bad.que.launches.isEmpty && (SMap.get? bad.que.descs 1).map (fun d => d.take) == some 1
      && (nx (.launchWatchRetry 1) (again 3)).sync.msgs.length == 1 && (nx (.launchWatchRetry 1) (again 1)).que.launches.isEmpty
      && (match groupOf pl 1 0 with | some g => g.threads == List.replicate 32 (Thread.start 0 4) && g.arg == 0x100 && g.gcount == 1 | none => false)
      && freeSlot (coreOf s 1) == some 0 && coreRuns s 1 && !launchBehind (withLN LN s) 0 LN 1 && (allocAreas (withLN LN s) 1 0 0 0).isSome
      && allPlaced { LN with placed := [(1, 1)] } && fin.que.launches.isEmpty && fin.sync.msgs.map (fun m => m.obj) == [9]) = true := by decide +kernel

/-- A park request. -/
def PK : ParkReq := { cause := 2, precise := true, contained := false, pc := 3, info := 0, addr := 0x101, mask := 1, subset := 1, removed := 0 }
/-- A group of 32 threads of which thread 0 is live. -/
def G32 : Group := { G [] with threads := T 3 [5] :: List.replicate 31 Thread.gone }
/-- A core 0 whose slot 0 holds a group that has faulted. -/
def faulted (g : Group) : State := onCore (fun c => { c with slots := setAt c.slots 0 (some { g with park := some PK }) }) (F (S []))
/-- A core 0 whose record 0 holds a group: the fields that REPLAY compares stand in the record. -/
def parked : State :=
  let s := onCore (fun c => { c with slots := setAt c.slots 0 none, recs := [{ Rec.reset with st := .parked, grp := some G32, cause := 0x10102, age := 1, kernel := 1, live := 1 }] }) (F (S []))
  [(0, [2, 1, 1]), (0x18, [1]), (0x20, [1]), (0x34, [1]), (0x44, [255, 255, 255, 255]), (0x80, [3])].foldl (fun s e => memPut s (recAddr 0 0 + e.1) e.2) s
/-- Record 0 of core 0. -/
def rec0 (s : State) : Rec := nth (coreOf s 0).recs 0 Rec.reset

/-- GroupRecords: a state that meets the hypotheses about PARK; a group of one thread parks in record 0, and one that has not faulted does not. -/
theorem test_park :
    let p := nx (.park U0) (faulted (G [T 3 [5]]))
    ((groupOf p 0 0).isNone && (rec0 p).st == .parked && memNat p (recAddr 0 0) 4 == 0x10102 && memNat p (recAddr 0 0 + 8) 4 == 3
    && memNat p (recAddr 0 0 + 0x34) 4 == 1 && mayLeave (faulted G32) 0 G32 && freeRec (coreOf (faulted G32) 0) == some 0 && G32.threads.length == 32
    && coreRuns (faulted G32) 0 && idle (.park U0) (S [T 3 []])
    && (SMap.get? (faulted G32).ctxs 0).map (fun c => (descOf (faulted G32) c.evq).isNone) == some true) = true := by decide +kernel

/-- GroupRecords: a group in a WAIT leaves for a launch when no slot is free. -/
theorem test_suspend :
    let full := onCore (fun c => { c with slots := List.replicate 32 (some { G32 with age := 2 }) }) (obj [wt 0 9 none] [] (S [T 3 []]))
    let s := withLN { LN with cores := 1 } (onCore (fun c => { c with slots := setAt c.slots 0 (some { G32 with wait := .sync 8 1 }) }) full)
    ((waitObj s 0 1).isSome && launchWaits s 0 == 1 && (freeSlot (coreOf s 0)).isNone && (regGetD s (regAddr .thr 0 0) 0x110).testBit 8
      && (rec0 (nx (.suspend U0) s)).st == .suspended && (groupOf (nx (.suspend U0) s) 0 0).isNone) = true := by decide +kernel

/-- The park control of core 0. -/
def pctl (v : W64) : RegWr := fwWr .thr 0 0x018 v
/-- PARKCTL_RESULT. -/
def pres (s : State) : Nat := regGet s (regAddr .thr 0 8) / 2 ^ 40

/-- GroupRecords: REPLAY and ABORT of a FREE and of a PARKED record, changed and not; PRESUME on its own context's record; a RESTORING record. -/
theorem test_park_control :
    let good : State := { parked with kernels := [(1, { K0 with reach := [3] })] }
    let p : State := onCore (fun c => { c with slots := setAt c.slots 1 (some { G [T 3 [0]] with age := 5 }) }) good
    let u : Issue := { core := 0, slot := 1, chk := .clean }
    let w : BitVec 30 → Lpk := fun a => W 8 0 0 a
    let iss1 : State → Bool := fun s => (issueBegin s u .presume (w 2) anyRoom).isSome && lpkValid .presume (w 2)
    let r8 : State → Option W32 := fun t => (groupOf t 0 1).map (fun g => gReg g 0 8)
    let rs := onCore (fun c => { c with recs := setAt c.recs 0 { Rec.reset with st := .restoring, grp := some G32, loaded := true } }) (S [])
    let rs := onCore (fun c => { c with slots := setAt c.slots 0 none }) rs
    (pres (nx (.parkctlReplay (pctl 0x100)) (F (S []))) == 1 && pres (nx (.parkctlAbort (pctl 0x21F)) (F (S []))) == 1
      && pres (nx (.parkctlAbort (pctl 0x200)) parked) == 0 && rec0 (nx (.parkctlAbort (pctl 0x200)) parked) == Rec.reset
      && badRecord parked 0 0 (rec0 parked) G32 && pres (nx (.parkctlReplay (pctl 0x100)) parked) == 2
      && !badRecord good 0 0 (rec0 good) G32 && pres (nx (.parkctlReplay (pctl 0x100)) good) == 0 && (rec0 (nx (.parkctlReplay (pctl 0x100)) good)).st == .free
      && iss1 p && r8 (nx (.presume u (w 2)) p) == some 0 && r8 (nx (.presume u (w 1)) { p with kernels := [] }) == some 2
      && r8 (nx (.presume u (w 2)) (onCore (fun c => { c with recs := [] }) p)) == some 1
      && (nx (.suspendedRestore 0 0) rs |> fun t => (groupOf t 0 0).isSome && rec0 t == Rec.reset)) = true := by decide +kernel

/-- A native sweep of 32 K positions of bank 0 over an activation tensor at 0x8000. -/
def NV : Native :=
  { banks := [0], mode := 0, afmt := 1, wfmt := 1, act := { mbase := 0x8000, sbase := 0x9000, mpitch := 32, spitch := 1, rows := 1, cols := 32, fmt := 1, trk := false, tracker := 0 },
    koff := 0, start := 0, k := 32, retire := false, ctx := 0, slot := 0, age := 1, serial := 0 }
/-- The sums of such a sweep: one cell of 1, with the check cells given. -/
def PH (rowChk colChk : Int) (again : Bool) : Phys :=
  { bank := 0, native := NV, pass := 0, replayed := again, injected := false, acc := [[1]], chkRow := [colChk], chkCol := [rowChk], rowE := [127], colE := [127],
    rowNan := [], colNan := [], dup := 0, operandBad := false }
/-- A matrix-queue entry. -/
def ME (op : MatOp) : MatEntry := { slot := 0, age := 1, ctx := 0, launch := 1, pc := 3, op := op, checked := false }
/-- Core 0's banks and matrix queue. -/
def withBanks (l : List LBank) (q : List MatEntry) (s : State) : State := onCore (fun c => { c with banks := l, matq := q }) s
/-- A drain of bank 0 to an FP32 destination of 2 rows by 2 columns at 0x2000. -/
def DR : Drain :=
  { slot := 0, age := 1, ctx := 0, launch := 1, pc := 3, dst := { mbase := 0x2000, sbase := 0, mpitch := 8, spitch := 0, rows := 2, cols := 2, fmt := 3, trk := false, tracker := 0 },
    rowOff := 0, colOff := 0, sig := false, vs := 0, dead := false, fuse := false, out := 1, bind := none, serial := 0 }
/-- A bank that is being drained. -/
def LD (d : Drain) (buf : List (List W32)) : LBank := { LBank.reset with st := .closing, buf := some buf, drain := some d }
/-- A bank drained through a chain of one stage whose operation is given. -/
def fused (st : Nat) : State :=
  let s := memPut (F (S [T 3 []])) 0x100000006 [1, 0, 4]
  withBanks [LD { DR with fuse := true, bind := some (0, 0) } (List.replicate 2 (List.replicate 2 0x3F800000))] [] (memPut s 0x100000040 (natBytes 8 (st * 2 ^ 58)))

/-- MatrixQueue: the matrix instructions enter the queue with the registers of the lowest active thread. -/
theorem test_matrix_enters :
    let s := S [T 3 [1, 2, 3, 4]]
    ([(LOp.msweep, Instr.msweep, W 1 2 3 0 32), (.mzero, .mzero, W 0 0 0 3), (.mwload, .mwload, W 1 2 3 1), (.mdrain, .mdrain, W 1 2 3 4), (.mcheck, .mcheck, W 2 0 0 3),
      (.mwreset, .mwreset, W 0 0 0 1)] : List (LOp × (Issue → Lpk → Instr) × Lpk)).all (fun e =>
        issues e.1 e.2.2 s matRoom && ((coreOf (nx (e.2.1 U e.2.2) s) 0).matq.map (fun x => x.checked)) == [false]) = true
    ∧ (coreOf (nx (.mwload U (W 1 2 3 1)) s) 0).matq.map (fun x => x.op) = [.wload 2 3 4 1] := by decide +kernel

/-- MatrixQueue: MZERO of an OPEN bank, of one that is CLOSING and of another context's; MWRESET; MCHECK that clears. -/
theorem test_matrix_head :
    let s := S [T 3 []]
    let z := fun (l : LBank) => withBanks [l] [ME (.zero 0)] s
    let own : LBank := { LBank.reset with st := .opened, owner := 0 }
    let r := withBanks [] [ME (.wreset 1)] s
    let c := regPut (withBanks [] [ME (.check true 0 8 1)] s) (regAddr .mat 0 0x030) 0x2_80000105
    (bankOf (nx (.matqHead 0) (z own)) 0 0 == LBank.reset && idle (.matqHead 0) (z { own with st := .closing })
      && (g0 (nx (.matqHead 0) (z { own with owner := 1 }))).park.map (fun p => p.cause) == some 0x43
      && (coreOf (nx (.matqHead 0) r) 0).matq == [] && !arrBusy (coreOf r 0) 1 && !fillBusy (coreOf r 0) 1
      && gReg (g0 (nx (.matqHead 0) c)) 0 8 == 0x80000105 && gReg (g0 (nx (.matqHead 0) c)) 0 9 == 2
      && regGet (nx (.matqHead 0) c) (regAddr .mat 0 0x030) == 0x200000000) = true := by decide +kernel

/-- MatrixQueue: a canonical MSWEEP of 1,056 splits into 512, 512 and 32 (02 Table 2.6). -/
theorem test_canonical_split : splitLens true 4096 ([], 0, 1) 3 33 1056 = [512, 512, 32] := by decide +kernel

/-- SweepsAndDrains: a sweep that is due; sums whose check holds, with one mismatch, and with one after a replay. -/
theorem test_sweeps_and_drains :
    let s := S [T 3 []]
    let due := onCore (fun c => { c with stage := { Stage.reset with todo := [NV] } }) s
    let ph := fun (p : Phys) => onCore (fun c => { c with arrays := [{ Arr.reset with phys := [some p, none] }], banks := [{ LBank.reset with st := .opened, owner := 0 }] }) s
    (rowsHere (ringOf due 0 0) NV && actsHere due NV && (injectArmed due 0 0).isNone && coreRuns due 0
      && failures (PH 1 1 false) == [] && failures (PH 2 1 false) == [(0, 255)] && failures (PH 2 2 false) == [(0, 0)] && failures (PH 1 2 true) == [(255, 0)]
      && (readNext (arrOf (ph (PH 1 1 false)) 0 0)).isSome && (readNext (arrOf (ph (PH 1 2 true)) 0 0)).isSome
      && ((arrOf (nx (.drainRead 0 0) (ph (PH 2 2 false))) 0 0).replay).isSome
      && (bankOf (nx (.drainRead 0 0) (ph (PH 2 2 true))) 0 0).st == .failed) = true := by decide +kernel

/-- SweepsAndDrains: a delivery writes its rows and no other byte; a fused delivery passes its chain or parks with VEC_DESC. -/
theorem test_deliveries :
    let s := withBanks [LD DR [[1, 2, 3], [4, 5, 6]]] [] (F (S [T 3 []]))
    let t := nx (.drainDelivery 0 0) s
    let d : Drain := { DR with fuse := true, bind := some (0, 0) }
    (deliverNext s 0 0 == some (0, DR) && deliverReady s 0 0 DR && (List.range 20).map (fun i => memByte t (0x1FFE + i)) == [0, 0, 1, 0, 0, 0, 2, 0, 0, 0, 4, 0, 0, 0, 5, 0, 0, 0, 0, 0]
      && bankOf t 0 0 == LBank.reset
      && fusedNext (fused 2) 0 == some (0, d) && fusedReady (fused 2) 0 0 d && partner (fused 2) 0 0 d == none
      && (setupRun (fused 2) 0 (g0 (fused 2)) 0 0 (0, 0, 0) (some (fusedRows (fused 2) 0 0 d none))).isSome
      && (setupRun (fused 0) 0 (g0 (fused 0)) 0 0 (0, 0, 0) (some (fusedRows (fused 0) 0 0 d none))).isNone
      && bankOf (nx (.fusedDelivery 0 0 .clean) (fused 2)) 0 0 == LBank.reset && (g0 (nx (.fusedDelivery 0 0 .clean) (fused 2))).park == none
      && (g0 (nx (.fusedDelivery 0 0 .clean) (fused 0))).park.map (fun p => p.cause) == some 0x52) = true := by decide +kernel

/-- WeightBufferAndRegisters: a BIT8 row lands in its slot or waits for it, a window with and without its array at work, the residue words, MAT_INJECT. -/
theorem test_weight_buffer :
    let l : WLoad := { first := 0, rows := 32, src := { mbase := 0x8000, sbase := 0, mpitch := 32, spitch := 0, rows := 2, cols := 32, fmt := 5, trk := false, tracker := 0 }, koff := 0, scaled := 0, landed := 1, ctx := 0, held := [] }
    let f := fun (l : WLoad) => onCore (fun c => { c with rings := [{ Ring.reset with fmt := some 5, stop := 32, loads := [l] }] }) (memPut (memPut (F (S [])) 0x8001 [7]) 0x8021 [9])
    let t := nx (.fillRowLand 0 0) (f l)
    let a := { A0 (.ld 4 false) (.wbuf 0) (wbufBase 0) .waiting with st := .held }
    let w := acc a (memPut (F (S [T 3 []])) (wbufBase 0) [5])
    let b := onCore (fun c => { c with rings := [{ Ring.reset with loads := [l] }] }) w
    let old := fun (t : State) => (SMap.get? (coreOf t 0).accs 0).map (fun e => e.lanes.map (fun y => y.old))
    let m := regPut (regPut State.reset (regAddr .mat 0 0x030) 0x300000001) (regAddr .mat 0 0x038) 0x400000001
    (memByte t (wbufBase 0 + 128) == 7 && memByte t (wbufBase 0 + 129) == 9 && memByte t (wbufBase 0 + 130) == 0
      && idle (.fillRowLand 0 0) (f { l with first := 2048, landed := 0 }) && !idle (.fillRowLand 0 0) (f { l with first := 2047, landed := 0 })
      && mayPerform w 0 0 a && old (nx (.wbufWindowAccess 0 0) w) == some [5] && mayPerform b 0 0 a && old (nx (.wbufWindowAccess 0 0) b) == some [0]
      && (regGet (nx (.wbufWindowAccess 0 0) b) (regAddr .mat 0 8)).testBit 40
      && regGet (nx (.matClrCheck (fwWr .mat 0 0x040 6)) m) (regAddr .mat 0 0x030) == 0x300000000
      && injectOpen m && regGet (nx (.matInjectArm (fwWr .mat 0 0x048 0xFFFFFFFF)) m) (regAddr .mat 0 0x048) == 0x7F7F07
      && (let d : State := { m with sec := { m.sec with lcs := 3 } }; !injectOpen d && idle (.matInjectArm (fwWr .mat 0 0x048 1)) d)) = true := by decide +kernel

/-- A module whose home slice holds line 2 (address 0x100), which holds the bytes 1 to 4 at its start. -/
def HL (s : State) : State :=
  let s := memPut (F s) 0x100 [1, 2, 3, 4]
  { s with mem := { s.mem with slices := [(homeSlice 0x100, [L0 2 .home])] } }
/-- The first bytes of line 2. -/
def l2 (s : State) : Nat := memNat s 0x100 8

/-- HomeSliceAccesses: a load that hits and one that misses, a store, an atomic and an ACCUM that makes a RED line. -/
theorem test_home_slice :
    let s := S [T 3 []]
    let a := fun op => { A0 op .home 0x100 .held 0xAABB with todo := [] }
    let go := fun (op : MemOp) (s : State) => nx (.sliceAccess 0 0) (acc (a op) s)
    let ac := fun (s : State) => SMap.get? (coreOf s 0).accs 0
    let miss := F s
    let red := go (.at .add true) miss
    (mayPerform (acc (a (.ld 4 false)) (HL s)) 0 0 (a (.ld 4 false)) && !redLeaving (HL s) 2 && (homeLine (HL s) 2).isSome && (homeLine miss 2).isNone
      && (ac (go (.ld 4 false) (HL s))).map (fun e => e.lanes.map (fun l => l.old)) == some [0x04030201]
      && (ac (go (.ld 4 false) miss)).map (fun e => e.st) == some .filling && (16 * dieOf 0 + sliceHash 0x100 == homeSlice 0x100)
      && l2 (go (.st 2) (HL s)) == 0x0403AABB && (ac (go (.st 2) (HL s))).isNone
      && l2 (go (.at .add false) (HL s)) == 0x0403ACBC
      && redEligible miss (homeSlice 0x100) 0 false false && redKindOf .add == some 0 && cacheable miss 0x100 && !fillPending miss 2
      && (homeLine red 2).map (fun y => (y.kind, nth y.part 0 0, nth y.part 1 0)) == some (.red, 0xAABB, 0) && l2 red == 0) = true := by decide +kernel

/-- A fill of line 2. -/
def FL (who : FillFor) (waiting : Bool) (s : State) : State :=
  { s with mem := { s.mem with fills := [(0, { line := 2, who := who, waiting := waiting, bad := false, late := false })], nextFill := 1 } }

/-- FillsAndEvictions: a channel that answers with and without errors, an eviction's adder, a fill that returns, a far line, a refresh. -/
theorem test_fills :
    let s := HL (S [T 3 []])
    let rl : SLine := { L0 2 .red with part := List.replicate 32 1 }
    let red : State := { s with mem := { s.mem with slices := [(homeSlice 0x100, [rl])] } }
    let ch := fun l => nx (.channelAccess 0 l) (FL (.access 0 0) true s)
    let fl := fun (s : State) => SMap.get? s.mem.fills 0
    let ev := nx (.channelAccess 0 []) (FL .redEvict true { red with mem := { red.mem with slices := [(homeSlice 0x100, [{ rl with evicting := true }])] } })
    let a : Access := { A0 (.ld 4 false) .home 0x100 .filling with todo := [] }
    let back := nx (.sliceFill 0) (acc a (FL (.access 0 0) false s))
    let pf := nx (.sliceFill 0) (FL (.prefetch 0) false (F (S [])))
    let r : Access := { A0 (.ld 4 false) (.module 2) 0x100 .response with region := some 1, data := List.replicate 128 7, todo := [] }
    let far := nx (.farLineFill 0 0) (acc r s)
    ((fl (ch [])).map (fun f => (f.waiting, f.bad)) == some (false, false) && !cicHeld s 2
      && (fl (ch [3, 0, 0, 0])).map (fun f => (f.waiting, f.bad)) == some (false, true) && (ch [3, 0, 0, 0]).mem.badCw == [8]
      && memNat ev 0x100 4 == 0x04030202 && memNat ev 0x17C 4 == 1 && memNat ev 0x180 4 == 0
      && (SMap.get? (nx (.redEviction 2) red).mem.fills 0).isNone == false
      && idle (.redEviction 2) { red with mem := { red.mem with slices := [(homeSlice 0x100, [{ rl with evicting := true }])] } }
      && (SMap.get? (coreOf back 0).accs 0).map (fun e => e.lanes.map (fun l => l.old)) == some [0x04030201]
      && (homeLine pf 2).map (fun y => y.pf) == some (some 0) && !lineBad s 2
      && (regionAt s 1).valid && (slcCfg s (farSlice s 0 (globLine r))).testBit 0 && (findLine far (farSlice s 0 (globLine r)) (isFar (globLine r))).isSome
      && (findLine (nx (.farLineFill 0 0) (acc { r with stale := true } s)) (farSlice s 0 (globLine r)) (isFar (globLine r))).isNone
      && (findLine (nx (.farLineFill 0 0) (acc { r with queued := true } s)) (farSlice s 0 (globLine r)) (isFar (globLine r))).isNone
      && idle (.edramRefresh 63 31) s) = true := by
  decide +kernel

/-- ScrubSteps: the last line and the one before, each finding, a line of a context and one of none. -/
theorem test_scrub :
    let s := F (S [])
    let k := scrubCode .edram * 256 + 63
    let at_ : Nat → State := fun i => { s with mem := { s.mem with scrub := [(k, i)] } }
    let pos := fun (t : State) => SMap.getD t.mem.scrub k 0
    let p := memPut s (spadBase 1) [5]
    let e := nx (.scrubStep .edram 0 (.uncorrectable 3)) s
    (scrubRuns s .edram 63 && pos (nx (.scrubStep .edram 63 .clean) (at_ 524287)) == 0 && pos (nx (.scrubStep .edram 63 .correctable) (at_ 524286)) == 524287
      && (scrubTarget s .edram 0 0).2.isSome && e.mem.badCw == [(scrubTarget s .edram 0 0).1.getD 0 / 32 + 3]
      && scrubRuns s .scratchpad 1 && (scrubTarget s .scratchpad 1 0).2.isNone && memByte (nx (.scrubStep .scratchpad 1 (.uncorrectable 0)) p) (spadBase 1) == 0) = true := by
  decide +kernel

/-- The descriptor of a DMA copy of three bytes. -/
def DD (src dst : Nat) (fmt : Nat := 5) : List Byte := natBytes 8 src ++ natBytes 8 dst ++ natBytes 8 (2 + fmt * 2 ^ 20 + fmt * 2 ^ 24) ++ List.replicate 40 0
/-- A DMA-queue entry. -/
def DE (off : Nat) : DmaEntry := { slot := 0, age := 1, ctx := 0, pc := 3, engine := 0, off := off }

/-- DmaEngine: the queue's entries, the fence, a descriptor at the end of the area and beyond it, a check that fails, a copy, a fault. -/
theorem test_dma :
    let s := S [T 3 [64]]
    let q := fun off bs => memPut (onCore (fun c => { c with dmaq := [DE off] }) (F s)) (0x100000000 + off) bs
    let ok := nx (.dmaqDispatch 0) (q 0x3FC0 (DD 0x2000 0x3000))
    let cause := fun (t : State) => (g0 t).park.map (fun p => p.cause)
    let job := memPut ok 0x2000 [7, 8, 9]
    let here : State := { job with mem := { job.mem with slices := [(homeSlice 0x2000, [L0 64 .home])] } }
    let done := nx (.descriptorComplete 0 0) here
    let miss := nx (.descriptorComplete 0 0) job
    let back := nx (.sliceFill 0) (nx (.channelAccess 0 []) miss)
    let f := nx (.dmafence U (W 0 0 0)) s
    let bad : State := { ok with jobs := ok.jobs.map (fun e => (e.1, { e.2 with failed := 0x33, failAddr := 5 })) }
    let dq : QDesc := { Q 1 2 with prod := 1 }
    let queued := memPut { F s with que := { (F s).que with descs := [(1, dq)] } } 0x1000 (DD 0x2000 0x3000)
    let qbad := memPut { F s with que := { (F s).que with descs := [(1, dq)] } } 0x1000 (DD 0x2000 0x3000 7)
    (issues .dma (W 0 0 0) s dmaRoom && (coreOf (nx (.dma U (W 0 0 0)) s) 0).dmaq.map (fun e => (e.engine, e.off)) == [(0, 64)]
      && issues .gather (W 0 0 0 1) s dmaRoom && (coreOf (nx (.gather U (W 0 0 0 1)) s) 0).dmaq.map (fun e => e.engine) == [2]
      && (g0 f).wait == .dmafence && dmaDone f 0 1 && (g0 (nx (.dmafenceComplete U0) f)).wait == .none
      && idle (.dmafenceComplete U0) (onCore (fun c => { c with dmaq := [DE 0] }) f)
      && (coreOf ok 0).dmaq == [] && ok.jobs.length == 1 && cause (nx (.dmaqDispatch 0) (q 0x4000 (DD 0x2000 0x3000))) == some 0x30
      && cause (nx (.dmaqDispatch 0) (q 0 (DD 0x2000 0x3000 7))) == some 0x30 && cause (nx (.dmaqDispatch 0) (q 0 (DD 0x2001 0x3000 3))) == some 0x38
      && (SMap.get? here.jobs 0).map (fun j => (jobFault here j).isNone && j.left.length == 1 && j.left.all (fun m => m.ix == 0 && m.n == 3) && j.left == plan j
        && actOk here 0 j (false, 0) && actOk job 0 j (false, 0) && (jobsBefore here 0 j).length == 0 && j.op == 0 && 3 ≤ j.sfmt) == some true
      && memNat done 0x3000 4 == 0x090807 && done.jobs.isEmpty && (homeLine here 64).isSome && (homeLine job 64).isNone && !rangeHeld here 0x3000 3
      && (SMap.get? miss.mem.fills 0).map (fun f => (f.line, f.who)) == some (64, .job 0 0) && miss.jobs.length == 1
      && (SMap.get? back.jobs 0).map (fun j => j.going.map (fun p => (p.want, (SMap.get? p.got 64).map (fun l => l.bytes.take 3)))) == some [([], some [7, 8, 9])]
      && memNat (nx (.descriptorComplete 0 0) back) 0x3000 4 == 0x090807
      && cause (nx (.descriptorFault 0 0 none) bad) == some 0x33 && (nx (.descriptorFault 0 0 none) bad).jobs.isEmpty
      && (nx (.dmaQueueTake 1) queued).jobs.length == 1 && (nx (.dmaQueueTake 1) qbad).jobs.isEmpty && field dq.bind 4 2 != 3
      && !isPreempted queued 0 && !isQuiesced queued 0) = true := by decide +kernel

/-- A connection in use. -/
def CN : Conn := { Conn.reset with st := .active }
/-- A port that is ACTIVE. -/
def P5 : Port := { Port.reset with st := 5, credits := [8, 8, 8, 8], health := 0xFFFF, peerMask := 0xFFFF }
/-- Module 1 with a connection to module 2 over port 0. -/
def FB (c : Conn) (s : State) : State :=
  let s := F s
  let s : State := { s with fab := { s.fab with conns := [(2, c)], ports := P5 :: List.replicate 15 Port.reset } }
  (List.range 4).foldl (fun s d => regPut s (regAddr .fab d (0x100000 + 16)) (2 ^ 63 + 2 ^ 32 + 1)) s
/-- A transaction from module 2 to module 1. -/
def TX (ty : Nat) (op len : Nat) (pay : List Byte) (seq : W32 := 1) : Txn :=
  { ty := ty, op := op, flag := false, noalloc := false, retx := false, dst := 1, src := 2, tag := 0, ridx := 0, addr := 0x100, len := len, sctx := 0, key := 5, seq := seq,
    arg0 := 7, arg1 := 9, payload := pay }
/-- A transaction of module 1 to module 2 that is not acknowledged. -/
def UA (ty : Nat) (who : Issuer) (seq : W32 := 1) : Unack := { t := { TX ty 0 4 [] seq with dst := 2, src := 1 }, who := who, first := 0, last := 0, port := some 0 }
/-- A response of module 2. -/
def RS (ty status : Nat) (seq : W32) (data : List Byte) : Resp := { ty := ty, status := status, src := 2, dst := 1, seq := seq, data := data }
/-- The connection to module 2. -/
def cn (s : State) : Conn := connOf s 2
/-- The types of the responses that the module has sent. -/
def rsps (s : State) : List (Nat × Nat) := s.fab.out.filterMap (fun o => match o with | .resp _ r => some (r.ty, r.status) | _ => none)
/-- A job of an engine that waits for part 0. -/
def EJ : EngJob :=
  { cluster := 0, engine := 0, ctx := 0, origin := .group 0 0 1 3, launch := some 1, core := 0, addr := 0, bytes := DD 0x2000 0x3000, src := none, dst := none, idx := [],
    left := [], lines := [], reads := [(0, 0x2000, 4)], parts := 1, flags := 0, failed := 0, failAddr := 0, failStatus := 0,
    going := [{ mv := { src := some 0x2000, dst := 0x3000, row := 0, c := 0, n := 3, oob := false, ix := 0, fin := true, last := true }, want := [], wantR := [0],
                got := [], far := [], written := false, acks := [] }] }

/-- FabricSourceSide: the fabric queue, its fence, FSTATUS; a number given to a waiting transaction and to a queue entry. -/
theorem test_fabric_source :
    let s := S [T 3 [2, 5]]
    let q := nx (.fsignal U (W 0 0 1 1)) s
    let f := nx (.fqfence U (W 0 0 0)) s
    let st := nx (.fstatus U (W 8 0 0)) (FB { CN with unack := [UA 2 .mcp] } s)
    let o : OutTxn := { t := { TX 2 0 4 [1, 2, 3, 4] with dst := 2, src := 0 }, who := .mcp }
    let w := fun (c : Conn) => let t := FB c s; ({ t with fab := { t.fab with waiting := [o] } } : State)
    let e : FabEntry := { slot := 0, age := 1, ctx := 0, pc := 3, op := .signal, d := 0, entry := 1, id := 2, value := 5, len := 0, ord := 0, mask := 1, sent := false }
    let fq := fun (e : FabEntry) => onCore (fun c => { c with fabq := [e] }) (FB CN s)
    (issues .fsignal (W 0 0 1 1) s fabqRoom && (coreOf q 0).fabq.map (fun e => (e.entry, e.id, e.value)) == [(1, 2, 5)]
      && issues .fmsg (W 0 0 1 (1 + 32 * 2 ^ 12)) s fabqRoom && issues .fqfence (W 0 0 0) s && (g0 f).wait == .fqfence
      && (g0 (nx (.fqfenceComplete U0) f)).wait == .none && idle (.fqfenceComplete U0) (onCore (fun c => { c with fabq := [e] }) f)
      && gReg (g0 st) 0 8 == 1 && gReg (g0 st) 0 9 == 1
      && !engineWaits CN o.t && engineWaits { CN with unack := [{ UA 2 .mcp with t := { o.t with tag := 64 } }] } { o.t with tag := 64 }
      && choosePort (w CN) 2 2 (msgVc (.txn o.t)) none == some 0 && (cn (nx (.numberSend 0) (w CN))).next == 2 && (cn (nx (.numberSend 0) (w CN))).unack.length == 1
      && (nx (.numberSend 0) (w CN)).fab.out.contains (.txn 0 { o.t with src := 1, seq := 1 }) && idle (.numberSend 0) (w { CN with st := .resetting })
      && fenceDone (fq e) 0 1 0 1 1 && (match fabqTxn (fq e) 0 e with | .ok y => y.dst == 2 && y.ty == 5 | _ => false)
      && (cn (nx (.numberSend 0) (fq e))).unack.map (fun u => u.t.ty) == [5]
      && (g0 (nx (.numberSend 0) (fq { e with entry := 0 }))).park.map (fun p => p.cause) == some 0x60) = true := by decide +kernel

/-- FabricSourceSide: RTO and the 20 µs at their boundaries, ACK, the responses of READ and ATOMIC, NAK. -/
theorem test_fabric_responses :
    let s := S [T 3 [2, 5]]
    let u := UA 2 (.engine 0 0)
    let at_ : Nat → State := fun now => { FB { CN with unack := [u] } s with now := now, jobs := [(0, EJ)] }
    let rto := rtoOf (at_ 0) 2
    let ak := FB { CN with unack := [UA 2 .mcp, UA 1 (.engine 0 0) 2, UA 2 .mcp 3] } s
    let rd : State := { FB { CN with unack := [UA 1 (.engine 0 0)] } s with jobs := [(0, EJ)] }
    let a : Access := { A0 (.at .add false) (.module 2) 0x100 .remote with todo := [], unanswered := [0] }
    let am := acc a (FB { CN with unack := [UA 4 (.thread 0 0 0)] } s)
    let job := fun (t : State) => (SMap.get? t.jobs 0).map (fun j => (j.failed, (j.going.flatMap (fun p => p.far)).length, j.reads.length))
    (rto == 600 + 100 * 7 && (cn (nx (.rtoExpiry 2 1) (at_ rto))).unack.map (fun v => v.last) == [rto] && idle (.rtoExpiry 2 1) (at_ (rto - 1))
      && (nx (.rtoExpiry 2 1) (at_ rto)).fab.out.contains (.txn 0 { u.t with retx := true })
      && (cn (nx (.transactionTimeout 2 1) (at_ 20000))).st == .unreachable && job (nx (.transactionTimeout 2 1) (at_ 20000)) == some (0x35, 0, 1)
      && idle (.transactionTimeout 2 1) (at_ 19999)
      && seqCovers 2 0 && (cn (nx (.fabricAckReceive (RS 0 0 2 [])) ak)).unack.map (fun v => v.t.seq) == [2, 3]
      && job (nx (.readRspReceive (RS 1 0 1 [1, 2, 3, 4])) rd) == some (0, 1, 0) && (cn (nx (.readRspReceive (RS 1 0 1 [1, 2, 3, 4])) rd)).unack.isEmpty
      && (SMap.get? (coreOf (nx (.atomicRspReceive (RS 2 0 1 [4, 3, 2, 1])) am) 0).accs 0).map (fun e => e.lanes.map (fun l => l.old)) == some [0x01020304]
      && job (nx (.nakReceive (RS 3 9 1 [])) rd) == some (0x33, 0, 1) && job (nx (.nakReceive (RS 3 2 1 [])) rd) == some (0x34, 0, 1)) = true := by decide +kernel

/-- FabricTargetSide: each type of transaction performed, refused, duplicate, held and released; acknowledgements, the store, transit. -/
theorem test_fabric_target :
    let s := memPut (Y (S [T 3 []])) 0x100 [1, 2, 3, 4]
    let b := FB CN s
    let q := { b with que := { b.que with descs := [(0x100, { Q 3 with remote := true })] } }
    let full := { b with que := { b.que with descs := [(0x100, { Q 3 with remote := true, prod := 16 })] } }
    let sg := { TX 5 0 0 [] with addr := 3 }
    let m := TX 6 0 32 (List.replicate 32 6)
    let w := TX 2 0 4 [9, 8, 7, 6]
    let ahead := { w with flag := true, seq := 2 }
    let held := nx (.fabricWriteReceive 0 ahead) b
    let at1 : State := FB { CN with a := 1, held := (cn held).held } s
    let st := fun (now : Nat) => ({ FB { CN with stored := [⟨5, 1, 0, 0⟩] } s with now := now } : State)
    let tr := { w with dst := 2 }
    (admitStatus b w == 0 && !txnHeld b w && !rangeBad b 0x100 4
      && rsps (nx (.fabricReadReceive 0 (TX 1 0 4 [])) b) == [(1, 0)] && (cn (nx (.fabricReadReceive 0 (TX 1 0 4 [])) b)).a == 1
      && rsps (nx (.fabricReadReceive 0 (TX 1 0 4 [])) { b with mem := { b.mem with badCw := [8] } }) == [(3, 9)]
      && memNat (nx (.fabricWriteReceive 0 w) b) 0x100 4 == 0x06070809
      && memNat (nx (.fabricAccumReceive 0 (TX 3 1 4 [1, 0, 0, 0])) b) 0x100 4 == 0x04030202
      && storeRoom b 0 && memNat (nx (.fabricAtomicReceive 0 (TX 4 2 0 [])) b) 0x100 4 == 0x0403020A && rsps (nx (.fabricAtomicReceive 0 (TX 4 2 0 [])) b) == [(2, 0)]
      && (nx (.fabricSignalReceive 0 sg) b).sync.msgs.map (fun m => m.obj) == [9] && rsps (nx (.fabricSignalReceive 0 { sg with addr := 1 }) b) == [(3, 8)]
      && rsps (nx (.fabricMsgReceive 0 m) b) == [(3, 6)] && rsps (nx (.fabricMsgReceive 0 m) full) == [(3, 7)]
      && (SMap.get? (nx (.fabricMsgReceive 0 m) q).que.descs 0x100).map (fun d => d.prod) == some 1 && memByte (nx (.fabricMsgReceive 0 m) q) 0x101F == 6
      && admitStatus b { w with key := 6 } == 1 && rsps (nx (.fabricWriteReceive 0 { w with key := 6 }) b) == [(3, 1)]
      && admitStatus b { w with addr := 0xFFFFFC } == 0 && admitStatus b { w with addr := 0x1000000 } == 3
      && rsps (nx (.fabricWriteReceive 0 { w with seq := 0 }) b) == [(0, 0)] && (cn held).held.length == 1 && memNat held 0x100 4 == 0x04030201
      && idle (.flagRelease 2 2) held && memNat (nx (.flagRelease 2 2) at1) 0x100 4 == 0x06070809
      && rsps (nx (.ackSend 2) (FB { CN with ackDue := true } s)) == [(0, 0)] && idle (.ackSend 2) b
      && (cn (nx (.atomicRspExpire 2 5) (st 40000))).stored == [] && idle (.atomicRspExpire 2 5) (st 39999)
      && (nx (.transitForward 0 (.txn tr)) b).fab.out.contains (.txn 0 tr) && (nx (.transitForward 0 (.txn { tr with dst := 3 })) b).fab.out == []) = true := by
  decide +kernel

/-- A flit of a KIND with an LSEQ, an ACK (with ACKV) and a payload. -/
def FLT (kind lseq : Nat) (pay : List Byte) (ack : Option Nat := none) : Flit :=
  { bytes := flitBytes { kind := kind, vc := 0, sot := true, eot := true, lseq := lseq, ack := ack.getD 0, ackv := ack.isSome, replay := false, crvc0 := 1, crcnt0 := 3, crvc1 := 0,
                         crcnt1 := 0, paylen := pay.length } pay, place := 0, errs := (0, 0) }
/-- A module whose port 0 is `x`. -/
def PT (x : Port) : State := { State.reset with fab := { State.reset.fab with ports := x :: List.replicate 15 Port.reset }, fabricId := some 1, now := 5000 }
/-- Port 0. -/
def p0 (s : State) : Port := portOf s 0
/-- The KINDs of the flits sent. -/
def sent (s : State) : List Nat := s.fab.out.filterMap (fun o => match o with | .flit _ b => some (flitHdr b).kind | _ => none)

/-- LinkBehaviour: a flit in order, an old one, the last LSEQ taken as old and the first taken as ahead, a corrupt one; IDLE; RETRY_REQ. -/
theorem test_link_flits :
    let x : Port := { P5 with expect := 4095, lastRx := 4000 }
    let rxd := fun (raw : Flit) => nx (.dataFlitReceive 0 raw) (PT x)
    let ok := FLT 1 4095 [1, 2, 3, 4, 5, 6, 7, 8]
    let rp : Port := { x with replay := [⟨7, 0, true, true, [9]⟩, ⟨8, 1, true, true, [5]⟩] }
    let rr := nx (.retryReqReceive 0 (FLT 2 0 [] (some 7))) (PT rp)
    (flitOk ok && receives x && (p0 (rxd ok)).expect == 0 && nth (p0 (rxd ok)).rx 0 [] == [[1, 2, 3, 4, 5, 6, 7, 8]]
      && (p0 (rxd (FLT 1 2047 [1]))).expect == 4095 && !(p0 (rxd (FLT 1 2047 [1]))).want && (p0 (rxd (FLT 1 2046 [1]))).want
      && (p0 (rxd { ok with bytes := 7 :: ok.bytes.drop 1 })).want && sent (rxd { ok with bytes := 7 :: ok.bytes.drop 1 }) == [2]
      && (p0 (nx (.idleReceive 0 (FLT 0 0 [] (some 9))) (PT x))).peerAck == 9 && (p0 (nx (.idleReceive 0 (FLT 0 0 [] (some 9))) (PT x))).credits == [8, 11, 8, 8]
      && sent rr == [1] && (p0 rr).replay.map (fun f => f.lseq) == [8]) = true := by decide +kernel

/-- LinkBehaviour: repeats, silence, lane causes, the end of a failed port and the steps of bring-up, each at its time limit and one before. -/
theorem test_link_states :
    let w : Port := { P5 with want := true, lastRetry := 4000, retries := 15, lastRx := 1000 }
    let fd : Port := { P5 with st := 8, failedAt := some 5, cause := 3 }
    let at_ : Nat → Port → State := fun n x => { PT x with now := n }
    let br : Nat → Nat → Port := fun st since => { Port.reset with st := st, since := since }
    let st := fun (s : State) => (p0 s).st
    let ev := fun (c : Instr) (x : Port) => st (nx c (PT x))
    (sent (nx (.retryReqRepeat 0) (at_ 5000 w)) == [2] && idle (.retryReqRepeat 0) (at_ 4999 w) && ev (.retryReqRepeat 0) { w with retries := 16 } == 8
      && ev (.linkSilenceTimeout 0) w == 8 && idle (.linkSilenceTimeout 0) (at_ 4999 w)
      && ev (.laneLockLoss 0 3) P5 == 8 && (p0 (nx (.laneLockLoss 0 3) (PT P5))).health == 0xFFF7
      && (let e := field (lnkCfg (PT P5) 0) 24 8 * 2 ^ 16; ev (.laneErrorLimit 0 3 (e + 1)) P5 == 8 && idle (.laneErrorLimit 0 3 e) (PT P5))
      && (p0 (nx (.degradeReceive 0 (FLT 5 0 [0xFF, 0xFE])) (PT P5))).retrain == 2 && (p0 (nx (.degradeReceive 0 (FLT 5 0 [0xFE, 0xFE])) (PT P5))).retrain == 3
      && st (nx (.portDownTimeout 0) (at_ 10000005 fd)) == 9 && idle (.portDownTimeout 0) (at_ 10000004 fd)
      && ev (.degradeRetrainDone 0) { fd with retrain := 2 } == 4
      && portEnabled (PT Port.reset) 0 && ev .portBringupStart Port.reset == 1 && ev (.signalDetect 0) (br 1 0) == 2 && ev (.trainComplete 0 ⟨true, 5⟩) (br 2 0) == 3
      && ev (.alignComplete 0) (br 3 0) == 4 && sent (nx (.alignComplete 0) (PT (br 3 0))) == [4]
      && sent (nx (.paramResend 0) (PT { br 4 0 with lastParam := 4000 })) == [4] && idle (.paramResend 0) (PT { br 4 0 with lastParam := 4001 })
      && st (nx (.bringupTimeout 0) (at_ 100000000 { br 2 100000000 with left := some 0 })) == 9
      && st (nx (.bringupTimeout 0) (at_ 80000000 (br 2 0))) == 1 && st (nx (.bringupTimeout 0) (at_ 1000000 (br 3 0))) == 1 && st (nx (.bringupTimeout 0) (at_ 10000 (br 4 0))) == 1
      && st (nx (.lnkRetrain (fwWr .lnk 0 0x020 2)) (PT P5)) == 2 && st (nx (.lnkRetrain (fwWr .lnk 0 0x020 2)) (PT (br 9 0))) == 1
      && st (nx (.lnkDisable (fwWr .lnk 0 0x020 4)) (PT P5)) == 0) = true := by decide +kernel

/-- LinkBehaviour: the wiring check of a board port with the position that Table 11.6 asks for and with another. -/
theorem test_param :
    let raw := fun (pos : Byte) => FLT 4 0 ([0, 0, 0, 0, 0, 0, 0, 0, 0, 0, 0, 0, pos, 7] ++ List.replicate 20 0)
    let x : Port := { Port.reset with st := 4 }
    let good := BitVec.ofNat 8 ((boardPos (PT x) + 1) % 9)
    ((p0 (nx (.paramReceive 0 (raw good)) (PT x))).st == 5 && (p0 (nx (.paramReceive 0 (raw (good + 1))) (PT x))).st == 7
      && sent (nx (.paramReceive 0 (raw good)) (PT x)) == [4] && (p0 (nx (.alignmentFrameReceive 0 ⟨5, true, 3, (15, 0)⟩) (PT P5))).frames == 5) = true := by decide +kernel

/-- FabricTime: a HEARTBEAT due and one nanosecond early, one from the upstream, a TSYNC edge, HOLDOVER at 2 ms and beyond. -/
theorem test_fabric_time :
    let x : Port := { P5 with lastHb := some 4000 }
    let up : State := regPut { PT P5 with ftime := 1000 } (regAddr .ftm 0 0) 0
    let hb := FLT 3 0 (natBytes 8 980 ++ natBytes 8 900 ++ natBytes 8 960)
    let h : Nat → State := fun n => { PT P5 with now := n, fab := { (PT P5).fab with ftm := { FtmSt.reset with synced := true, holdover := some 0 } } }
    (sent (nx (.heartbeatSend 0) (PT x)) == [3] && idle (.heartbeatSend 0) { PT x with now := 4999 } && (p0 (nx (.heartbeatReceive 0 hb) up)).hb == some (980, 1000)
      && !(nx .holdoverLimit (h 2000001)).fab.ftm.synced && idle .holdoverLimit (h 2000000)) = true := by decide +kernel

/-- Bytes of a table of fields (offset, length, value) in `n` bytes. -/
def bytesOf (n : Nat) (l : List (Nat × Nat × Nat)) : List Byte := natBytes n (l.foldl (fun v e => v + e.2.2 * 256 ^ e.1) 0)
/-- Rank 0 of job 1 is module 2, rank 1 module 1; context 0 belongs to it. -/
def JOB (s : State) : State :=
  let s := FB CN (Y s)
  { s with ctxs := [(0, { C0 with job := 1 })], lpm := [(1, [(0, 2), (1, 1)])], ftime := 5000 }
/-- A bucket header at 0x1000: step 4, two members, 128 bytes, POLICY DROP or CARRY. -/
def HDR (carry : Nat) (deadline : Nat := 4000) : List (Nat × Nat × Nat) :=
  [(2, 1, 2 * carry), (4, 4, 4), (8, 2, 2), (0xC, 2, 1), (0x10, 8, deadline), (0x18, 4, 128), (0x1C, 2, 1), (0x1E, 1, 2), (0x20, 8, 0x2000), (0x28, 8, 0x2080), (0x38, 8, 0x2100),
   (0x48, 8, 0x3000), (0x50, 8, 0x2180), (0x58, 4, 4), (0x5C, 2, 3), (0x5E, 2, 3), (0x60, 2, 1)]
/-- A module with that header, where the bucket of slot 5 is armed as `f` changes it. -/
def withB (hdr : List (Nat × Nat × Nat)) (f : Bucket → Bucket) (s : State) : State :=
  let s := memPut (JOB s) 0x1000 (bytesOf 128 hdr)
  { s with buckets := [(5, f (mkBucket s 0 0x1000))] }
/-- The bucket of slot 5. -/
def b5 (s : State) : Option Bucket := bucketAt s 5
/-- A store of a thread to a register, as the access that performs it. -/
def regSt (b : RBlk) (u off : Nat) (v : W64) (s : State) : State :=
  acc { A0 (.st 8) .regs (regAddr b u off) .held v with todo := [0] } s
/-- That store's command value. -/
def thrWr (b : RBlk) (u off : Nat) (v : W64) : RegWr := { src := .access 0 0, addr := regAddr b u off, bytes := 8, value := v }

/-- Buckets: an arm that succeeds and one refused for its length, by a pending store of the context. -/
theorem test_bucket_arm :
    let arm := fun (h : List (Nat × Nat × Nat)) =>
      let s := memPut (JOB (S [T 3 []])) 0x1000 (bytesOf 128 h)
      (armCheck s (mkBucket s 0 0x1000), nx (.rdxArm (thrWr .rdx 0 0 0x1000)) (regSt .rdx 0 0 0x1000 s))
    let ok := arm (HDR 1)
    let bad := arm (HDR 1 |>.map (fun e => if e.1 = 0x18 then (0x18, 4, 129) else e))
    (ok.1 == none && ownRange (JOB (S [])) 0 0x1000 128 true && memNat ok.2 0x1068 4 == 1 && (bucketAt ok.2 0).map (fun k => (k.idx, k.parent, k.st)) == some (1, 2, 1)
      && ok.2.sync.msgs.length == 1 && memNat ok.2 0x107C 4 == (mkBucket ok.2 0 0x1000).hchk
      && (dueAccess (regSt .rdx 0 0 0x1000 (JOB (S [T 3 []]))) 0 0 true).isSome && regWidth .rdx 0 == some 8
      && !blkStopped ok.2 .rdx 0 && !blkOff ok.2 .rdx 0
      && bad.1 == some 0x12 && memNat bad.2 0x1068 4 == 0x12 && bad.2.buckets.isEmpty) = true := by decide +kernel

/-- A child of a bucket. -/
def KID (seen : Bool) (count : Nat) : BKid := { BKid.none with present := true, peer := 2, imp := 1, seen := seen, count := count }
/-- A control record in the bucket's control area: who, chunks, count, flags; its HCHK is the bucket's plus `d`. -/
def withRec (who chunks count flags d : Nat) (s : State) : State :=
  match b5 s with
  | some k => memPut s (k.ctl + k.recOffset who) (bytesOf 16 [(0, 4, 4), (4, 2, chunks), (6, 2, count), (8, 4, flags), (0xC, 4, k.hchk + d)])
  | none => s

/-- Buckets: start, ready records used and refused, decisions on time and late, the limit at its boundary. -/
theorem test_bucket_decision :
    let s := S [T 3 []]
    let own := withB (HDR 0) (fun k => { k with mark := true }) s
    let kid := withB (HDR 0) (fun k => { k with kids := (KID false 0, BKid.none) }) s
    let used := nx (.readyRecord 5 .left) (withRec 0 1 3 0 0 kid)
    let all := withB (HDR 0) (fun k => { k with met := true, kids := (KID true 3, BKid.none) }) s
    let lim := withB (HDR 0) (fun k => { k with met := true, st := 2 }) s
    let late : Nat → State := fun t => { withB (HDR 0) id s with ftime := t }
    let k := b5 lim
    let at_ : Nat → State := fun t => { lim with ftime := t }
    let l := (k.map (fun k => k.limit)).getD 0
    ((b5 (nx (.bucketStartMet 5) own)).map (fun k => k.met) == some true && (b5 used).map (fun k => (k.kids.1.seen, k.kids.1.count)) == some (true, 3)
      && idle (.readyRecord 5 .left) kid && (b5 (nx (.readyRecord 5 .left) (withRec 0 1 3 0 1 kid))).isNone
      && memNat (nx (.readyRecord 5 .left) (withRec 0 1 3 0 1 kid)) 0x1068 4 == 4 + 256 * 4
      && (b5 (nx (.bucketDecision 5) all)).map (fun k => (k.st, k.own, k.count)) == some (2, true, 4)
      && (k.map (fun k => k.decideAt)) == some 3000
      && (b5 (nx (.bucketDecision 5) (late 3000))).map (fun k => (k.st, k.own, k.count)) == some (2, false, 0) && idle (.bucketDecision 5) (late 2999)
      && (b5 (nx (.bucketNoResult 5) (at_ l))).isNone && memNat (nx (.bucketNoResult 5) (at_ l)) 0x1068 4 == 4 + 256 * 5 && idle (.bucketNoResult 5) (at_ (l - 1))) = true := by
  decide +kernel

/-- Buckets: a pulled chunk lands, a leaf's down record, delivery, a late own gradient under DROP and CARRY. -/
theorem test_bucket_phases :
    let s := S [T 3 []]
    let kids := ({ KID true 3 with inc := true, chunks := 1, asked := 1 }, { KID true 1 with inc := true })
    let got := [(false, 0, 0, [1, 2, 3, 4]), (false, 0, 4, List.replicate 124 5)]
    let pull := withB (HDR 0 ++ [(0x40, 8, 0x10000)]) (fun k => { k with st := 2, own := true, count := 4, kids := kids, got := got }) s
    let leaf := withB (HDR 0) (fun k => { k with st := 2, own := true, count := 1, summed := 1 }) s
    let down := nx (.downRecord 5) (withRec 2 1 2 5 0 leaf)
    let fin := withB (HDR 0) (fun k => { k with st := 2, own := true, count := 1, summed := 1, result := 1, fin := true, settled := true }) s
    let late := fun c => memPut (withB (HDR c) (fun k => { k with st := 2, met := true }) s) 0x2000 [7, 8]
    ((b5 pull).map (fun k => k.chunkHere false 0) == some true && (b5 (nx (.chunkPullLand 5 .left) pull)).map (fun k => (k.kids.1.landed, k.got.length)) == some (1, 0)
      && memNat (nx (.chunkPullLand 5 .left) pull) 0x10000 6 == 0x050504030201
      && (b5 down).map (fun k => (k.result, k.fin, k.inc, k.dcount)) == some (1, true, true, 2)
      && (b5 (nx (.downRecord 5) (withRec 2 1 2 5 1 leaf))).isNone
      && (b5 (nx (.bucketDeliver 5) fin)).isNone && memNat (nx (.bucketDeliver 5) fin) 0x1068 4 == 3 && memNat (nx (.bucketDeliver 5) fin) 0x1070 8 == 5000
      && (b5 (nx (.comet 5) (late 0))).map (fun k => (k.comet, k.settled)) == some (true, true)
      && memNat (nx (.comet 5) (late 1)) 0x2180 2 == 0x807 && memNat (nx (.comet 5) (late 1)) 0x1066 2 == 1) = true := by decide +kernel

/-- An update run at 0x1000: step 4, one segment of one row and two columns at 0x4000, a tree of two members. -/
def withD (seg : List (Nat × Nat × Nat)) (s : State) : State :=
  let d := [(4, 4, 4), (8, 8, 0x4000), (0x10, 4, 1), (0x18, 8, 2 + 2 ^ 32), (0x20, 8, 0x3000), (0x28, 8, 0x6000), (0x30, 2, 1), (0x36, 2, 3)]
  let g := [(0, 4, 1), (4, 4, 2), (0xA, 2, 3), (0xC, 2, 3), (0x10, 4, 4), (0x18, 8, 0x8000), (0x20, 8, 0x8100), (0x28, 8, 0x8200), (0x50, 8, 0x8300)]
  let s := memPut (memPut (JOB s) 0x1000 (bytesOf 128 d)) 0x4000 (bytesOf 128 (g ++ seg))
  let t := bytesOf 64 [(4, 4, 0x3F800000), (0x10, 4, 0x3F800000), (0x20, 4, 0x3F800000), (0x24, 4, 0x80000040)]
  { s with utables := [(0, { copies := (t, t), second := false })] }
/-- The run of slot 2, changed. -/
def withU (seg : List (Nat × Nat × Nat)) (f : URun → URun) (s : State) : State :=
  let s := withD seg s
  let u := mkRun s 0 0x1000
  { s with runs := [(2, f { u with sched := [(0, 0x3F800000, 0)] })] }
/-- The run of slot 2. -/
def r2 (s : State) : Option URun := runAt s 2
/-- The run's first segment changed. -/
def seg0 (f : USeg → USeg) (u : URun) : URun := { u with segs := modAt u.segs 0 f }
/-- A norm record in the run's control area. -/
def withNorm (off d sum : Nat) (s : State) : State :=
  match r2 s with
  | some u => memPut s (u.ctl + off) (bytesOf 32 [(0, 4, 4), (4, 4, u.hchk + d), (8, 8, sum), (0x14, 4, 0x3F000000)])
  | none => s

/-- UpdateSequencer: an arm that succeeds and one refused for its segment; the start of a segment; records of a child and of the parent; ECC. -/
theorem test_update_records :
    let s := S [T 3 []]
    let arm := fun (l : List (Nat × Nat × Nat)) => (runCheck (withD l s) (mkRun (withD l s) 0 0x1000), nx (.updArm (thrWr .upd 0 0 0x1000)) (regSt .upd 0 0 0x1000 (withD l s)))
    let ok := arm []
    let bad := arm [(2, 2, 0x11)]
    let st := withU [] (fun u => { u with pairs := [(3, 4, true)] }) s
    let kid := withU [] (fun u => { u with st := 3, kids := [(2, none)] }) s
    let down := withU [] (fun u => { u with st := 3, sent := true }) s
    (ok.1 == none && (runAt ok.2 0).map (fun u => (u.idx, u.sched.length)) == some (1, 1) && memNat ok.2 0x1038 4 == 1 && ok.2.sync.msgs.length == 1
      && bad.1 == some 0x12 && bad.2.runs.isEmpty && memNat bad.2 0x1038 4 == 0x12
      && (r2 (nx (.segmentStart 2 0) st)).map (fun u => u.st) == some 2 && memNat (nx (.segmentStart 2 0) st) 0x1038 4 == 2
      && (r2 (nx (.normReadyRecord 2 .left) (withNorm 0 0 5 kid))).map (fun u => u.kids) == some [(2, some 5)]
      && (r2 (nx (.normReadyRecord 2 .left) (withNorm 0 1 5 kid))).isNone && memNat (nx (.normReadyRecord 2 .left) (withNorm 0 1 5 kid)) 0x1038 4 == 7 + 256 * 4
      && (r2 (nx (.normDownRecord 2) (withNorm 0x80 0 5 down))).map (fun u => (u.known, u.st, u.clip)) == some (true, 4, 0x3F000000)
      && (r2 (nx (.normDownRecord 2) (withNorm 0x80 1 5 down))).isNone
      && (nextTile ((r2 (withU [] (fun u => seg0 (fun g => { g with started := true }) { u with st := 2 }) s)).getD (mkRun s 0 0)) 0).isSome
      && (r2 (nx (.updateRunFail 2 .ecc) (withU [] (fun u => seg0 (fun g => { g with started := true }) { u with st := 2 }) s))).isNone) = true := by decide +kernel

/-- UpdateSequencer: the squares of a tile's gradient; a block committed (−1.0 and −2.0) and one held (a NaN); a segment that is done. -/
theorem test_update_tiles :
    let grad := fun (l : List Byte) => memPut (S [T 3 []]) 0x8000 l
    let one := [0, 0, 0x80, 0x3F, 0, 0, 0, 0x40]
    let p1 := withU [] (fun u => seg0 (fun g => { g with started := true }) { u with st := 2 }) (grad one)
    let two : URun → URun := fun u => seg0 (fun g => { g with started := true, done1 := true, p1 := List.replicate 16 1 }) { u with st := 4, known := true, clip := fOne }
    let ok := nx (.updateTile 2 0) (withU [] two (grad one))
    let held := nx (.updateTile 2 0) (withU [] two (grad [0, 0, 0xC0, 0x7F, 0, 0, 0, 0x40]))
    let fin := withU [] (fun u => seg0 (fun g => { g with p2 := List.replicate 16 1 }) (two u)) (grad one)
    let pend := withU [] (fun u => let v := seg0 (fun g => { g with p2 := List.replicate 16 1 }) (two u); { v with segs := v.segs ++ u.segs }) (grad one)
    ((r2 (nx (.updateTile 2 0) p1)).map (fun u => u.segs.map (fun g => nth g.p1 0 9)) == some [1]
      && memByte ok 0x8140 == 128 && memNat ok 0x8100 4 == (65536 - 8192) + 65536 * (65536 - 16384)
      && (r2 held).map (fun u => u.segs.map (fun g => (g.held, g.nonfin))) == some [(1, true)] && memNat held 0x8100 4 == 0
      && (r2 (nx (.segmentDone 2 0) fin)).isNone && memNat (nx (.segmentDone 2 0) fin) 0x1038 4 == 5
      && (r2 (nx (.segmentDone 2 0) pend)).map (fun u => u.segs.map (fun g => g.done2)) == some [true, false]) = true := by decide +kernel

/-- The first 16 bytes of a request: opcode, length, session, SEQUENCE. -/
def RH (op len : Nat) (session : Nat := 7) (seq : Nat := 1) : List Byte :=
  natBytes 2 op ++ natBytes 2 0 ++ natBytes 4 len ++ natBytes 4 session ++ natBytes 4 seq
/-- A request with a MAC. -/
def RQ (op : Nat) (body mac : List Byte) : List Byte := RH op body.length ++ mac ++ body
/-- A session of key 7 at a level, authenticated, whose message keys hold no bytes. -/
def SE (level : Nat) : Session :=
  { id := 7, keyId := 7, level := level, pending := false, expect := 1, hostNonce := [], devNonce := [], reqKey := [], rspKey := [], opened := 0 }
/-- A module that is ready, with a request waiting in mailbox 0 under a session; `stage` 1 says that its checks are over. -/
def MB (level : Nat) (req : List Byte) (s : State) (stage : Nat := 0) : State :=
  { s with mbx := { Mbx.reset with st := 1, req := req, session := some (SE level), stage := stage } :: List.replicate 10 Mbx.reset }
/-- The module of the command tests: DEPLOYED, with one key and context 0. -/
def M0 : State :=
  let s := JOB (S [])
  { s with pkg := { s.pkg with perst := true }, sec := { s.sec with lcs := 3, keys := [(0, { id := 7, key := [], mask := 0xF })] } }
/-- STATUS of the response of mailbox 0. -/
def stat (s : State) : Nat := bytesNat (((mbxOf s 0).rsp.drop 2).take 2)
/-- The body of the response of mailbox 0. -/
def rbody (s : State) : List Byte := (mbxOf s 0).rsp.drop 32
/-- Sixteen zeros in the place of a MAC. -/
def Z16 : List Byte := List.replicate 16 0

/-- `commandDue` of the request with the MAC left out, as far as it can be evaluated. -/
def due (level op : Nat) (body : List Byte) (fields : List (Nat × Nat)) (s0 : State) : Bool :=
  let s := MB level (RQ op body Z16) s0
  s.pkg.ready && s.sec.target == 7 && reqOp s 0 == op && takesOp s 0 op && !ctxWaits s 0 && reqLen s 0 == body.length && reqF s 0 8 4 == 7 && reqF s 0 12 4 == 1
    && opLevel s op level && reservedBad s 0 body.length fields == none && (!ctxOp op || s.sec.lcs == 3) && ownStatus s 0 == 0
/-- The effect of a command whose checks are over. -/
def did (c : Fin 11 → Instr) (level op : Nat) (body : List Byte) (s0 : State) : State := nx (c 0) (MB level (RQ op body Z16) s0 1)

theorem RH_length (op len : Nat) : (RH op len).length = 16 := by simp [RH, natBytes_length]

/-- A field outside the MAC does not depend on it. -/
theorem reqF_mac (level op : Nat) (body mac : List Byte) (s : State) (off n : Nat) (hm : mac.length = 16) (h : off + n ≤ 16 ∨ 32 ≤ off) :
    reqF (MB level (RQ op body mac) s) 0 off n = reqF (MB level (RQ op body Z16) s) 0 off n := by
  have e : ∀ m : List Byte, m.length = 16 → ((RQ op body m).drop off).take n = if 32 ≤ off then (body.drop (off - 32)).take n else ((RH op body.length).drop off).take n := by
    intro m hm
    rw [RQ]
    split
    · rw [List.append_assoc, List.drop_append, List.drop_append, RH_length, hm, List.drop_of_length_le (by rw [RH_length]; omega),
        List.drop_of_length_le (by rw [hm]; omega), show off - 16 - 16 = off - 32 by omega]
      rfl
    · rw [List.append_assoc, List.drop_append_of_le_length (by rw [RH_length]; omega), List.take_append_of_le_length (by simp [RH_length]; omega)]
  show bytesNat (((RQ op body mac).drop off).take n) = bytesNat (((RQ op body Z16).drop off).take n)
  rw [e mac hm, e Z16 (by simp [Z16])]

theorem reqCtx_mac (level op : Nat) (body mac : List Byte) (s : State) (k : Nat) (hm : mac.length = 16) :
    reqCtx (MB level (RQ op body mac) s) k = reqCtx (MB level (RQ op body Z16) s) k := by
  cases k with
  | zero =>
    have e : ∀ off n, off + n ≤ 16 ∨ 32 ≤ off → _ := fun off n h => reqF_mac level op body mac s off n hm h
    simp only [reqCtx, reqOp, bodyF, e 0 2 (Or.inl (by omega)), e (32 + 0) 1 (Or.inr (by omega)), e (32 + 0) 4 (Or.inr (by omega))]
    rfl
  | succ k => rfl

theorem reqCtxs_mac (level op : Nat) (body mac : List Byte) (s : State) (k : Nat) (hm : mac.length = 16) :
    reqCtxs (MB level (RQ op body mac) s) k = reqCtxs (MB level (RQ op body Z16) s) k := by
  cases k with
  | zero =>
    have e : ∀ off n, off + n ≤ 16 ∨ 32 ≤ off → _ := fun off n h => reqF_mac level op body mac s off n hm h
    simp only [reqCtxs, reqCtx_mac level op body mac s _ hm, reqOp, bodyF, e 0 2 (Or.inl (by omega)), e (32 + 1) 1 (Or.inr (by omega)),
      e (32 + 12) 1 (Or.inr (by omega))]
    rfl
  | succ k => rfl

/-- `due` is the hypothesis `commandDue` of the statements, for the request whose MAC is right. -/
theorem commandDue_of (level op : Nat) (body : List Byte) (fields : List (Nat × Nat)) (s : State) (h : due level op body fields s = true) :
    ∃ req, commandDue (MB level req s) 0 op body.length fields := by
  simp only [due, Bool.and_eq_true, beq_iff_eq, Bool.not_eq_true', Bool.or_eq_true] at h
  obtain ⟨⟨⟨⟨⟨⟨⟨⟨⟨⟨⟨h1, h2⟩, h3⟩, h4⟩, h5⟩, h6⟩, h7⟩, h8⟩, h9⟩, h10⟩, h11⟩, h12⟩ := h
  let mac := macOf [] (RH op body.length ++ List.replicate 16 0 ++ body)
  have hm : mac.length = 16 := macOf_length _ _
  have lo : ∀ off n, off + n ≤ 16 → _ := fun off n h => reqF_mac level op body mac s off n hm (Or.inl h)
  have hi : ∀ off n, 32 ≤ off → _ := fun off n h => reqF_mac level op body mac s off n hm (Or.inr h)
  have hop : reqOp (MB level (RQ op body mac) s) 0 = op := by rw [reqOp, lo _ _ (by omega)]; exact h3
  refine ⟨RQ op body mac, ⟨h1, h2, rfl, rfl, hop, h4, ?_⟩, ?_, ?_, ?_, ?_⟩
  · rw [← h5]
    simp only [ctxWaits, reqCtxs_mac level op body mac s _ hm]
    rfl
  · have hl : reqLen (MB level (RQ op body mac) s) 0 = body.length := by rw [reqLen, lo _ _ (by omega)]; exact h6
    have hmac : ((RQ op body mac).drop 16).take 16 = mac := by
      rw [RQ, List.append_assoc, List.drop_left' (RH_length _ _), List.take_left' hm]
    have hall : (RQ op body mac).take (32 + body.length) = RQ op body mac := by
      apply List.take_of_length_le; simp [RQ, RH_length, hm]; omega
    have hc : macOf [] (RQ op body mac) = mac := macOf_checks [] _ body (RH_length _ _)
    have hs : authSession (MB level (RQ op body mac) s) 0 = some (SE level) := rfl
    have hq : (mbxOf (MB level (RQ op body mac) s) 0).req = RQ op body mac := rfl
    have ho : opLevel (MB level (RQ op body mac) s) op (SE level).level = true := h9
    simp only [headerCheck, hl, hs, lo 8 4 (by omega), lo 12 4 (by omega), h7, h8, hop, hq, ho, hall, hmac, hc, show (SE level).reqKey = [] from rfl]
    simp [SE]
  · rw [← h10]
    simp only [reservedBad, bodyF]
    congr 1
    funext i
    rw [hi _ _ (by omega)]
  · intro hc
    rcases h11 with h | h
    · rw [hc] at h; exact absurd h (by decide)
    · exact h
  · have hz : ownStatus (MB level (RQ op body mac) s) 0 = ownStatus (MB level (RQ op body Z16) s) 0 := by
      simp only [ownStatus, reqCtx_mac level op body mac s _ hm, hop, h3]
      rfl
    rw [hz, h12]

theorem test_due : due 0 0x003 [] [] M0 = true := by decide +kernel

/-- An error record. -/
def ER (sev : Fin 4) (id : W32 := 0x10000) (count : W32 := 1) : ErrRec :=
  { faultId := id, source := 0, cls := 2, sev := sev, injected := false, address := 0, count := count, ctx := 0xFF, info := 0 }
/-- A record of the log. -/
def LR (r : ErrRec) (ftime since : Nat) : LogRec :=
  { lsn := 3, r := r, forwarded := false, reporter := 1, ftime := ftime, read := false, told := false, windowOpen := true, sinceFwd := BitVec.ofNat 32 since }
/-- A module whose error log is given. -/
def EL (l : List LogRec) : State := { JOB (S []) with err := { log := l, next := 4, overflow := true }, ftime := 100000 }

/-- ErrorLog: a new record, one of the same fault within 100 µs and exactly 100 µs later, a count that saturates, a FATAL_TO_MODULE record, windows. -/
theorem test_error_log :
    let put := fun (l : List LogRec) (r : ErrRec) => (nx (.errorRecord r) (EL l)).err
    ((put [] (ER 0)).log.map (fun l => (l.lsn, l.ftime)) == [(4, 100000)] && (put [] (ER 0)).next == 5 && !overLimit (logErr (EL []) (ER 0)) (ER 0)
      && (put [LR (ER 0) 1 0] (ER 1 0x10000 0xFFFFFFFF)).log.map (fun l => (l.r.count, l.r.sev, l.sinceFwd)) == [(0xFFFFFFFF, 1, 0xFFFFFFFF)]
      && (put [LR (ER 0) 0 0] (ER 1)).log.length == 2 && errCoalesces 100000 (ER 1) (LR (ER 0) 1 0) && !errCoalesces 100000 (ER 1) (LR (ER 0) 0 0)
      && (nx (.errorRecord (ER 3)) (EL [])).pkg.held && (nx (.errorRecord (ER 3)) (EL [])).clusters.all (fun c => c.st == .dormant || c.st == .disabled)
      && (nx (.coalesceWindowClose 3) (EL [LR (ER 0) 0 0])).err.log.map (fun l => l.windowOpen) == [false] && idle (.coalesceWindowClose 3) (EL [LR (ER 0) 1 0])
      && !(nx (.errClrOverflow (fwWr .err 0 0x008 2)) (EL [])).err.overflow) = true := by decide +kernel

/-- A checkpoint of context 0: one range of a block, buddies 2 and 3, a period of 4. -/
def CK : Ckpt :=
  { ranges := [(0x10000, 8)], buddies := (2, 3), ranks := (0, 0), period := 4, resume := [], evq := 1, mark := some 3, dirty := [1], pend := [], imgs := ([], []), snaps := ([], []),
    gens := (CkGen.none, CkGen.none), cur := 0, crcs := [], step := 0, st := 0, parts := [], failed := (false, false), recSent := false, resumeQ := 1, lastDone := none, segs := [],
    rebuild := [] }
/-- A module with that checkpoint, changed. -/
def CS (f : Ckpt → Ckpt) : State := { JOB (S [T 3 []]) with ckpts := [(0, f CK)] }
/-- The checkpoint of context 0. -/
def ck (s : State) : Ckpt := SMap.getD s.ckpts 0 CK

/-- Checkpoints: marks that are a boundary, no boundary, refused and met while one is written; a block copied; the record and the end; a copy rebuilt. -/
theorem test_checkpoints :
    let mark : W64 → (Ckpt → Ckpt) → State := fun v f => nx (.ckpMark (thrWr .err 0 0x100 v)) (regSt .err 0 0x100 v (CS f))
    let copy := CS (fun c => { c with st := 1, pend := [1] })
    let rec_ := nx (.ckptGenerationDone 0) (CS (fun c => { c with st := 1 }))
    let fin := nx (.ckptGenerationDone 0) (CS (fun c => { c with st := 1, recSent := true, step := 8 }))
    let seg := bytesOf 128 [(0, 4, 1), (4, 4, 2), (8, 2, 0x400), (0x20, 8, 0x8100), (0x40, 8, 0x8400)]
    let re := nx (.copyRebuild 0 0x4000) (memPut (memPut (CS (fun c => { c with segs := [(0x4000, seg)], rebuild := [0x4000] })) 0x8100 [0, 0x40]) 0x8140 [128])
    ((ck (mark 4 id)).st == 1 && (ck (mark 4 id)).pend == [1] && (ck (mark 5 id)).mark == some 5 && (ck (mark 5 id)).st == 0
      && (ck (mark 3 id)).mark == some 3 && regGet (mark 3 id) (regAddr .err 0 0x160) == 1 && (ck (mark 0x80000002 id)).mark == some 0x80000002
      && (ck (mark 0x80000003 id)).mark == some 3
      && regGet (mark 4 (fun c => { c with st := 1 })) (regAddr .err 0 0x130) == 1
      && blockParts CK 1 == [(0x10000, 8)] && !rangeBad copy 0x10000 8 && copy.heldSeq.isEmpty && (ck copy).rebuild.isEmpty
      && (ck rec_).recSent && rec_.fab.waiting.map (fun o => (o.t.flag, o.t.payload.length)) == [(true, 64), (true, 64)]
      && (ck fin).st == 0 && (ck fin).gens.1 == { step := 8, valid := true, complete := (true, true) } && (ck fin).lastDone == some 8
      && idle (.ckptGenerationDone 0) (CS (fun c => { c with st := 1, pend := [1] }))
      && (ck re).rebuild == [] && idle (.copyRebuild 0 0x4000) (CS id) && memByte re 0x8420 != 0) = true := by decide +kernel

/-- HeartbeatsAndRecovery: heartbeats at 100 µs and one nanosecond early, a peer that is missed and dead, an MGMT transaction, the steps of a recovery. -/
theorem test_recovery :
    let s := JOB (S [T 3 []])
    let hb : Nat → State := fun n => { s with now := n }
    let m : MeshPeer := ⟨some 0, false, false⟩
    let miss : Nat → State := fun n => { FB { CN with st := .unreachable } s with now := n, fw := { s.fw with mesh := [(2, m)] } }
    let r : Nat → Recovery := fun p => { number := 1, job := 1, faults := [9], lost := [], opened := 5000, phase := p }
    let at_ : Nat → State → State := fun p s => { s with fw := { s.fw with recovs := [(1, r p)] } }
    let go := fun s => nx (.recoveryOpen 1 none 9) s
    let ph := fun s => (SMap.get? (go s).fw.recovs 1).map (fun x => x.phase)
    let g : CkGen := { step := 8, valid := true, complete := (true, false) }
    let img : State := CS (fun c => { c with gens := (g, CkGen.none), imgs := ([(0x10001, 7)], []) })
    let q := go (at_ 3 { s with ctxs := [(0, { C0 with job := 1, quiesced := true })] })
    ((nx .moduleHeartbeatSend (hb 100000)).fw.lastHb == 100000 && idle .moduleHeartbeatSend (hb 99999)
      && (SMap.get? (nx (.moduleHeartbeatMiss 2) (miss 300000)).fw.mesh 2).map (fun p => p.dead) == some true && idle (.moduleHeartbeatMiss 2) (miss 299999)
      && jobCtxs s 1 == [0] && ph s == some 1 && (groupOf (go s) 0 0).isNone && (SMap.get? (go s).ctxs 0).map (fun c => c.quiesced) == some true
      && ph (at_ 1 s) == some 2 && usableGens (ck img) == [0] && ph (at_ 2 img) == some 3 && memByte (go (at_ 2 img)) 0x10001 == 7 && (ck (go (at_ 2 img))).mark == some 8
      && q.fw.recovs.isEmpty && (SMap.get? q.ctxs 0).map (fun c => c.quiesced) == some false && s.fabricId == some (TX 2 0 4 []).dst) = true := by decide +kernel

/-- MailboxExchange: GO to an idle mailbox, to a busy one, with a bad LENGTH, with an unknown OPCODE, before READY; the SMBus transactions and the status byte. -/
theorem test_mailbox_exchange :
    let q := RH 0x003 0 ++ Z16
    let x := mbxOf (nx (.mbxGo 0 q) M0) 0
    let busy := nx (.mbxGo 0 q) (MB 0 q M0)
    let bad := fun (len op : Nat) => nx (.mbxGo 0 (RH op len ++ Z16)) M0
    let smb := nx (.smbBlockWrite 0 4 [9, 8]) M0
    let long : State := { M0 with mbx := List.replicate 9 Mbx.reset ++ [{ Mbx.reset with st := 2, rsp := List.replicate 300 5 }, Mbx.reset] }
    (M0.pkg.pwrgood && M0.pkg.perst && !M0.pkg.held && !M0.pkg.noFirmware && M0.pkg.ready && x.st == 1 && !x.overrun && x.req.length == 4096
      && (mbxOf busy 0).overrun && (mbxOf busy 0).st == 1 && stat (bad 6 3) == 0x101 && stat (bad 4068 3) == 0x101 && stat (bad 0 0x999) == 0x102
      && (bad 0 0x999).que.msix.length == 1
      && (mbxOf (nx (.mbxGo 0 (RH 0x003 6)) { M0 with pkg := { M0.pkg with ready := false } }) 0).st == 1
      && ((mbxOf smb 9).req.drop 4).take 2 == [9, 8] && (mbxOf (nx (.smbGo 0) smb) 9).st == 2
      && (nx (.smbBlockRead 0) long).fw.rdSmb.length == 242 && (mbxOf (nx (.smbBlockRead 0) long) 9).readAt == 240
      && (nx (.smbBlockRead 0) (nx (.smbBlockRead 0) long)).fw.rdSmb.length == 62
      && (nx (.smbStateRead 0) long).fw.rdSmb == [2] && (nx .smbStatusRead M0).fw.rdSmb == [1]) = true := by decide +kernel

/-- A SESSION_OPEN or SESSION_AUTH request waiting in mailbox 0. -/
def SO (op : Nat) (body : List Byte) (x : Option Session) (s : State) : State :=
  { s with mbx := { Mbx.reset with st := 1, req := RH op body.length 0 0 ++ Z16 ++ body, session := x } :: List.replicate 10 Mbx.reset }
/-- The body of a SESSION_OPEN. -/
def OB (id level : Nat) : List Byte := natBytes 4 id ++ natBytes 4 level ++ List.replicate 32 3
/-- A session that waits for its authentication. -/
def XP : Session := { SE 0 with pending := true, expect := 0, id := 5, opened := 100 }
/-- A module with a lock on key 7. -/
def LK (fails : Nat) (lock : Option Nat) : State := { M0 with now := 10000, sec := { M0.sec with auth := [(7, ⟨fails, lock, 1⟩)] } }

/-- Sessions: SESSION_OPEN that is taken, in the error state, of no key, of a locked key; SESSION_CLOSE; the time-out at and before 1 s; a lock's end. -/
theorem test_sessions :
    let op := fun (id level : Nat) s => nx (.sessionOpen 0) (SO 1 (OB id level) none s)
    let x := (mbxOf (op 7 0 M0) 0).session
    let tm : Nat → State := fun n => { SO 0 [] (some XP) M0 with now := n }
    let au := SO 2 (natBytes 4 5 ++ natBytes 4 0 ++ List.replicate 48 0) (some XP) M0
    (x.map (fun x => (x.pending, x.keyId, x.level, x.expect, x.hostNonce == List.replicate 32 3, x.devNonce.length)) == some (true, 7, 0, 0, true, 32)
      && stat (op 7 0 M0) == 0 && (rbody (op 7 0 M0)).length == 40
      && stat (op 7 0 { M0 with sec := { M0.sec with error := true } }) == 0x10B && stat (op 8 0 M0) == 0x107 && rbody (op 8 0 M0) == [0, 0, 0, 0]
      && stat (op 7 0 (LK 8 (some 20000))) == 0x10A && stat (op 7 3 M0) == 0x106
      && au.pkg.ready && reqLen au 0 == 56 && reqF au 0 8 4 == 0 && bodyF au 0 0 4 == 5 && (keyOf au 7).isSome
      && stat (did .sessionClose 0 3 [] M0) == 0 && (mbxOf (did .sessionClose 0 3 [] M0) 0).session == none
      && (mbxOf (nx (.sessionAuthTimeout 0) (tm 1000000100)) 0).session == none && idle (.sessionAuthTimeout 0) (tm 1000000099)
      && (authOf (nx (.keyLockExpire 7) (LK 8 (some 10000))) 7) == ⟨8, none, 1⟩ && idle (.keyLockExpire 7) (LK 8 (some 10001))) = true := by decide +kernel

/-- CommandChecks: what each check answers on a request that waits, but for the MAC and what comes after it. -/
theorem test_command_checks :
    let w := fun (s : State) => s.pkg.ready && s.sec.target == 7 && reqOp s 0 == 3 && takesOp s 0 3 && !ctxWaits s 0
    let rq := fun (len session seq : Nat) => MB 0 (RH 3 len session seq ++ Z16 ++ List.replicate len 0) M0
    let a := rq 4 7 1
    let b := rq 0 8 1
    let c := rq 0 7 2
    let none_ : State := { rq 0 7 1 with mbx := [{ Mbx.reset with st := 1, req := RH 3 0 ++ Z16 }] }
    (w a && w b && w c && headerCheck a 0 0 == some 0x101 && headerCheck b 0 0 == some 0x103 && headerCheck c 0 0 == some 0x104
      && headerCheck none_ 0 0 == some 0x103 && stat (nx (.sessionClose 0) a) == 0x101 && stat (nx (.sessionClose 0) b) == 0x103
      && stat (nx (.sessionClose 0) c) == 0x104 && rbody (nx (.sessionClose 0) c) == [0xFF, 0xFF, 0xFF, 0xFF]
      && reservedBad (MB 0 (RQ 0x102 [0, 1, 0, 0] Z16) M0) 0 4 [(0, 1)] == some 1
      && ownStatus (MB 0 (RQ 0x102 [5, 0, 0, 0] Z16) M0) 0 == 0x107
      && ownStatus (MB 1 (RQ 0x102 [0, 0, 0, 0] Z16) { M0 with ctxs := [(0, { C0 with keyId := 9 })] }) 0 == 0x109) = true := by decide +kernel

/-- A body of a request from its fields. -/
def BD (n : Nat) (l : List (Nat × Nat × Nat)) : List Byte := bytesOf n l
/-- A body of CTX_CREATE. -/
def CCB : List Byte := BD 28 [(0, 4, 3), (8, 8, 0x10000), (16, 8, 0x8000), (24, 1, 6)]
/-- The module with no region and no connection, and context 0 of no job. -/
def N0 : State := { M0 with regions := [], fab := { M0.fab with conns := [] }, ctxs := [(0, C0)] }
/-- The module with context 0 preempted or not, and a group of it suspended. -/
def PR (pre : Bool) : State :=
  let r : Rec := { Rec.reset with st := .suspended, grp := some (G [T 3 []]) }
  let s := onCore (fun c => { c with slots := setAt c.slots 0 none, recs := setAt c.recs 0 r }) N0
  { s with ctxs := [(0, { C0 with preempted := pre })] }
/-- The module with a preemption of context 0 in progress since 5. -/
def PE (now : Nat) : State := { M0 with now := now, fw := { M0.fw with preempts := [(0, (5, 0))] }, sync := { M0.sync with objs := [] } }

/-- ContextCommands: the conditions of CTX_CREATE and CTX_DESTROY; CTX_PREEMPT of a context that runs and of one that is preempted; RESUME; the effect
and the withdrawal of a preemption. -/
theorem test_context_commands :
    let cre := MB 0 (RQ 0x101 CCB Z16) N0
    let f := bodyF cre 0
    let pf := [(0, 1), (1, 1), (2, 1)]
    let pre := did .ctxPreempt 0 0x103 [0, 0, 1, 0] N0
    (due 0 0x101 CCB [(0, 4), (4, 2), (8, 8), (16, 8), (24, 1)] N0 && f 0 4 == 3 && f 8 8 == 0x10000 && freeMemory cre (f 8 8) parkAreaBytes && f 24 1 == 6
      && f 16 8 % 128 == 0 && freeMemory cre (f 16 8) (32 * 2 ^ f 24 1) && !overlaps (f 8 8) parkAreaBytes (f 16 8) (32 * 2 ^ f 24 1)
      && (SMap.get? N0.ctxs 1).isNone && (SMap.get? N0.ctxs 0).isSome
      && due 0 0x102 [0, 0, 0, 0] [(0, 1)] N0 && N0.jobs.isEmpty && N0.que.launches.isEmpty && N0.fab.conns.isEmpty
      && due 0 0x103 [0, 0, 1, 0] pf N0 && due 0 0x103 [0, 1, 0, 0] pf (PR true)
      && (SMap.get? pre.ctxs 0).map (fun c => (c.preemptAt, c.rearm)) == some (some 0, true) && (mbxOf pre 0).st == 1 && (mbxOf pre 0).stage == 2
      && stat (did .ctxPreempt 0 0x103 [0, 0, 0, 0] (PR true)) == 0x10B && stat (did .ctxResume 0 0x103 [0, 1, 0, 0] (PR false)) == 0x10B
      && stat (did .ctxResume 0 0x103 [0, 1, 0, 0] (PR true)) == 0 && (rec0 (did .ctxResume 0 0x103 [0, 1, 0, 0] (PR true))).st == .restoring
      && preemptReady (PE 6) 0 && ctxSlots (PE 6) 0 == [(0, 0)] && !preemptReady (onG (fun g => { g with park := some PK }) (PE 6)) 0
      && (SMap.get? (nx (.preemptEffect 0) (PE 6)).ctxs 0).map (fun c => c.preempted) == some true
      && (groupOf (nx (.preemptEffect 0) (PE 6)) 0 0).isNone && (rec0 (nx (.preemptEffect 0) (PE 6))).st == .suspended
      && stat (nx (.preemptWithdraw 0) (PE 100000005)) == 0x10A && idle (.preemptWithdraw 0) (PE 100000004)) = true := by decide +kernel

/-- The module with a region of context 0 and the queues of the test. -/
def RS0 : State := { N0 with regions := [(0, R0 0x10 0x2F)], que := { N0.que with descs := [(1, Q 2), (5, Q 0)] } }
/-- A body of REGION_MAP. -/
def RMB (idx key : Nat) : List Byte := BD 32 [(2, 1, 11), (4, 2, idx), (8, 8, 0x40000), (16, 8, 0x4FFFF), (24, 4, key)]
/-- A body of QUEUE_CREATE. -/
def QCB : List Byte := BD 24 [(1, 1, 0), (2, 1, 4), (3, 1, 2), (8, 8, 0x10000)]

/-- RegionAndQueueCommands: an entry mapped with the index and key given, and one whose choice is firmware's; unmapped; its epoch advanced across the wrap; a queue
whose conditions hold; a queue destroyed, a busy one, an event queue. -/
theorem test_region_and_queue_commands :
    let rf := [(0, 1), (1, 1), (2, 1), (3, 1), (4, 2), (6, 2), (8, 8), (16, 8), (24, 4), (28, 2)]
    let st := MB 0 (RQ 0x201 (RMB 3 9) Z16) RS0
    let mp := did .regionMap 0 0x201 (RMB 3 9) RS0
    let q := MB 0 (RQ 0x301 QCB Z16) RS0
    let e : State → State := fun s => did .regionEpoch 0 0x203 [0, 0, 0, 0] s
    let old : State := { RS0 with regions := [(0, { R0 0x10 0x2F with epoch := 65535 })] }
    let qd := fun (n : Nat) s => did .queueDestroy 0 0x302 (natBytes 4 n) s
    let busy : State := { RS0 with que := { RS0.que with launches := [(0, { LN with qid := 5, placed := [(0, 0)] })] } }
    (due 0 0x201 (RMB 3 9) rf RS0 && due 0 0x201 (RMB 0xFFFF 0) rf RS0 && regionBad st (bodyF st 0) == none && levelOf st 0 == 0
      && (SMap.get? mp.regions 3).map (fun r => (r.base, r.limit, r.key, r.exported, r.write, r.read, r.valid)) == some (0x40, 0x4F, (9 : W32), true, true, true, true)
      && rbody mp == natBytes 4 3 ++ natBytes 4 0
      && due 0 0x202 [0, 0, 0, 0] [(0, 1), (2, 2)] RS0 && due 0 0x203 [0, 0, 0, 0] [(0, 1), (2, 2)] RS0
      && (SMap.get? (did .regionUnmap 0 0x202 [0, 0, 0, 0] RS0).regions 0).isNone && stat (did .regionUnmap 0 0x202 [0, 0, 9, 0] RS0) != 0
      && (regionAt (e RS0) 0).epoch == (R0 0 0).epoch + 1 && (regionAt (e old) 0).epoch == 0 && rbody (e old) == natBytes 4 0
      && due 0 0x301 QCB [(0, 1), (1, 1), (2, 1), (3, 1), (4, 4), (8, 8), (16, 2), (18, 2), (20, 2)] RS0
      && (localRegion q 0 0x10000 1024 .read).isSome && (localRegion q 0 0x10000 1024 .write).isSome
      && due 0 0x302 (natBytes 4 5) [(0, 4)] RS0 && (SMap.get? (qd 5 RS0).que.descs 5).isNone && (SMap.get? (qd 5 RS0).que.descs 1).isSome
      && queueBusy busy 5 && SMap.sorted busy.que.launches && (mbxOf (qd 5 busy) 0).st == 1 && (SMap.get? (qd 5 busy).que.descs 5).map (fun d => d.closing) == some true
      && stat (qd 1 RS0) == 0x10A) = true := by decide +kernel

/-- A body of SYNC_MAP. -/
def SMB (op v n src sv : Nat) : List Byte := BD 16 [(1, 1, op), (2, 1, 1), (4, 2, v), (6, 2, n), (8, 4, 5), (12, 1, src), (14, 2, sv)]
/-- The module with virtual ID 4 of context 0 mapped to object 9. -/
def SY : State := XL [(0, 0), (2, 0), (3, 0), (4, 9 + 65536 * 3 + 2 ^ 19)] { N0 with ctxs := [(0, C0), (1, C0)], sync := { N0.sync with objs := [(9, { SyncObj.reset with st := .armed })] } }
/-- A body of FIREFLY_GRANT. -/
def FGB (ctx : Nat) : List Byte := BD 72 [(0, 1, ctx), (1, 1, 1), (2, 2, 0), (8, 8, 7)]
/-- A body of TRACKER_ALLOC. -/
def TAB (op die n base : Nat) : List Byte := BD 12 [(1, 1, op), (3, 1, 1), (4, 1, 100), (5, 1, die), (6, 2, n), (8, 2, base)]
/-- The module with two trackers of context 0 and one of context 1. -/
def TK : State :=
  let t : Tracker := { owner := 0, enabled := true, fmt := 0, headroom := 1, initE := 100, e := 100, hist := List.replicate 16 0, count := 0, obs := 0, obsValid := false, satCount := 0 }
  { N0 with trackers := [(1022, t), (1023, t), (1024, { t with owner := 1 })] }

/-- SyncAndTrackerCommands: the conditions of a mapping; one shared and unmapped; the lines granted and revoked; trackers allocated, freed, and of another's. -/
theorem test_sync_and_tracker_commands :
    let sh := did .syncMapShare 0 0x501 (SMB 1 0 1 0 4 |>.modifyHead (fun _ => 1)) SY
    let un := did .syncMapUnmap 0 0x501 (SMB 2 4 2 0 0) SY
    let gf := [(0, 1), (1, 1), (2, 2), (8, 64)]
    let gr := did .fireflyGrant 0 0x502 (FGB 0) N0
    let rv := did .fireflyRevoke 0 0x502 (FGB 0xFF) gr
    let fr := did .trackerFree 0 0x702 (TAB 1 0 2 1022) TK
    (due 0 0x501 (SMB 0 0 2 0 0) syncFields SY && syncBad (bodyF (MB 0 (RQ 0x501 (SMB 0 0 2 0 0) Z16) SY) 0) == none && !xValid (xlatRaw SY 0 0)
      && !named SY 10 && named SY 9 && (SMap.get? SY.sync.objs 9).isSome
      && due 0 0x501 (SMB 1 0 1 0 4) syncFields SY && xlatRaw sh 1 0 == 9 + 65536 * 3 && rbody sh == natBytes 4 1
      && due 0 0x501 (SMB 2 4 2 0 0) syncFields SY && rbody un == natBytes 4 1 && !xValid (xlatRaw un 0 4) && objOf un 9 == SyncObj.reset
      && due 0 0x502 (FGB 0) gf N0 && due 0 0x502 (FGB 0xFF) gf gr && stat gr == 0 && ffGrant gr == 0x10001 && ffCores gr 0 == 7 && ffCores gr 1 == 0
      && ffGrant rv == 0 && rv.sync.pinHold
      && due 0 0x702 (TAB 0 0 2 0) trkFields TK && (trackerRun TK 0 2).isSome && (trackerRun TK 0 1023).isNone && trackerRun TK 1 1023 == some 1025
      && due 0 0x702 (TAB 1 0 2 1022) trkFields TK && stat fr == 0 && fr.trackers.map (·.1) == [1024]
      && stat (did .trackerFree 0 0x702 (TAB 1 0 3 1022) TK) == 0x109) = true := by decide +kernel

/-- A body of UPDATE_TABLE_SET, CKPT_CONFIG, ROUTE_SET, LPM_SET. -/
def UTB : List Byte := BD 16 [(1, 1, 1), (2, 2, 1)]
/-- CKPT_CONFIG of region 0, the buddies ranks 0 and 2. -/
def CCG : List Byte := BD 88 [(4, 2, 2), (8, 4, 4), (12, 4, 5), (0x50, 2, 1)]
/-- The module with two other members, a region and a LAUNCH queue. -/
def MJ : State := { M0 with regions := [(0, R0 0x10 0x2F)], lpm := [(1, [(0, 2), (1, 1), (2, 3)])], que := { M0.que with descs := [(5, Q 0)] } }
/-- The module with no context. -/
def M1 : State := { M0 with ctxs := [] }

/-- TrainingAndFabricCommands: the conditions of UPDATE_TABLE_SET and CKPT_CONFIG; what SPARE_POLICY, ROUTE_SET, LPM_SET and FABRIC_ID_SET write, at the last
entry of a table and with and without contexts. -/
theorem test_training_and_fabric_commands :
    let cs := MB 0 (RQ 0x703 CCG Z16) MJ
    let sp := did .sparePolicy 0 0x704 (BD 12 [(2, 2, 9), (4, 4, 3), (8, 4, 4)]) M0
    let rt := BD 16 [(0, 1, 5), (2, 2, 4095), (4, 2, 1), (8, 8, 0x8000000100000003)]
    let r := did .routeSet 0 0x601 rt M0
    let lm := BD 12 [(0, 2, 1), (2, 2, 4094), (4, 2, 2), (8, 2, 6), (10, 2, 4095)]
    let l := did .lpmSet 0 0x602 lm M0
    let id_ := fun (v : Nat) s => did (if v < 0x8000 then .fabricIdSet else .fabricIdClear) 0 0x603 (BD 4 [(0, 2, v)]) s
    (due 0 0x701 UTB [(0, 1), (1, 1), (2, 2), (8, 8)] M0 && M0.runs.isEmpty
      && due 0 0x703 CCG [(0, 1), (2, 2), (4, 2), (8, 4), (12, 4), (16, 64), (0x50, 2), (0x54, 2)] MJ && ckptBad cs (bodyF cs 0) == none
      && up4 (0x54 + 2) == 88 && rankModule MJ 0 0 == some 2 && rankModule MJ 0 2 == some 3 && ckptRanges cs (bodyF cs 0) == [(0x10000, 0x20000)]
      && due 0 0x704 (BD 12 [(2, 2, 9)]) [(0, 1), (2, 2), (4, 4), (8, 4)] M0 && stat sp == 0 && sp.fw.spare == 9 && sp.fw.limCorrected == 3 && sp.fw.limContained == 4
      && due 0 0x601 rt [(0, 1), (2, 2), (4, 2), (8, 8)] M0 && routeLegal 0x8000000100000003 && !routeLegal 0x8000000000000003 && stat r == 0
      && regGet r (regAddr .fab 2 (0x100000 + 8 * 4095)) == 0x8000000100000003 && regGet r (regAddr .fab 1 (0x100000 + 8 * 4095)) == 0
      && due 0 0x602 lm [(0, 2), (2, 2), (4, 2), (8, 4)] M0 && stat l == 0 && SMap.get? (SMap.getD l.lpm 1 []) 4095 == some 4095 && SMap.get? (SMap.getD l.lpm 1 []) 0 == some 2
      && due 0 0x603 (BD 4 [(0, 2, 7)]) [(0, 2)] M1 && (id_ 7 M1).fabricId == some 7 && (id_ 7 M1).sec.flashId == some 7 && dptVal (id_ 7 M1) 5 % 4096 == 7
      && (id_ 0x8000 M1).fabricId == none && stat (id_ 7 M0) == 0x10A && stat (id_ 0x8000 M0) == 0x10A) = true := by decide +kernel

/-- DeviceCommands: the table's update, with an entry twice and one that is not written, with a context and without; DPT_READ to the last entry; the sets of TELEMETRY_READ;
ERRLOG_READ with MARK; the limits of POWER_LIMIT_SET; SELFTEST_REPORT of the last domain. -/
theorem test_device_commands :
    let u := nx (.dptUpdate [(0x12, 1), (1, 99), (0x12, 2), (0x13, 6)]) M1
    let dr := did .dptRead 0 0x801 (BD 4 [(0, 1, 255), (2, 2, 1)]) M0
    let t := fun (n : Nat) => did .telemetryRead 0 0x802 (BD 4 [(0, 1, n)]) M0
    let log : State := { M0 with err := { M0.err with log := [LR (ER 0) 1 0, { LR (ER 0) 1 0 with lsn := 4 }], next := 5 } }
    let e := did .errlogRead 0 0x803 (BD 8 [(0, 4, 4), (4, 1, 1), (5, 1, 126)]) log
    let p := fun (v : Nat) => did .powerLimitSet 0 0x804 (natBytes 4 v) M0
    let sr := did .selftestReport 0 0x901 (BD 4 [(0, 1, 31), (1, 1, 1)]) M0
    (dptMay M1 && dptVal u 1 == dptVal M1 1 + 2 && dptVal u 0x13 == 6 && dptVal u 0x15 == 0x3C && dptVal u 0x12 == 2 && dptWritable 0x12 && !dptWritable 1 && !dptMay M0 && idle (.dptUpdate [(0x13, 1)]) M0
      && due 0 0x801 (BD 4 [(0, 1, 255), (2, 2, 1)]) [(0, 1), (2, 2)] M0 && rbody dr == natBytes 8 (dptVal M0 255)
      && due 0 0x802 (BD 4 []) [(0, 1)] M0 && stat (t 0) == 0 && (rbody (t 0)).length == 16 + 4 + 4 * 16 && (rbody (t 1)).length == 16 * 32
      && stat (t 3) == 0x107
      && due 0 0x803 (BD 8 [(4, 1, 1), (5, 1, 126)]) [(0, 4), (4, 1), (5, 1)] log && (rbody e).take 8 == natBytes 4 5 ++ natBytes 2 1 ++ natBytes 2 0
      && e.err.log.map (fun l => l.read) == [false, true]
      && due 0 0x804 (natBytes 4 300000) [(0, 4)] M0 && rbody (p 300000) == natBytes 4 480000 && (p 300000).pwr.raised && rbody (p 1400000) == natBytes 4 1400000
      && powerLimit (p 0) == 1400000 && stat (p 299999) == 0x107 && stat (p 1400001) == 0x107
      && due 0 0x901 (BD 4 [(0, 1, 31), (1, 1, 1)]) [(0, 1), (1, 1)] M0 && (rbody sr).length == 64) = true := by decide +kernel

/-- A container of code words, with its digest. -/
def CON (words : List Nat) (digest : Nat) : List Byte :=
  let n := 128 + 8 * words.length
  (bytesOf 128 [(0, 4, 0x014B504C), (4, 2, 1), (0xC, 4, 128), (0x10, 8, n + 16), (0x18, 4, 128), (0x1C, 4, words.length), (0x20, 4, n), (0x28, 4, n), (0x2C, 2, 1)]).take 0x40
    ++ natBytes 48 digest ++ List.replicate 16 0 ++ words.flatMap (natBytes 8) ++ natBytes 4 0 ++ natBytes 4 1 ++ natBytes 8 0
/-- A kernel of one EXIT; the digest is SHA-384 as FIPS 180-4 gives it. -/
def CEX : List Byte := CON [0xC40000000000000] 0x5b32a8c98c972e1035bee1af8f38eb345a4d3bbbab35535c43b9389796a4430f6f19771640aae8edcdee633c83b7bc8
/-- A body of KERNEL_LOAD from host memory. -/
def KLB (n : Nat) : List Byte := BD 24 [(1, 1, 1), (16, 8, n)]

/-- KernelLoading: a container that passes every check, one refused for its form, words that fail validation. -/
theorem test_kernel_loading :
    let s := M0
    let code := conCode CEX
    let reach := reached code (conEntries CEX)
    (due 0 0x401 (KLB 152) [(0, 1), (1, 1), (8, 8), (16, 8)] M0 && CEX.length == 152 && padTo 152 0 (CEX.take 152) == CEX
      && conCheck s CEX 152 true == 0 && conValid s CEX code reach == 0 && reach == [0]
      && conCheck s CEX 151 true == 2 && stat (nx (.kernelLoad 0 []) (MB 0 (RQ 0x401 (KLB 152) Z16) M0 1)) == 2
      && conCheck s (CEX.take 4 ++ [2] ++ CEX.drop 5) 152 true == 3
      && badClass [0] 0 && badPlace [0xC40000000000000] [0] 1) = true := by decide +kernel

/-- The module in a life-cycle state with no context. -/
def LC (lcs : Nat) : State := { M1 with sec := { M1.sec with lcs := lcs } }
/-- A body of FW_UPDATE from host memory. -/
def FWB (slot : Nat) : List Byte := BD 24 [(0, 1, 1), (1, 1, slot), (16, 8, 300)]

/-- LifeCycleAndKeys: transitions from each end of the table, one that is not in it; the module after one; keys loaded; the error state; images refused. -/
theorem test_life_cycle_and_keys :
    let adv := fun (lcs level was next : Nat) => did .lifecycleAdvance level 0x904 (BD 4 [(0, 1, was), (1, 1, next)]) (LC lcs)
    let done := nx .transitionComplete { LC 2 with sec := { (LC 2).sec with target := 4 } }
    let kl : KeyLoad := { keyId := 9, key := [1], mask := 1, crcOk := true }
    let fw := fun (slot : Nat) => did (fun m => .fwUpdate m [0]) 2 0x903 (FWB slot) M0
    (due 3 0x904 (BD 4 [(0, 1, 1), (1, 1, 2)]) [(0, 1), (1, 1)] (LC 1) && stat (adv 1 3 1 2) == 0 && (adv 1 3 1 2).sec.target == 2 && (mbxOf (adv 1 3 1 2) 0).session == none
      && stat (adv 4 3 4 5) == 0 && stat (adv 3 2 3 4) == 0 && stat (adv 3 0 2 3) == 0x10B && stat (adv 5 3 5 1) == 0x10B && rbody (adv 5 3 5 1) == natBytes 4 1
      && (LC 2).pkg.pwrgood && !(LC 2).pkg.held && done.sec.lcs == 4 && done.sec.target == 7 && done.sec.keys.length == 1 && idle .transitionComplete (LC 2)
      && (nx (.keyLoad kl) (LC 1)).sec.keys.map (fun e => (e.1, e.2.id)) == [(0, 7), (1, 9)] && idle (.keyLoad kl) (LC 3)
      && idle (.keyLoad { kl with crcOk := false }) (LC 1) && (nx .trngHealthFail M0).sec.error && (nx .trngHealthFail M0).pkg.held
      && due 2 0x903 (FWB 1) [(0, 1), (1, 1), (2, 2), (8, 8), (16, 8)] M0 && stat (fw M0.sec.running) == 0x10A && stat (fw (1 - M0.sec.running)) == 3) = true := by decide +kernel

/-- A module whose supplies are off. -/
def OFF (lcs : Nat) : State := { State.reset with sec := { State.reset.sec with lcs := lcs }, pkg := { State.reset.pkg with pwrgood := false } }
/-- A module that waits for BOOT_READY. -/
def BR : State := { M1 with pkg := { M1.pkg with ready := false, riseAt := 1000000 }, now := 8000000 }

/-- SuppliesAndResets: an excursion of 4.999 µs and one of 5 µs; the rise of PWRGOOD with and without firmware and at the end of life; READY; the resets. -/
theorem test_supplies_and_resets :
    let out : Nat → State := fun n => { M0 with now := n, pkg := { M0.pkg with railOut := [(railKey (.vdd 2), 1000)] } }
    let x : Straps := ⟨3⟩
    let none_ : State := { OFF 3 with sec := { (OFF 3).sec with slots := [⟨false, 0, 0⟩, ⟨false, 0, 0⟩] } }
    let rise := nx (.pwrgoodRise x) (OFF 3)
    let fall := nx .pwrgoodFall M0
    let hr := nx .hostReset M0
    (SMap.get? (nx (.railExcursionStart (.vdd 2)) M0).pkg.railOut (railKey (.vdd 2)) == some 0
      && (nx (.railGlitch (.vdd 2)) (out 5999)).pkg.railOut.isEmpty && idle (.railFault (.vdd 2)) (out 5999)
      && (nx (.railFault (.vdd 2)) (out 6000)).pkg.railFault && idle (.railGlitch (.vdd 2)) (out 6000) && (nx (.avsStatusFault 1) M0).pkg.held
      && !(nx .refclkLoss M0).pwr.refclk && (nx .vddAonLoss M0).pwr.aonGone && !fall.pkg.pwrgood && fall.ctxs.isEmpty && fall.sec.keys == M0.sec.keys
      && (nx .coldReset (OFF 3)).regs.isEmpty && (nx (.pwrgoodRise x) (OFF 5)).pkg.stage == 2 && bootSlot none_.sec == none
      && (nx (.pwrgoodRise x) none_).pkg.noFirmware && bootSlot (OFF 3).sec == some 0 && rise.pkg.position == 3 && rise.pkg.stage == 6
      && field (dptVal rise 5) 16 4 == 3 && field (dptVal (nx (.pwrgoodRise ⟨9⟩) (OFF 3)) 5) 16 4 == 15 && rise.cic.busy.isSome && !skipsTest rise 0
      && bootEnds BR && (nx .bootReady BR).pkg.ready && (nx .bootReady BR).pkg.readyMs == 7 && !bootEnds M0 && idle .bootReady M0
      && !hr.pkg.perst && hr.ctxs == M0.ctxs) = true := by decide +kernel

/-- HostMemoryWindow: a read and a write of DDR5 that is open to the host, and an access of a park area, which is refused. -/
theorem test_host_memory_window :
    let s : State := { M0 with ckpts := [] }
    let w := nx (.bar2Access (.write 0x100 [1, 2, 3])) s
    let p : State := { M0 with ctxs := [(0, { C0 with parkBase := 0 })] }
    (bar2Ok s 0x100 3 && !sleeps s 0x100 && !rangeBad s 0x100 3 && s.heldSeq.isEmpty && memBytes w 0x100 3 == [1, 2, 3]
      && (nx (.bar2Access (.read 0x100 3)) w).fw.rdHost == 0x030201 && !bar2Ok p 0x100 4 && (nx (.bar2Access (.read 0x100 4)) p).fw.rdHost == 0xFFFFFFFF
      && memBytes (nx (.bar2Access (.write 0x100 [1])) p) 0x100 1 == [0]) = true := by decide +kernel

/-- Cluster 2 changed, at a time; no group anywhere. -/
def CL (now : Nat) (f : Cluster → Cluster) : State := modCluster { M1 with cores := State.reset.cores, now := now, ftime := 4 * now } 2 f
/-- The same with a state change that waits for its slot since 100. -/
def SG (now kind : Nat) (f : Cluster → Cluster) : State :=
  let s := CL now f
  { s with pwr := { s.pwr with stagger := [{ cluster := 2, kind := kind, since := 100 }], staggerEnd := 50 } }

/-- ClusterSleep: the entry begins after DWELL and not before, and ends; the wakes of each state; a slot; the first issue 45 µs after the wake event; a held write; a timer;
the polling tick; self-refresh. -/
theorem test_cluster_sleep :
    let idl := fun (n : Nat) => CL n (fun c => { c with idleSince := some 1000 })
    let ent := CL 9000 (fun c => { c with st := .entering, gated := true, since := 1000 })
    let dor := CL 500000 (fun c => { c with st := .dormant })
    let wk := fun (n : Nat) => CL n (fun c => { c with st := .waking, wake := some 1000 })
    let hw := nx (.heldWrite (fwWr .mat 6 0 2)) dor
    let tm : Nat → State := fun n => let s := CL n id; { s with pwr := { s.pwr with slots := setAt s.pwr.slots 15 (some { who := .firmware, cluster := 2, due := 400 }), polled := [] } }
    (dwell (idl 201000) == 200 && (clusterAt (nx (.dormantEntry 2) (idl 201000)) 2).st == .entering && idle (.dormantEntry 2) (idl 200999) && clusterIdle (idl 201000) 2
      && deadlinesFit (idl 201000) 2 && (clusterAt (nx (.dormantEntry 2) ent) 2).st == .dormant && idle (.dormantEntry 0) { M0 with now := 1000000 } && !clusterIdle M0 0
      && (clusterAt (nx (.dormantWake 2 .sync) dor) 2).st == .waking
      && (clusterAt (nx (.dormantWake 2 .sync) (CL 500 (fun c => { c with st := .entering }))) 2).st == .run && idle (.dormantWake 2 .sync) (CL 500 id)
      && (clusterAt (nx (.staggerSlot 2) (SG 100 0 id)) 2).gated && (nx (.staggerSlot 2) (SG 100 0 id)).pwr.staggerEnd == 2600 && idle (.staggerSlot 2) (SG 99 0 id)
      && (clusterAt (nx (.staggerSlot 2) (SG 100 2 id)) 2).st == .test
      && (clusterAt (nx (.wakeFirstIssue 2) (wk 46000)) 2).st == .run && idle (.wakeFirstIssue 2) (wk 45999)
      && blkStopped dor .mat 6 && ((SMap.get? hw.pwr.heldW 2).getD []).map (fun h => (h.value, h.bytes)) == [((2 : W64), 4)]
      && nth (nx (.timerSlotCompare 15) (tm 100)).pwr.slots 15 none == none && idle (.timerSlotCompare 15) (tm 99)
      && (nx .pollTick { tm 100 with pwr := { (tm 100).pwr with polled := [{ who := .firmware, cluster := 2, due := 400 }, { who := .firmware, cluster := 2, due := 401 }] } }).pwr.polled.length == 1
      && (nx (.selfRefreshEntry 8) dor).mem.selfRefresh == [8] && idle (.selfRefreshEntry 8) (CL 199999 (fun c => { c with st := .dormant }))) = true := by decide +kernel

/-- PowerAndThermalLimits: samples at and above 1.10 times the limit; steps of CCLK at their ends; the three thresholds of temperature at their values. -/
theorem test_power_and_thermal_limits :
    let sm := fun (x : Nat) => (nx (.powerSample x) M0).pwr
    let k : Nat → Nat → State := fun khz now => CL now (fun c => { c with khz := khz })
    let hot : State := { M0 with pwr := { M0.pwr with thermal := [true, true, true, true] } }
    let th := fun (s : State) (x y : Int) => nth (nx (.thermalCheck 1 x y) s).pwr.thermal 1 false
    ((sm 1540000).fast == 0 && (sm 1540001).fast == 64 && (sm 1540001).throttle && (clusterAt (nx (.cclkStep 2 true) (k 1075000 100000)) 2).khz == 1100000
      && idle (.cclkStep 2 true) (k 1100000 100000) && idle (.cclkStep 2 true) (k 1075000 99999) && (clusterAt (nx (.cclkStep 2 false) (k 425000 100000)) 2).khz == 400000
      && idle (.cclkStep 2 false) (k 400000 100000) && idle (.cclkStep 2 false) (k 425000 999)
      && !th M0 1600 0 && th M0 1601 0 && th hot 1552 0 && !th hot 1551 0 && (nx (.thermalCheck 1 1840 1680) M0).pkg == M0.pkg
      && (nx (.thermalCheck 1 1841 0) M0).pkg.thermtrip && (nx (.thermalCheck 1 0 1681) M0).pkg.held) = true := by decide +kernel

/-- The Cicada controller testing a domain. -/
def CT (d : Nat) (seg : SMap (Nat × Nat)) : State := { CL 9000 (fun c => { c with st := .test }) with cic := { CicSt.reset with busy := some (d, 4000), seg := seg } }

/-- SelfTests: SELFTEST_RUN with a context, of nothing, of two domains, and when they are done; a result of a cluster, a failure of another domain; a segment. -/
theorem test_self_tests :
    let run := fun (f : Nat) s => did .selftestRun 2 0x902 (natBytes 4 f) s
    let two := run 0x40001 { M1 with cores := State.reset.cores }
    let fin := run 0 { M0 with cic := { CicSt.reset with mailbox := some 0, passed := 5 } }
    let ps := nx (.cicadaTestDone 18 .pass) (CT 18 [])
    (due 2 0x902 (natBytes 4 1) [(0, 4)] M0 && stat (run 1 M0) == 0x10A && rbody (run 0 M0) == natBytes 8 0 && (mbxOf two 0).st == 1 && two.cic.mailbox == some 0
      && two.cic.busy == some (0, 0) && two.cic.todo == [18] && rbody fin == natBytes 4 5 ++ natBytes 4 0 && fin.cic.mailbox == none
      && (SMap.get? ps.cic.recs 18).map (fun r => (r.pass, r.duration)) == some (true, 5) && ps.cic.busy == none && ps.cic.passed == 2 ^ 18
      && dptMay (CT 18 []) && (nx (.cicadaTestDone 3 (.fail 7)) (CT 3 [])).pkg.held
      && (let c : State := { CT 13 [] with ctxs := [(0, C0)] }
          c.mem.badCw.isEmpty && !c.ctxs.isEmpty && Memory.wf c.mem.cells && SMap.get? (nx (.cicadaSegmentTest 1 5 .save) c).cic.seg 1 == some (5, 0))
      && SMap.get? (nx (.cicadaSegmentTest 1 5 (.test true)) (CT 13 [(1, (5, 0))])).cic.seg 1 == some (5, 1)
      && (nx (.cicadaSegmentTest 1 5 .restore) (CT 13 [(1, (5, 1))])).cic.seg.isEmpty) = true := by decide +kernel

/-- RegisterAccess: a plain register written and read, a reserved value, a wrong width, a stopped block, an absent one; a load without the right; a value after reset. -/
theorem test_register_access :
    let a := regAddr .pwr 0 0
    let p := plainReg .pwr 0 0
    let w := nx (.registerWrite (fwWr .pwr 0 0 0x64)) M0
    let rd := fun (a n : Nat) (s : State) => (nx (.registerRead .firmware a n) s).fw.rdFw
    let dor := CL 500 (fun c => { c with st := .dormant })
    let off := CL 500 (fun c => { c with st := .disabled })
    let ld : State := acc { A0 (.ld 8 false) .regs (regAddr .sec 0 0x018) .held with todo := [0] } { M0 with ctxs := [(0, C0)] }
    let got := nx (.registerRead (.access 0 0) (regAddr .sec 0 0x018) 8) ld
    (regSplit a == some (.pwr, 0, 0) && p.isSome && !ownWrite .pwr 0 && (regWidth .pwr 0).isSome && a % (regWidth .pwr 0).getD 8 == 0
      && regGetD w a 0xC8 % 65536 == 0x64 && rd a ((regWidth .pwr 0).getD 8) w % 65536 == 0x64 && rd (a + 1) 1 w == 255 && a < bar0Base
      && blkStopped dor .mat 6 && rd (regAddr .mat 6 0) 4 dor == 3 && blkOff off .mat 6 && rd (regAddr .mat 6 0) 4 off == 0
      && rd 0x123 4 M0 == 0 && regSplit 0x123 == none && idle (.registerWrite { src := .firmware, addr := 0x123, bytes := 4, value := 1 }) M0
      && (dueAccess ld 0 0 false).isSome && !ctxReads ld 0 .sec 0 0x018 && regWidth .sec 0x018 == some 8 && regGet got (regAddr .ctxlog 0 0) % 2 ^ 32 == 1
      && rd (regAddr .rdx 0 8) ((regWidth .rdx 8).getD 8) State.reset == 0x100) = true := by decide +kernel

/-- A line of the home slice and an entry of the Weevil filter put in. -/
def CRS : State := { TK with mem := { TK.mem with slices := [(3, [L0 3 .red])], weevil := [(3, [])] }, ftime := 5000 }
/-- The module that initialises its DDR5. -/
def DI (m : Nat) : State := { regPut M0 (dptAddr 0x4C) 2048 with pkg := { M0.pkg with ddrInit := true, ddrMark := [(2, m)] } }

/-- ControlRegisters: a tracker advanced, cleared, and left by another; RED lines that begin their eviction; a snapshot at its time and before; the last DDR5 line. -/
theorem test_control_registers :
    let adv := nx (.trkAdvance (fwWr .trk 0 (32 * 1022 + 0x18) 1)) TK
    let clr := nx (.trkClearHist (fwWr .trk 0 (32 * 1022 + 0x18) 2)) adv
    let at_ : State := nx (.pmcSnapTimeWrite (fwWr .pmc 0 0x010 5004)) { M0 with ftime := 5000 }
    (((SMap.get? adv.trackers 1022).map (fun k => (k.count, k.e))) == some (1, 1) && ((SMap.get? clr.trackers 1022).map (fun k => (k.count, k.e))) == some (0, 100)
      && ((sliceAt (nx (.slcFlushRed (fwWr .slc 3 0x018 2)) CRS) 3).map (fun y => y.evicting)) == [true] && weevilOf (nx (.slcClrWeevil (fwWr .slc 3 0x018 4)) CRS) 3 == []
      && regGet at_ (regAddr .pmc 0 0x010) == 5004 && idle (.pmcSnapshot 0) at_ && !idle (.pmcSnapshot 0) { at_ with ftime := 5004 }
      && pmcListed 1 && !pmcListed 0xFFF && idle (.pmcSelWrite (fwWr .pmc 0 0x100 0xFFF)) M0 && idle (.ddrInitLine 2) M0
      && idle (.ddrInitLine 2) (DI 2) && SMap.getD (nx (.ddrInitLine 2) (DI 1)).pkg.ddrMark 2 0 == 2) = true := by decide +kernel

/-- LpkWordsRoundTrip: a word of every field at its largest, and words of the spec's opcode table written out. -/
theorem test_lpk_words :
    let w := W 63 63 63 0x3FFFFFFF
    (wordOp (lpkWord .ffma w) == some .ffma && wordFields (lpkWord .ffma w) w.ext == w && wordOp 0xC40000000000000 == some .exit && (wordOp 0).isNone) = true := by decide +kernel

/-- IdleStep, the invariants and what they need: an idle step from reset, a step with a command in front, the life-cycle state. -/
theorem test_idle_step : State.reset.pending = [] ∧ State.reset.jobs = [] ∧ (match step State.reset with | .next t => t.now | _ => 0) = 1 := by decide +kernel
theorem test_life_ok : lifeOk State.reset.sec ∧ (match step { M0 with pending := [.sessionClose 0] } with | .next t => t.pending.length | _ => 9) = 0 := by
  refine ⟨by unfold lifeOk; decide +kernel, by decide +kernel⟩
theorem test_step_takes_front :
    (match step { M0 with pending := [.ddrInitLine 2, .bootReady] } with | .next t => t.pending | _ => []) = [.bootReady] := by decide +kernel
theorem test_keys_kept : runs .hostReset M0 = true := by decide +kernel

/-! ### What WellFormed refuses -/

theorem test_regwr_bad_width : RegWr.wf { src := .host, addr := 0, bytes := 3, value := 0 } = false := by decide
theorem test_regwr_bad_value : RegWr.wf { src := .host, addr := 0, bytes := 1, value := 256 } = false := by decide
theorem test_regwr_bad_address : RegWr.wf { src := .host, addr := 2 ^ 49, bytes := 1, value := 0 } = false := by decide
theorem test_regwr_good : RegWr.wf { src := .host, addr := 2 ^ 49 - 1, bytes := 1, value := 255 } = true := by decide
theorem test_flit_bad_length : Flit.wf { bytes := [0], place := 0, errs := (0, 0) } = false := by decide
theorem test_txn_bad_type : Txn.wf { TX 2 0 4 [] with ty := 16 } = false := by decide +kernel
theorem test_txn_bad_op : Txn.wf { TX 2 0 4 [] with op := 16 } = false := by decide +kernel
theorem test_txn_bad_payload : Txn.wf (TX 2 0 4 (List.replicate 513 0)) = false := by decide +kernel

/-- No row of the table gives bits, so no word names a command, and the queue stays as it is. -/
theorem test_decode_table_word : decodeTableWord 64 0xC40000000000000 = none ∧ State.reset.withFetchWord 64 0xC40000000000000 = State.reset := ⟨rfl, rfl⟩

end Sys2Proof.Tests
end

/-! # Control registers (O55): trackers, slices, performance counters and the initialisation of DDR5 -/

namespace Sys2Proof.Machine

/-! ### Register addresses -/

/-- Registers of one block are told apart by their offsets. -/
@[simp] theorem regAddr_inj (b : RBlk) (u o o' : Nat) : regAddr b u o = regAddr b u o' ↔ o = o' :=
  Nat.add_left_cancel_iff

/-- An address `r` bytes into a die's part of the register space names that die and `r`. -/
theorem dieAddr_parts {d r a : Nat} (hd : d < 4) (hr : r < 0x10000000) (ha : a = regBase + d * 0x10000000 + r) :
    ¬ bar0Base ≤ a ∧ ¬ a < regBase ∧ (a - regBase) / 0x10000000 = d ∧ (a - regBase) % 0x10000000 = r := by
  subst ha
  simp only [regBase, bar0Base]
  omega

theorem regSplit_trk {d o : Nat} (hd : d < 4) (ho : o < 0x8000) : regSplit (regAddr .trk d o) = some (.trk, d, o) := by
  obtain ⟨hlo, hhi, hdie, hrest⟩ := dieAddr_parts (r := 0x100000 + o) (a := regAddr .trk d o) hd (by omega) (Nat.add_assoc _ _ _)
  simp only [regSplit, if_neg hlo, if_neg hhi, hdie, hrest]
  grind

theorem regSplit_pmc {d o : Nat} (hd : d < 4) (ho : o < 0x380) : regSplit (regAddr .pmc d o) = some (.pmc, d, o) := by
  obtain ⟨hlo, hhi, hdie, hrest⟩ := dieAddr_parts (r := 0x700000 + o) (a := regAddr .pmc d o) hd (by omega) (Nat.add_assoc _ _ _)
  simp only [regSplit, if_neg hlo, if_neg hhi, hdie, hrest]
  grind

theorem regSplit_slc {h o : Nat} (hh : h < 64) (ho : o < 0x1000) : regSplit (regAddr .slc h o) = some (.slc, h, o) := by
  obtain ⟨hlo, hhi, hdie, hrest⟩ := dieAddr_parts (d := h / 16) (r := 0x800000 + 0x1000 * (h % 16) + o) (a := regAddr .slc h o)
    (by omega) (by omega) (by simp only [regAddr, blkAddr, blkAt, Nat.add_assoc])
  simp only [regSplit, if_neg hlo, if_neg hhi, hdie, hrest]
  grind

/-- An aligned register of `n` bytes at an offset of unit `u`'s block (20 R443, Table 20.1). -/
structure IsReg (b : RBlk) (u off n : Nat) : Prop where
  split : regSplit (regAddr b u off) = some (b, u, off)
  width : regWidth b off = some n
  aligned : regAddr b u off % n = 0

theorem isReg_trkCtrl {d i : Nat} (hd : d < 4) (hi : i < 1024) : IsReg .trk d (32 * i + 0x18) 8 where
  split := regSplit_trk hd (by omega)
  width := by simp [regWidth, reg32, reg64]; omega
  aligned := by simp only [regAddr, blkAddr, blkAt, regBase]; omega

theorem isReg_slcCtrl {h : Nat} (hh : h < 64) : IsReg .slc h 0x018 4 where
  split := regSplit_slc hh (by decide)
  width := by decide
  aligned := by simp only [regAddr, blkAddr, blkAt, regBase]; omega

theorem isReg_pmcCtrl {d : Nat} (hd : d < 4) : IsReg .pmc d 0x008 4 where
  split := regSplit_pmc hd (by decide)
  width := by decide
  aligned := by simp only [regAddr, blkAddr, blkAt, regBase]; omega

theorem isReg_pmcSnapTime {d : Nat} (hd : d < 4) : IsReg .pmc d 0x010 8 where
  split := regSplit_pmc hd (by decide)
  width := by decide
  aligned := by simp only [regAddr, blkAddr, blkAt, regBase]; omega

theorem rng_pmcSel {n : Nat} (hn : n < 16) : rng 0x100 0x178 (0x100 + 8 * n) = true := by
  simp [rng]; omega

theorem isReg_pmcSel {d n : Nat} (hd : d < 4) (hn : n < 16) : IsReg .pmc d (0x100 + 8 * n) 8 where
  split := regSplit_pmc hd (by omega)
  width := by simp [regWidth, reg32, reg64, rng_pmcSel hn]; omega
  aligned := by simp only [regAddr, blkAddr, blkAt, regBase]; omega

/-! ### Writes of control registers -/

/-- A due write to a control register of a running block: `act` where the writer has the right, a refusal where not. -/
theorem ctlWrite_due {w : RegWr} {q : Req} {b : RBlk} {u off : Nat} {at_ : Nat → Bool} {may : State → Req → Nat → Nat → Bool}
    {act : Nat → Nat → Nat → State → State} {s : State} (hq : reqOf s w.src true w.addr w.bytes w.value.toNat = some q)
    (haddr : q.addr = regAddr b u off) (hreg : IsReg b u off q.bytes) (hat : at_ off = true)
    (hrun : blkStopped s b u = false) (hon : blkOff s b u = false) :
    ctlWrite w b at_ may act s = .next (reqDone w.src 0 (if may s q u off then act u off q.value s else refuse q true s)) := by
  simp [ctlWrite, hq, haddr, hreg.split, hreg.width, hreg.aligned, hat, hrun, hon]

/-- Firmware's write of a control register that it may write completes with what `act` makes of its value. -/
theorem fwStore_of_ctlWrite {c : RegWr → Instr} {b : RBlk} {u off n : Nat} {at_ : Nat → Bool} {may : State → Req → Nat → Nat → Bool}
    {act : Nat → Nat → Nat → State → State} {v : W64} {x : Nat} {s : State} {P : State → Prop}
    (hc : ∀ w, exec (c w) s = ctlWrite w b at_ may act s) (hreg : IsReg b u off n) (hat : at_ off = true)
    (hmay : ∀ q : Req, q.thread = false → q.host = false → may s q u off = true)
    (hx : v.toNat % 2 ^ (8 * n) = x) (hP : P (act u off x s)) : fwStore c b u off v s P := by
  intro hheld hrun hon
  have hbytes : (regWidth b off).getD 8 = n := by rw [hreg.width]; rfl
  refine ⟨_, ?_, hP⟩
  rw [hc, fwWr, hbytes, ctlWrite_due (by simp [reqOf, hheld]; rfl) rfl hreg hat hrun hon]
  simp [hmay, reqDone, hx]

/-- The request of a thread's lane (08 R459). -/
def laneReq (n : Fin 48) (a : Access) (l : Lane) : Req :=
  { thread := true, host := false, ctx := a.ctx, core := n.val, addr := l.addr, bytes := a.op.size, value := l.v.toNat }

/-- A thread's due write of a control register of its store's width: `act` where its context has the right, a refusal where not. -/
theorem ctlWrite_access {n : Fin 48} {id : Nat} {a : Access} {l : Lane} {b : RBlk} {u off : Nat} {at_ : Nat → Bool}
    {may : State → Req → Nat → Nat → Bool} {act : Nat → Nat → Nat → State → State} {s : State}
    (hheld : s.pkg.held = false) (hdue : dueAccess s n.val id true = some (a, l)) (haddr : l.addr = regAddr b u off)
    (hreg : IsReg b u off a.op.size) (hat : at_ off = true) (hrun : blkStopped s b u = false) (hon : blkOff s b u = false) :
    ctlWrite { src := .access n id, addr := l.addr, bytes := a.op.size, value := l.v } b at_ may act s
      = .next (reqDone (.access n id) 0 (if may s (laneReq n a l) u off then act u off l.v.toNat s
          else refuse (laneReq n a l) true s)) :=
  ctlWrite_due (q := laneReq n a l) (by simp [reqOf, laneReq, hheld, hdue]) haddr hreg hat hrun hon

/-! ### What the end of an access leaves -/

@[simp] theorem groupEnded_trackers (s : State) (n : Nat) (g : Group) : (groupEnded s n g).trackers = s.trackers := by
  simp only [groupEnded, freeAreas, apply_ite State.trackers, modCore_trackers, ite_self]

@[simp] theorem endNow_trackers (s : State) (n : Nat) (g : Group) : (endNow s n g).trackers = s.trackers := by
  simp only [endNow, groupEnded_trackers, apply_ite State.trackers, modCore_trackers, ite_self]

@[simp] theorem settle_trackers (n i : Nat) (s : State) : (settle n i s).trackers = s.trackers := by
  unfold settle
  split
  · rfl
  · simp only [apply_ite State.trackers, endNow_trackers, setGroup_trackers, ite_self]

@[simp] theorem settleAge_trackers (n age : Nat) (s : State) : (settleAge n age s).trackers = s.trackers := by
  unfold settleAge
  split
  · exact settle_trackers _ _ s
  · split <;> rfl

@[simp] theorem retireAcc_trackers (s : State) (n id : Nat) (a : Access) : (retireAcc s n id a).trackers = s.trackers := by
  unfold retireAcc
  simp only []
  split <;> simp

@[simp] theorem reqDone_trackers (src : RegSrc) (v : Nat) (s : State) : (reqDone src v s).trackers = s.trackers := by
  unfold reqDone
  split
  · split
    · rfl
    · simp only []
      split <;> simp
  · rfl

@[simp] theorem ctxRefuse_trackers (s : State) (ctx addr core : Nat) (store : Bool) :
    (ctxRefuse s ctx addr core store).trackers = s.trackers := by
  unfold ctxRefuse
  split
  · rfl
  · exact (regPut_trackers _ _ _).trans (regPut_trackers _ _ _)

@[simp] theorem refuse_trackers (q : Req) (store : Bool) (s : State) : (refuse q store s).trackers = s.trackers := by
  simp only [refuse, apply_ite State.trackers, ctxRefuse_trackers, ite_self]

/-! ### Trackers (03 R57, R58, R61) -/

/-- What a value written to TRK_CTRL makes of an enabled tracker: CLEAR_HIST acts before ADVANCE. -/
def trackerCommanded (v : Nat) (k : Tracker) : Tracker :=
  let k' := if v.testBit 1 then trackerClearHist k else k
  if v.testBit 0 then trackerAdvance k' else k'

theorem trackerCommanded_advance (k : Tracker) : trackerCommanded 1 k = trackerAdvance k := rfl

theorem trackerCommanded_clear (k : Tracker) : trackerCommanded 2 k = trackerClearHist k := rfl

/-- The tracker at `j` is `x`, and nothing else of the trackers, the memory and the registers has changed. -/
def trackerBecomes (s : State) (j : Nat) (x : Tracker) (t : State) : Prop :=
  SMap.get? t.trackers j = some x ∧ (∀ i, i ≠ j → SMap.get? t.trackers i = SMap.get? s.trackers i) ∧ t.mem = s.mem ∧ t.regs = s.regs

theorem trackerBecomes_put (s : State) (j : Nat) (x : Tracker) :
    trackerBecomes s j x { s with trackers := SMap.put s.trackers j x } :=
  ⟨SMap.get?_put_same _ _ _, fun _ hi => SMap.get?_put_other _ _ _ _ hi, rfl, rfl⟩

/-- Who may write TRK_CTRL: the owner of the tracker and firmware (R61). -/
def mayCommand (s : State) (q : Req) (u off : Nat) : Bool := !q.host && (!q.thread || trackerOwner s (1024 * u + off / 32) == q.ctx)

/-- What a write of TRK_CTRL does to the state. -/
def trkAct (u off v : Nat) (s : State) : State :=
  match SMap.get? s.trackers (1024 * u + off / 32) with
  | none => s
  | some k => if !k.enabled then s else { s with trackers := SMap.put s.trackers (1024 * u + off / 32) (trackerCommanded v k) }

theorem trkCtrl_eq (w : RegWr) (s : State) : trkCtrl w s = ctlWrite w .trk (fun off => off % 32 == 0x18) mayCommand trkAct s := rfl

section
variable {d i : Nat} {s : State} {k : Tracker} (hd : d < 4) (hi : i < 1024)
  (hk : SMap.get? s.trackers (1024 * d + i) = some k) (hen : k.enabled = true)
include hk hen

theorem trkAct_enabled (v : Nat) :
    trkAct d (32 * i + 0x18) v s = { s with trackers := SMap.put s.trackers (1024 * d + i) (trackerCommanded v k) } := by
  have hidx : (32 * i + 0x18) / 32 = i := by omega
  simp [trkAct, hidx, hk, hen]

include hd hi

theorem trkCtrl_fwStore {c : RegWr → Instr} (hc : ∀ w s, exec (c w) s = trkCtrl w s) (v : W64) :
    fwStore c .trk d (32 * i + 0x18) v s (trackerBecomes s (1024 * d + i) (trackerCommanded v.toNat k)) := by
  refine fwStore_of_ctlWrite (fun w => (hc w s).trans (trkCtrl_eq w s)) (isReg_trkCtrl hd hi) (by simp)
    (fun q ht hh => by simp [mayCommand, ht, hh]) (Nat.mod_eq_of_lt v.isLt) ?_
  rw [trkAct_enabled hk hen]
  exact trackerBecomes_put s _ _

theorem trkAdvance_fwStore :
    fwStore .trkAdvance .trk d (32 * i + 0x18) 1 s (trackerBecomes s (1024 * d + i) (trackerAdvance k)) :=
  trackerCommanded_advance k ▸ trkCtrl_fwStore hd hi hk hen (fun _ _ => rfl) 1

theorem trkClearHist_fwStore :
    fwStore .trkClearHist .trk d (32 * i + 0x18) 2 s (trackerBecomes s (1024 * d + i) (trackerClearHist k)) :=
  trackerCommanded_clear k ▸ trkCtrl_fwStore hd hi hk hen (fun _ _ => rfl) 2

omit hen in
/-- A thread's store to TRK_CTRL acts where its context owns the tracker, and is refused where not (R61). -/
theorem trkCtrl_access {n : Fin 48} {id : Nat} {a : Access} {l : Lane} (hheld : s.pkg.held = false)
    (hdue : dueAccess s n.val id true = some (a, l)) (haddr : l.addr = regAddr .trk d (32 * i + 0x18))
    (hwidth : regWidth .trk (32 * i + 0x18) = some a.op.size) (hrun : blkStopped s .trk d = false) (hon : blkOff s .trk d = false) :
    trkCtrl { src := .access n id, addr := l.addr, bytes := a.op.size, value := l.v } s
      = .next (reqDone (.access n id) 0 (if k.owner = a.ctx then trkAct d (32 * i + 0x18) l.v.toNat s
          else refuse (laneReq n a l) true s)) := by
  have hreg := isReg_trkCtrl hd hi
  have hsize : 8 = a.op.size := Option.some.inj (hreg.width.symm.trans hwidth)
  have hidx : (32 * i + 0x18) / 32 = i := by omega
  have hown : trackerOwner s (1024 * d + i) = k.owner := by simp [trackerOwner, SMap.getD, hk]
  have hmay : mayCommand s (laneReq n a l) d (32 * i + 0x18) = true ↔ k.owner = a.ctx := by
    simp [mayCommand, laneReq, hidx, hown]
  rw [trkCtrl_eq, ctlWrite_access hheld hdue haddr (hsize ▸ hreg) (by simp) hrun hon]
  simp only [hmay]

/-- A context advances its own trackers (R58, R61). -/
theorem trkAdvance_ownerStore :
    threadStore .trkAdvance .trk d (32 * i + 0x18) k.owner 1 s
      (fun t => SMap.get? t.trackers (1024 * d + i) = some (trackerAdvance k)) := by
  intro n id a l hheld hdue hctx haddr hwidth hv hrun hon
  have hq := trkCtrl_access hd hi hk hheld hdue haddr hwidth hrun hon
  rw [if_pos hctx.symm, trkAct_enabled hk hen, hv] at hq
  exact ⟨_, hq, (congrArg (SMap.get? · _) (reqDone_trackers _ _ _)).trans (SMap.get?_put_same _ _ _)⟩

omit hen in
/-- A store of another context leaves every tracker (R61). -/
theorem trkAdvance_otherStore {ctx : Nat} (hne : ctx ≠ k.owner) :
    threadStore .trkAdvance .trk d (32 * i + 0x18) ctx 1 s (fun t => t.trackers = s.trackers) := by
  intro n id a l hheld hdue hctx haddr hwidth hv hrun hon
  have hq := trkCtrl_access hd hi hk hheld hdue haddr hwidth hrun hon
  rw [if_neg (fun h => hne (hctx.symm.trans h.symm)), hv] at hq
  exact ⟨_, hq, (reqDone_trackers _ _ _).trans (refuse_trackers _ _ _)⟩
end

/-! ### Slices (08 R180, R200) -/

theorem sliceAt_setSlice (s : State) (h g : Nat) (l : List SLine) : sliceAt (setSlice s h l) g = if g = h then l else sliceAt s g :=
  SMap.getD_setD s.mem.slices h g [] l

theorem weevilOf_setWeevil (s : State) (h g : Nat) (l : List Nat) : weevilOf (setWeevil s h l) g = if g = h then l else weevilOf s g :=
  SMap.getD_setD s.mem.weevil h g [] l

/-- A request at a channel changes no slice line. -/
@[simp] theorem startFill_slices (s : State) (line : Nat) (who : FillFor) : (startFill s line who).mem.slices = s.mem.slices := by
  unfold startFill chanReq
  split <;> rfl

@[simp] theorem startFill_cells (s : State) (line : Nat) (who : FillFor) : (startFill s line who).mem.cells = s.mem.cells := by
  unfold startFill chanReq
  split <;> rfl

/-- The home entry of a line begins its eviction. -/
def evictMark (x y : SLine) : SLine := if isHome x.line y then { y with evicting := true } else y

/-- The eviction of one RED line begins: its entry is marked and a request goes to its channel (R180). -/
def beginEviction (h : Nat) (s : State) (x : SLine) : State :=
  startFill (mapLines s h (isHome x.line) (fun y => { y with evicting := true })) x.line .redEvict

theorem flushReds_eq (s : State) (h : Nat) :
    flushReds s h = ((sliceAt s h).filter (fun x => x.kind == .red && !x.evicting)).foldl (beginEviction h) s := rfl

theorem sliceAt_beginEviction (h g : Nat) (s : State) (x : SLine) :
    sliceAt (beginEviction h s x) g = if g = h then (sliceAt s h).map (evictMark x) else sliceAt s g := by
  have hs : sliceAt (beginEviction h s x) g = sliceAt (mapLines s h (isHome x.line) (fun y => { y with evicting := true })) g := by
    simp only [sliceAt, beginEviction, startFill_slices]
  rw [hs, mapLines, sliceAt_setSlice]
  rfl

theorem beginEviction_cells (h : Nat) (s : State) (x : SLine) : (beginEviction h s x).mem.cells = s.mem.cells :=
  startFill_cells _ _ _

theorem sliceAt_foldl_beginEviction (h g : Nat) (l : List SLine) (s : State) :
    sliceAt (l.foldl (beginEviction h) s) g = if g = h then (sliceAt s h).map (fun y => l.foldl (fun y x => evictMark x y) y) else sliceAt s g := by
  induction l generalizing s with
  | nil =>
    split
    · next hg => rw [hg]; exact (List.map_id _).symm
    · rfl
  | cons x l ih =>
    rw [List.foldl_cons, ih]
    split
    · rw [sliceAt_beginEviction, if_pos rfl, List.map_map]
      rfl
    · next hg => rw [sliceAt_beginEviction, if_neg hg]

theorem foldl_beginEviction_cells (h : Nat) (l : List SLine) (s : State) : (l.foldl (beginEviction h) s).mem.cells = s.mem.cells := by
  induction l generalizing s with
  | nil => rfl
  | cons x l ih => rw [List.foldl_cons, ih, beginEviction_cells]

theorem foldl_evictMark (l : List SLine) (y : SLine) :
    l.foldl (fun y x => evictMark x y) y = { y with evicting := y.evicting || l.any (fun x => isHome x.line y) } := by
  induction l generalizing y with
  | nil => simp
  | cons x l ih =>
    rw [List.foldl_cons, ih]
    by_cases hx : isHome x.line y = true
    · simp [evictMark, hx]
    · simp [evictMark, hx]

/-- After a flush every RED line of the slice is in its eviction (R180). -/
theorem flushReds_evicting {s : State} {h : Nat} {y : SLine} (hy : y ∈ sliceAt (flushReds s h) h) (hred : y.kind = .red) :
    y.evicting = true := by
  rw [flushReds_eq, sliceAt_foldl_beginEviction, if_pos rfl] at hy
  obtain ⟨x, hx, rfl⟩ := List.mem_map.mp hy
  rw [foldl_evictMark] at hred ⊢
  by_cases he : x.evicting = true
  · simp [he]
  · have hself : isHome x.line x = true := by simp [isHome, show x.kind = .red from hred]
    simp only [Bool.or_eq_true, List.any_eq_true, List.mem_filter]
    exact .inr ⟨x, ⟨hx, by simp [he, show x.kind = .red from hred]⟩, hself⟩

theorem flushReds_other {s : State} {h g : Nat} (hg : g ≠ h) : sliceAt (flushReds s h) g = sliceAt s g := by
  rw [flushReds_eq, sliceAt_foldl_beginEviction, if_neg hg]

theorem flushReds_sameBytes (s : State) (h : Nat) : sameBytes s (flushReds s h) := fun a => by
  rw [memByte, flushReds_eq, foldl_beginEviction_cells]
  rfl

/-- What a write of SLC_CTRL does to the state. -/
def slcAct (h _off v : Nat) (s : State) : State :=
  let s := clearIf v 0 .slc (offs 0x080 0x100) h s
  let s := if v.testBit 1 then flushReds s h else s
  if v.testBit 2 then setWeevil s h [] else s

theorem slcCtrl_eq (w : RegWr) (s : State) : slcCtrl w s = ctlWrite w .slc (fun off => off == 0x018) fwOnly slcAct s := rfl

theorem slcAct_flushRed (h off : Nat) (s : State) : slcAct h off 2 s = flushReds s h := rfl

theorem slcAct_clrWeevil (h off : Nat) (s : State) : slcAct h off 4 s = setWeevil s h [] := rfl

theorem slcCtrl_fwStore {c : RegWr → Instr} (hc : ∀ w s, exec (c w) s = slcCtrl w s) {h x : Nat} (hh : h < 64) {v : W64} {s : State}
    {P : State → Prop} (hx : v.toNat % 2 ^ 32 = x) (hP : P (slcAct h 0x018 x s)) : fwStore c .slc h 0x018 v s P :=
  fwStore_of_ctlWrite (fun w => (hc w s).trans (slcCtrl_eq w s)) (isReg_slcCtrl hh) rfl (fun q ht hf => by simp [fwOnly, ht, hf]) hx hP

theorem slcFlushRed_fwStore {h : Nat} (hh : h < 64) (s : State) :
    fwStore .slcFlushRed .slc h 0x018 2 s (fun t => (∀ y ∈ sliceAt t h, y.kind = .red → y.evicting = true)
      ∧ (∀ g, g ≠ h → sliceAt t g = sliceAt s g) ∧ sameBytes s t) := by
  refine slcCtrl_fwStore (fun _ _ => rfl) hh (x := 2) rfl ?_
  rw [slcAct_flushRed]
  exact ⟨fun _ => flushReds_evicting, fun _ => flushReds_other, flushReds_sameBytes s h⟩

theorem slcClrWeevil_fwStore {h : Nat} (hh : h < 64) (s : State) :
    fwStore .slcClrWeevil .slc h 0x018 4 s (fun t => weevilOf t h = [] ∧ (∀ g, g ≠ h → weevilOf t g = weevilOf s g)
      ∧ { t with mem := { t.mem with weevil := s.mem.weevil } } = s) := by
  refine slcCtrl_fwStore (fun _ _ => rfl) hh (x := 4) rfl ?_
  rw [slcAct_clrWeevil]
  exact ⟨(weevilOf_setWeevil s h h []).trans (if_pos rfl), fun g hg => (weevilOf_setWeevil s h g []).trans (if_neg hg), rfl⟩

/-! ### Performance counters (20 R445, R448) -/

/-- `t` differs from `s` in stored registers only. -/
def regsOnly (s t : State) : Prop := { t with regs := s.regs } = s

theorem regsOnly_regPut {s t : State} (h : regsOnly s t) (a v : Nat) : regsOnly s (regPut t a v) := h

theorem regsOnly_of_regPut {s t : State} {a v : Nat} (h : regsOnly (regPut s a v) t) : regsOnly s t := by
  have := congrArg (fun z : State => { z with regs := s.regs }) h
  exact this

theorem regsOnly_ftime {s t : State} (h : regsOnly s t) : t.ftime = s.ftime := by
  have := congrArg State.ftime h
  exact this

/-- The register at `src n` copied to `dst n`, for each `n` of a list in turn. -/
def copyRegs (src dst : Nat → Nat) (l : List Nat) (s : State) : State :=
  l.foldl (fun s n => regPut s (dst n) (regGet s (src n))) s

theorem regsOnly_copyRegs (src dst : Nat → Nat) (l : List Nat) (s : State) : regsOnly s (copyRegs src dst l s) := by
  induction l generalizing s with
  | nil => rfl
  | cons n l ih => exact regsOnly_of_regPut (ih (regPut s (dst n) (regGet s (src n))))

theorem regGet_copyRegs_other {src dst : Nat → Nat} {l : List Nat} {s : State} {a : Nat} (ha : ∀ n ∈ l, a ≠ dst n) :
    regGet (copyRegs src dst l s) a = regGet s a := by
  induction l generalizing s with
  | nil => rfl
  | cons n l ih =>
    refine (ih (fun m hm => ha m (List.mem_cons_of_mem _ hm))).trans ?_
    rw [regGet_regPut, if_neg (ha n List.mem_cons_self)]

theorem regGet_copyRegs {src dst : Nat → Nat} {l : List Nat} {s : State} (hdst : ∀ m n, dst m = dst n → m = n)
    (hsrc : ∀ m ∈ l, ∀ n ∈ l, src m ≠ dst n) {n : Nat} (hn : n ∈ l) : regGet (copyRegs src dst l s) (dst n) = regGet s (src n) := by
  induction l generalizing s with
  | nil => exact absurd hn List.not_mem_nil
  | cons m l ih =>
    by_cases hl : n ∈ l
    · refine (ih (fun i hi j hj => hsrc i (List.mem_cons_of_mem _ hi) j (List.mem_cons_of_mem _ hj)) hl).trans ?_
      rw [regGet_regPut, if_neg (hsrc n hn m List.mem_cons_self)]
    · obtain rfl : n = m := (List.mem_cons.mp hn).resolve_right hl
      refine (regGet_copyRegs_other (fun j hj e => hl (hdst n j e ▸ hj))).trans ?_
      rw [regGet_regPut, if_pos rfl]

/-- The copies of a snapshot: each counter to its PMC_SNAP register. -/
def snapCopies (s : State) (d : Nat) : State :=
  copyRegs (fun n => regAddr .pmc d (0x200 + 8 * n)) (fun n => regAddr .pmc d (0x300 + 8 * n)) (List.range 16) s

theorem pmcSnap_eq (s : State) (d : Nat) :
    pmcSnap s d = regPut (regPut (regPut (snapCopies s d) (regAddr .pmc d 0x018) (snapCopies s d).ftime) (regAddr .pmc d 0x010) 0)
      (regAddr .pmc d 0) (2 ^ 17) := rfl

theorem regGet_snapCopies (s : State) (d : Nat) {n : Nat} (hn : n < 16) :
    regGet (snapCopies s d) (regAddr .pmc d (0x300 + 8 * n)) = regGet s (regAddr .pmc d (0x200 + 8 * n)) := by
  refine regGet_copyRegs (fun i j h => ?_) (fun i hi j hj h => ?_) (List.mem_range.mpr hn)
  · rw [regAddr_inj] at h; omega
  · rw [List.mem_range] at hi hj
    rw [regAddr_inj] at h; omega

theorem snapTaken_iff (s t : State) (d : Nat) : snapTaken s t d ↔
    (∀ n, n < 16 → regGet t (regAddr .pmc d (0x300 + 8 * n)) = regGet s (regAddr .pmc d (0x200 + 8 * n)))
    ∧ regGet t (regAddr .pmc d 0x018) = s.ftime ∧ regGet t (regAddr .pmc d 0x010) = 0
    ∧ (regGet t (regAddr .pmc d 0)).testBit 17 = true ∧ regsOnly s t := Iff.rfl

theorem pmcSnap_taken (s : State) (d : Nat) : snapTaken s (pmcSnap s d) d := by
  have hcopies : regsOnly s (snapCopies s d) := regsOnly_copyRegs _ _ _ s
  have hftime : (snapCopies s d).ftime = s.ftime := regsOnly_ftime hcopies
  have honly : regsOnly s (pmcSnap s d) := regsOnly_regPut (regsOnly_regPut (regsOnly_regPut hcopies _ _) _ _) _ _
  rw [snapTaken_iff]
  refine ⟨fun n hn => ?_, ?_, ?_, ?_, honly⟩
  all_goals rw [pmcSnap_eq, hftime]
  · rw [← regGet_snapCopies s d hn]
    simp [regGet_regPut, show 0x300 + 8 * n ≠ 0x010 by omega, show 0x300 + 8 * n ≠ 0x018 by omega]
  · simp [regGet_regPut]
  · simp [regGet_regPut]
  · rw [regGet_regPut, if_pos rfl]
    exact Nat.testBit_two_pow_self

/-- A snapshot after a write of PMC_SNAP_TIME is one of the state before the write. -/
theorem snapTaken_of_regPut {s t : State} {d x : Nat} (h : snapTaken (regPut s (regAddr .pmc d 0x010) x) t d) : snapTaken s t d := by
  rw [snapTaken_iff] at h ⊢
  obtain ⟨hcopy, htime, hdone, hbit, hframe⟩ := h
  refine ⟨fun n hn => (hcopy n hn).trans ?_, htime, hdone, hbit, regsOnly_of_regPut hframe⟩
  exact (regGet_regPut _ _ _ _).trans (if_neg (by rw [regAddr_inj]; omega))

/-- What a write of PMC_CTRL does to the state: SNAP_NOW copies before CLR_COUNTS clears. -/
def pmcAct (d _off v : Nat) (s : State) : State :=
  let s := if v.testBit 1 then pmcSnap s d else s
  clearIf v 0 .pmc (offs 0x200 0x278) d s

theorem pmcCtrl_eq (w : RegWr) (s : State) : pmcCtrl w s = ctlWrite w .pmc (fun off => off == 0x008) fwHost pmcAct s := rfl

theorem pmcAct_snapNow (d off : Nat) (s : State) : pmcAct d off 2 s = pmcSnap s d := rfl

theorem fwHost_firmware (s : State) (q : Req) (u off : Nat) (ht : q.thread = false) : fwHost s q u off = true := by
  simp [fwHost, ht]

theorem pmcSnapNow_fwStore {d : Nat} (hd : d < 4) (s : State) :
    fwStore .pmcSnapNow .pmc d 0x008 2 s (fun t => snapTaken s t d) := by
  refine fwStore_of_ctlWrite (x := 2) (fun w => pmcCtrl_eq w s) (isReg_pmcCtrl hd) rfl (fun q ht _ => fwHost_firmware s q d _ ht) rfl ?_
  rw [pmcAct_snapNow]
  exact pmcSnap_taken s d

/-- What a write of PMC_SNAP_TIME does to the state: a time already past takes the snapshot at once (R448). -/
def snapTimeAct (d _off v : Nat) (s : State) : State :=
  let t := v / 4 * 4
  let s := regPut s (regAddr .pmc d 0x010) t
  if t != 0 && t ≤ s.ftime then pmcSnap s d else s

theorem execPmcSnapTimeWrite_eq (w : RegWr) (s : State) :
    execPmcSnapTimeWrite w s = ctlWrite w .pmc (fun off => off == 0x010) fwHost snapTimeAct s := rfl

theorem pmcSnapTime_fwStore {d : Nat} (hd : d < 4) {v : W64} {s : State} {P : State → Prop}
    (hP : P (snapTimeAct d 0x010 v.toNat s)) : fwStore .pmcSnapTimeWrite .pmc d 0x010 v s P :=
  fwStore_of_ctlWrite (fun w => execPmcSnapTimeWrite_eq w s) (isReg_pmcSnapTime hd) rfl (fun q ht _ => fwHost_firmware s q d _ ht)
    (Nat.mod_eq_of_lt v.isLt) hP

theorem snapTimeAct_past {d v : Nat} {s : State} (h0 : v / 4 * 4 ≠ 0) (hpast : v / 4 * 4 ≤ s.ftime) :
    snapTaken s (snapTimeAct d 0x010 v s) d := by
  have hact : snapTimeAct d 0x010 v s = pmcSnap (regPut s (regAddr .pmc d 0x010) (v / 4 * 4)) d :=
    if_pos (by simp [h0, hpast])
  rw [hact]
  exact snapTaken_of_regPut (pmcSnap_taken _ d)

theorem snapTimeAct_future {d v : Nat} {s : State} (hlater : s.ftime < v / 4 * 4) :
    snapTimeAct d 0x010 v s = regPut s (regAddr .pmc d 0x010) (v / 4 * 4) :=
  if_neg fun h => Nat.not_lt.mpr (of_decide_eq_true (Bool.and_eq_true_iff.mp h).2) hlater

/-- A register written alone: it holds the value, no other register and nothing else of the state changes. -/
theorem regPut_alone (s : State) (a v : Nat) :
    regGet (regPut s a v) a = v ∧ (∀ b, b ≠ a → regGet (regPut s a v) b = regGet s b) ∧ { regPut s a v with regs := s.regs } = s :=
  ⟨(regGet_regPut s a a v).trans (if_pos rfl), fun b hb => (regGet_regPut s a b v).trans (if_neg hb), rfl⟩

/-- Whether a value selects an event that Table 20.4 lists and a unit that its source has (R445). -/
def selOk (v : Nat) : Bool := pmcListed (v % 4096) && pmcInstOk (v % 4096) (field v 32 8)

/-- What a write of a PMC_SEL register does to the state. -/
def selAct (d off v : Nat) (s : State) : State :=
  if selOk v then regPut s (regAddr .pmc d off) (v &&& 0xC0FF00FF00000FFF) else s

theorem execPmcSelWrite_eq (w : RegWr) (s : State) :
    execPmcSelWrite w s = ctlWrite w .pmc (fun off => rng 0x100 0x178 off) fwHost selAct s := rfl

theorem pmcSel_fwStore {d n : Nat} (hd : d < 4) (hn : n < 16) {v : W64} {s : State} {P : State → Prop}
    (hP : P (selAct d (0x100 + 8 * n) v.toNat s)) : fwStore .pmcSelWrite .pmc d (0x100 + 8 * n) v s P :=
  fwStore_of_ctlWrite (fun w => execPmcSelWrite_eq w s) (isReg_pmcSel hd hn) (rng_pmcSel hn) (fun q ht _ => fwHost_firmware s q d _ ht)
    (Nat.mod_eq_of_lt v.isLt) hP

theorem selAct_legal {d off v : Nat} {s : State} (h : selOk v = true) :
    selAct d off v s = regPut s (regAddr .pmc d off) (v &&& 0xC0FF00FF00000FFF) := if_pos h

theorem selAct_illegal {d off v : Nat} {s : State} (h : selOk v = false) : selAct d off v s = s := if_neg (by simp [h])

theorem execPmcSnapshot_due {d : Fin 4} {s : State} (h0 : regGet s (regAddr .pmc d.val 0x010) ≠ 0)
    (hpast : regGet s (regAddr .pmc d.val 0x010) ≤ s.ftime) : exec (.pmcSnapshot d) s = .next (pmcSnap s d.val) :=
  if_pos (by simp [h0, hpast])

theorem execPmcSnapshot_idle {d : Fin 4} {s : State}
    (h : regGet s (regAddr .pmc d.val 0x010) = 0 ∨ s.ftime < regGet s (regAddr .pmc d.val 0x010)) :
    exec (.pmcSnapshot d) s = .next s :=
  if_neg (by simp; omega)

/-! ### Initialisation of DDR5 (19 R439) -/

/-- The state after one line of channel `c` whose watermark stands at `m`: DDR_INIT ends with the last line of the last channel. -/
def ddrLineDone (c m : Nat) (s : State) : State :=
  let marks := SMap.put s.pkg.ddrMark c (m + 1)
  { s with pkg := { s.pkg with ddrMark := marks,
                               ddrInit := !(List.range 8).all (fun c => decide (ddrPerDie s / 256 ≤ SMap.getD marks c 0)) } }

theorem execDdrInitLine_due {ch : Fin 8} {s : State} (hinit : s.pkg.ddrInit = true)
    (hm : SMap.getD s.pkg.ddrMark ch.val 0 < ddrPerDie s / 256) :
    exec (.ddrInitLine ch) s = .next (ddrLineDone ch.val (SMap.getD s.pkg.ddrMark ch.val 0) s) :=
  if_neg (by simp [hinit]; omega)

theorem execDdrInitLine_idle {ch : Fin 8} {s : State} (hinit : s.pkg.ddrInit = false) : exec (.ddrInitLine ch) s = .next s :=
  if_pos (by simp [hinit])

theorem ddrLineDone_ended (c m : Nat) (s : State) : (ddrLineDone c m s).pkg.ddrInit = false ↔
    ∀ c', c' < 8 → ddrPerDie s / 256 ≤ SMap.getD (ddrLineDone c m s).pkg.ddrMark c' 0 := by
  simp [ddrLineDone]

/-! ### The statement -/

/-- Settles O55: each control register's write is `ctlWrite` of its act (`fwStore_of_ctlWrite`, `ctlWrite_access`); the acts are the advance
and the clearing of a tracker, the marking of RED lines, the emptied filter, the copies of a snapshot and a stored selection. -/
theorem controlRegisters : Obligations.ControlRegisters := by
  unfold Obligations.ControlRegisters
  refine ⟨?trackers, ?slices, ?counters, ?snapshots, ?ddr⟩
  case trackers =>
    intro d i s k hd hi hk hen
    exact ⟨trkAdvance_fwStore hd hi hk hen, trkClearHist_fwStore hd hi hk hen, trkAdvance_ownerStore hd hi hk hen,
      fun _ hne => trkAdvance_otherStore hd hi hk hne⟩
  case slices => exact fun h s hh => ⟨slcFlushRed_fwStore hh s, slcClrWeevil_fwStore hh s⟩
  case counters =>
    intro d v s hd
    refine ⟨pmcSnapNow_fwStore hd s, ⟨fun h0 hpast => ?_, fun hlater => ?_⟩, fun n hn => ⟨fun hlist hinst => ?_, fun hbad => ?_⟩⟩
    · exact pmcSnapTime_fwStore hd (snapTimeAct_past h0 hpast)
    · exact pmcSnapTime_fwStore hd (snapTimeAct_future hlater ▸ regPut_alone s _ _)
    · have hok : selOk v.toNat = true := by simp [selOk, hlist, hinst]
      exact pmcSel_fwStore hd hn (selAct_legal hok ▸ regPut_alone s _ _)
    · exact pmcSel_fwStore hd hn (selAct_illegal hbad)
  case snapshots =>
    exact fun d s => ⟨fun h0 hpast => ⟨_, execPmcSnapshot_due h0 hpast, pmcSnap_taken s d⟩, execPmcSnapshot_idle⟩
  case ddr =>
    intro ch s
    refine ⟨fun hinit hm => ⟨_, execDdrInitLine_due hinit hm, ?_, ?_, ddrLineDone_ended _ _ s, rfl⟩, execDdrInitLine_idle⟩
    · simp [ddrLineDone, SMap.getD, SMap.get?_put]
    · intro c hc
      simp [ddrLineDone, SMap.getD, SMap.get?_put, hc]

end Sys2Proof.Machine

/-! # The arbitration of sync objects (O14): the cycle, conditions, timeouts, watch messages, translation caches -/

namespace Sys2Proof.Machine

/-! ### Conditions (10 R229) -/

theorem condHolds_atLeast (c v : W32) : condHolds 0 c v = true ↔ (c - v).toNat < 2 ^ 31 := by
  have hmsb : condHolds 0 c v = true ↔ (c - v).msb = false := by simp [condHolds]
  rw [hmsb, BitVec.msb_eq_false_iff_two_mul_lt]
  omega

theorem condHolds_equal (c v : W32) : condHolds 1 c v = true ↔ c = v := beq_iff_eq

theorem condHolds_allBits (c v : W32) : condHolds 2 c v = true ↔ ∀ i, v.getLsbD i = true → c.getLsbD i = true := by
  have hmeet : condHolds 2 c v = true ↔ c &&& v = v := beq_iff_eq
  rw [hmeet]
  constructor
  · intro h i hi
    rw [← h, BitVec.getLsbD_and, Bool.and_eq_true] at hi
    exact hi.1
  · intro h
    refine BitVec.eq_of_getLsbD_eq fun i _ => ?_
    rw [BitVec.getLsbD_and]
    cases hv : v.getLsbD i with
    | false => simp
    | true => simp [h i hv]

/-! ### Replies to groups (10 R230) -/

/-- What a reply makes of a thread: the result in D, and the second one, where there is one, in D + 1. -/
def replyThread (d : Nat) (x : W32) (y : Option W32) (h : Thread) : Thread :=
  match y with
  | some y => (h.setReg d x).setReg (d + 1) y
  | none => h.setReg d x

/-- The group `g` of a slot has its reply: it waits no more, and `f` has changed the threads of the mask and no other. -/
def groupReplied (n i : Nat) (g : Group) (mask : BitVec 32) (f : Thread → Thread) (t : State) : Prop :=
  ∃ g', groupOf t n i = some g' ∧ g'.wait = .none
    ∧ ∀ k, k < g.threads.length → thr g' k = if mask.getLsbD k = true then f (thr g k) else thr g k

theorem thr_putResult (d : Nat) (mask : BitVec 32) (x : W32) (y : Option W32) (g : Group) {k : Nat} (hk : k < g.threads.length) :
    thr (putResult d mask x y g) k = if mask.getLsbD k = true then replyThread d x y (thr g k) else thr g k := by
  have hput : putResult d mask x y g = modThrs g mask (fun _ => replyThread d x y) := rfl
  rw [hput, thr_modThrs]
  simp [hk]

theorem groupOf_of_cores {s t : State} (h : t.cores = s.cores) (n i : Nat) : groupOf t n i = groupOf s n i := by
  simp only [groupOf, coreOf, h]

theorem groupReplied_of_cores {n i : Nat} {g : Group} {mask : BitVec 32} {f : Thread → Thread} {s t : State} (h : t.cores = s.cores)
    (hs : groupReplied n i g mask f s) : groupReplied n i g mask f t := by
  unfold groupReplied
  rw [groupOf_of_cores h]
  exact hs

/-- The group of age `age` is `g`, in slot `i` of core `n`, and in no park record. -/
structure InSlot (s : State) (n age i : Nat) (g : Group) : Prop where
  noRecord : recOfAge (coreOf s n) age = none
  slot : slotOfAge (coreOf s n) age = some i
  group : groupOf s n i = some g

theorem InSlot.of_cores {s t : State} {n age i : Nat} {g : Group} (h : t.cores = s.cores) (hs : InSlot s n age i g) :
    InSlot t n age i g := by
  have hcore : coreOf t n = coreOf s n := by simp only [coreOf, h]
  exact ⟨hcore ▸ hs.noRecord, hcore ▸ hs.slot, (groupOf_of_cores h n i).trans hs.group⟩

theorem syncReply_inSlot {s : State} {n age i : Nat} {g : Group} (h : InSlot s n age i g) (d : Nat) (mask : BitVec 32) (x : W32)
    (y : Option W32) :
    syncReply s n age d mask x y = modGroup s n i (fun g => { putResult d mask x y g with wait := .none }) := by
  simp only [syncReply, modByAge, h.noRecord, h.slot]

theorem syncReply_sync {s : State} {n age i : Nat} {g : Group} (h : InSlot s n age i g) (d : Nat) (mask : BitVec 32) (x : W32)
    (y : Option W32) : (syncReply s n age d mask x y).sync = s.sync := by
  rw [syncReply_inSlot h, modGroup_sync]

theorem syncReply_groupReplied {s : State} {n age i : Nat} {g : Group} (h : InSlot s n age i g) (d : Nat) (mask : BitVec 32) (x : W32)
    (y : Option W32) : groupReplied n i g mask (replyThread d x y) (syncReply s n age d mask x y) := by
  rw [syncReply_inSlot h]
  refine ⟨{ putResult d mask x y g with wait := .none }, ?_, rfl, fun k hk => thr_putResult d mask x y g hk⟩
  rw [groupOf_modGroup, if_pos ⟨rfl, rfl⟩, h.group]
  rfl

/-! ### What a counter's advance leaves -/

@[simp] theorem bumpC_sync (s : State) (b : RBlk) (u off amount : Nat) (ctx : Option Nat) : (bumpC s b u off amount ctx).sync = s.sync := by
  obtain ⟨r, h, _⟩ := bumpC_frame s b u off amount ctx
  rw [h]

@[simp] theorem bumpC_que (s : State) (b : RBlk) (u off amount : Nat) (ctx : Option Nat) : (bumpC s b u off amount ctx).que = s.que := by
  obtain ⟨r, h, _⟩ := bumpC_frame s b u off amount ctx
  rw [h]

theorem bumpC_regsOnly (s : State) (b : RBlk) (u off amount : Nat) (ctx : Option Nat) : regsOnly s (bumpC s b u off amount ctx) := by
  obtain ⟨r, h, _⟩ := bumpC_frame s b u off amount ctx
  rw [h]
  rfl

/-! ### One object changed -/

theorem objOf_setObj (s : State) (p q : Nat) (o : SyncObj) : objOf (setObj s p o) q = if q = p then o else objOf s q :=
  SMap.getD_setD s.sync.objs p q SyncObj.reset o

theorem objOf_of_sync {s t : State} (h : t.sync = s.sync) (p : Nat) : objOf t p = objOf s p := by simp only [objOf, h]

/-- `t` is `s` with object `p` at `o`, but for stored registers: every other object, the messages and all outside the
synchronisation unit are as they were. -/
structure ObjBecomes (p : Nat) (o : SyncObj) (s t : State) : Prop where
  here : objOf t p = o
  other : ∀ q, q ≠ p → objOf t q = objOf s q
  msgs : t.sync.msgs = s.sync.msgs
  frame : { t with sync := s.sync, regs := s.regs } = s

section
variable {p : Nat} {o o' : SyncObj} {s t r : State}

theorem ObjBecomes.cores (h : ObjBecomes p o s t) : t.cores = s.cores := by
  have := congrArg State.cores h.frame
  exact this

theorem ObjBecomes.mem (h : ObjBecomes p o s t) : t.mem = s.mem := by
  have := congrArg State.mem h.frame
  exact this

theorem ObjBecomes.isPreempted (h : ObjBecomes p o s t) (ctx : Nat) : isPreempted t ctx = isPreempted s ctx := by
  have hctxs : t.ctxs = s.ctxs := by
    have := congrArg State.ctxs h.frame
    exact this
  simp only [Machine.isPreempted, hctxs]

theorem ObjBecomes.refl (p : Nat) (s : State) : ObjBecomes p (objOf s p) s s := ⟨rfl, fun _ _ => rfl, rfl, rfl⟩

theorem ObjBecomes.setObj (p : Nat) (o : SyncObj) (s : State) : ObjBecomes p o s (setObj s p o) :=
  ⟨(objOf_setObj s p p o).trans (if_pos rfl), fun q hq => (objOf_setObj s p q o).trans (if_neg hq), rfl, rfl⟩

theorem ObjBecomes.trans (h : ObjBecomes p o s t) (h' : ObjBecomes p o' t r) : ObjBecomes p o' s r where
  here := h'.here
  other q hq := (h'.other q hq).trans (h.other q hq)
  msgs := h'.msgs.trans h.msgs
  frame := (congrArg (fun z : State => { z with sync := s.sync, regs := s.regs }) h'.frame).trans h.frame

theorem ObjBecomes.bump0 (h : ObjBecomes p o s t) (b : RBlk) (u off : Nat) : ObjBecomes p o s (bump0 t b u off) where
  here := (objOf_of_sync (bumpC_sync _ _ _ _ _ _) p).trans h.here
  other q hq := (objOf_of_sync (bumpC_sync _ _ _ _ _ _) q).trans (h.other q hq)
  msgs := (congrArg SyncSt.msgs (bumpC_sync _ _ _ _ _ _)).trans h.msgs
  frame := (congrArg (fun z : State => { z with sync := s.sync, regs := s.regs }) (bumpC_regsOnly t b u off 1 none)).trans h.frame

end

/-! ### Which operations a cycle takes (10 R228, R233) -/

/-- An operation of an engine, firmware or the fabric that is the only one under way is taken. -/
theorem pickOps_single {s : State} {m : SyncMsg} (hmsgs : s.sync.msgs = [m]) (hfrm : m.frm = none) :
    (pickOps s m.obj).taken = [m] ∧ (pickOps s m.obj).left = [] := by
  simp [pickOps, hmsgs, Pick.step, msgFenced, hfrm]

/-- An operation of another object is left. -/
theorem Pick.step_elsewhere (s : State) {obj : Nat} (k : Pick) {m : SyncMsg} (hm : m.obj ≠ obj) :
    (Pick.step s obj k m).taken = k.taken := by
  simp only [Pick.step, if_pos hm, apply_ite Pick.taken, ite_self]

theorem pickOps_elsewhere {s : State} {obj : Nat} (h : ∀ m ∈ s.sync.msgs, m.obj ≠ obj) : (pickOps s obj).taken = [] := by
  have hfold : ∀ (l : List SyncMsg) (k : Pick), (∀ m ∈ l, m.obj ≠ obj) → (l.foldl (Pick.step s obj) k).taken = k.taken := by
    intro l
    induction l with
    | nil => exact fun _ _ => rfl
    | cons m l ih =>
      intro k hl
      rw [List.foldl_cons, ih _ (fun x hx => hl x (List.mem_cons_of_mem _ hx)), Pick.step_elsewhere s k (hl m List.mem_cons_self)]
  exact hfold _ _ h

/-! ### The cycle without its operations -/

/-- The messages under way replaced. -/
def setMsgs (s : State) (l : List SyncMsg) : State := { s with sync := { s.sync with msgs := l } }

/-- Steps 3 and 4 of an arbitration cycle and the timers that follow them (R233-R235). -/
def settleObj (p : Nat) (s : State) : State := settleTimers p (abandonObj p (evalObj p s))

/-- A SIGNAL or SARM that is the only operation under way is applied before the conditions are evaluated. -/
theorem arbitrate_single {s : State} {m : SyncMsg} (hbad : s.sync.bad.contains m.obj = false) (hmsgs : s.sync.msgs = [m])
    (hfrm : m.frm = none) (hop : opRank m.op ≤ 1) :
    arbitrate s m.obj false = settleObj m.obj (applyOp m.obj (setMsgs s []) m) := by
  obtain ⟨htaken, hleft⟩ := pickOps_single hmsgs hfrm
  have hrank : opRank m.op = 0 ∨ opRank m.op = 1 := by omega
  simp only [arbitrate, htaken, hleft, hbad]
  rcases hrank with h | h <;> simp [h, hfrm] <;> rfl

theorem arbitrate_elsewhere {s : State} {p : Nat} (hbad : s.sync.bad.contains p = false) (h : ∀ m ∈ s.sync.msgs, m.obj ≠ p) :
    arbitrate s p false = settleObj p (setMsgs s (pickOps s p).left) := by
  simp only [arbitrate, pickOps_elsewhere h, hbad]
  rfl

/-- The object is not ABANDONED, and its only entries are waits. -/
structure WaitsOnly (o : SyncObj) : Prop where
  noWatch : o.watches = []
  kept : o.st ≠ .abandoned

/-- The wait's context is not preempted, and its timeout is not stopped. -/
structure Counting (s : State) (w : SWait) : Prop where
  runs : isPreempted s w.ctx = false
  going : w.left = none

theorem Counting.of_becomes {p : Nat} {o : SyncObj} {s t : State} {w : SWait} (h : ObjBecomes p o s t) (hw : Counting s w) : Counting t w :=
  ⟨(h.isPreempted _).trans hw.runs, hw.going⟩

theorem Counting.not_retained {s : State} {w : SWait} (h : Counting s w) (o : SyncObj) : retained s o w.ctx = false := by
  simp [retained, h.runs]

theorem abandonObj_kept {s : State} {p : Nat} (h : (objOf s p).st ≠ .abandoned) : abandonObj p s = s := by
  simp [abandonObj, h]

/-- The timers of waits that count stay as they are. -/
theorem settleTimers_counting {s : State} {p : Nat} (h : ∀ w ∈ (objOf s p).waits, Counting s w) :
    ObjBecomes p (objOf s p) s (settleTimers p s) := by
  unfold settleTimers
  simp only []
  rw [List.map_congr_left (g := id) (fun w hw => by simp [(h w hw).not_retained, (h w hw).going]), List.map_id]
  exact .setObj p _ s

/-- No wait's condition holds: the evaluation leaves the object. -/
theorem evalObj_unmet {s : State} {p : Nat} (hx : (objOf s p).watches = [])
    (hc : ∀ w ∈ (objOf s p).waits, condHolds w.cond (objOf s p).cnt w.operand = false) :
    ObjBecomes p (objOf s p) s (evalObj p s) := by
  have hmet : (objOf s p).waits.filter (fun w => !retained s (objOf s p) w.ctx && condHolds w.cond (objOf s p).cnt w.operand) = [] :=
    List.filter_eq_nil_iff.mpr fun w h => by simp [hc w h]
  have hstay : (objOf s p).waits.filter (fun w => !(!retained s (objOf s p) w.ctx && condHolds w.cond (objOf s p).cnt w.operand))
      = (objOf s p).waits := List.filter_eq_self.mpr fun w h => by simp [hc w h]
  simp only [evalObj, hmet, hstay, hx, List.filter_nil, List.foldl_nil]
  rw [← hx]
  exact .setObj p _ s

/-- The only wait's condition holds: the wait ends with MET. -/
theorem evalObj_met {s : State} {p : Nat} {y : SWait} (hx : (objOf s p).watches = []) (hwait : (objOf s p).waits = [y])
    (hy : Counting s y) (hc : condHolds y.cond (objOf s p).cnt y.operand = true) :
    evalObj p s = syncReply (setObj s p { objOf s p with waits := [] }) y.core y.age y.d y.mask 0 (some (objOf s p).cnt) := by
  have hret := hy.not_retained (objOf s p)
  have hend : ∀ (t : State) (c : W32), endWait t p y 0 c = syncReply t y.core y.age y.d y.mask 0 (some c) := fun _ _ => rfl
  simp [evalObj, hx, hwait, hret, hc, hend]

/-- Where no owner is lost and no timer stands, a cycle leaves the object as the evaluation of its conditions did. -/
theorem settleObj_of_evalObj {s u : State} {p : Nat} {o : SyncObj} (h : ObjBecomes p o u (evalObj p s)) (hst : o.st ≠ .abandoned)
    (hw : ∀ w ∈ o.waits, Counting u w) : ObjBecomes p o u (settleObj p s) := by
  have ho := h.here
  unfold settleObj
  rw [abandonObj_kept (ho ▸ hst)]
  refine h.trans ?_
  have hsettle := settleTimers_counting (s := evalObj p s) (p := p) (fun w hmem => (hw w (ho ▸ hmem)).of_becomes h)
  exact ho ▸ hsettle

section
variable {s : State} {p : Nat} {o : SyncObj} (hobj : objOf s p = o) (ho : WaitsOnly o)
include hobj ho

/-- A wait whose condition does not hold stays. -/
theorem settleObj_unmet (hw : ∀ w ∈ o.waits, Counting s w) (hc : ∀ w ∈ o.waits, condHolds w.cond o.cnt w.operand = false) :
    ObjBecomes p o s (settleObj p s) := by
  subst hobj
  exact settleObj_of_evalObj (evalObj_unmet ho.noWatch hc) ho.kept hw

/-- The only wait's condition holds: its group has its reply, and the object has no wait. -/
theorem settleObj_met {y : SWait} {i : Nat} {g : Group} (hwait : o.waits = [y]) (hy : Counting s y)
    (hc : condHolds y.cond o.cnt y.operand = true) (hg : InSlot s y.core y.age i g) :
    ObjBecomes p { o with waits := [] } (syncReply s y.core y.age y.d y.mask 0 (some o.cnt)) (settleObj p s) := by
  subst hobj
  refine settleObj_of_evalObj ?_ ho.kept (fun w hmem => absurd hmem List.not_mem_nil)
  rw [evalObj_met ho.noWatch hwait hy hc, syncReply_inSlot hg, syncReply_inSlot (hg.of_cores (setObj_cores s p _))]
  exact .setObj p _ _

end

/-! ### A SIGNAL and a SARM (10 R233, R236) -/

/-- An object whose counter a SIGNAL of `v` has raised. -/
def counted (o : SyncObj) (v : W32) : SyncObj := { o with cnt := o.cnt + v }

theorem applyOp_signal {s : State} {p : Nat} {m : SyncMsg} {v : W32} {fab : Bool} (hop : m.op = .signal v fab) :
    ObjBecomes p (counted (objOf s p) v) s (applyOp p s m) := by
  have hone : ObjBecomes p (counted (objOf s p) v) s (bump0 (setObj s p (counted (objOf s p) v)) .syn (objDie p) 0x020) :=
    (ObjBecomes.setObj p _ s).bump0 _ _ _
  simp only [applyOp, hop]
  split
  · exact hone.bump0 _ _ _
  · exact hone

theorem applyOp_sarm {s : State} {p : Nat} {m : SyncMsg} {set : Bool} {v : W32} (hop : m.op = .sarm set v) :
    ObjBecomes p { objOf s p with st := .armed, cnt := if set then v else (objOf s p).cnt } s (applyOp p s m) := by
  simp only [applyOp, hop]
  exact .setObj p _ s

section
variable {s : State} {m : SyncMsg} (hbad : s.sync.bad.contains m.obj = false) (hmsgs : s.sync.msgs = [m]) (hfrm : m.frm = none)
include hbad hmsgs hfrm

section
variable {v : W32} {fab : Bool} (hop : m.op = .signal v fab) (ho : WaitsOnly (objOf s m.obj))
include hop ho

/-- A SIGNAL that meets no wait adds to the counter. -/
theorem signal_unmet (hw : ∀ w ∈ (objOf s m.obj).waits, Counting s w)
    (hc : ∀ w ∈ (objOf s m.obj).waits, condHolds w.cond ((objOf s m.obj).cnt + v) w.operand = false) :
    ObjBecomes m.obj (counted (objOf s m.obj) v) (setMsgs s []) (arbitrate s m.obj false) := by
  have happly : ObjBecomes m.obj (counted (objOf s m.obj) v) (setMsgs s []) (applyOp m.obj (setMsgs s []) m) :=
    applyOp_signal (s := setMsgs s []) (p := m.obj) hop
  rw [arbitrate_single hbad hmsgs hfrm (by simp [hop, opRank])]
  refine happly.trans (settleObj_unmet happly.here ⟨ho.noWatch, ho.kept⟩ (fun w hmem => .of_becomes happly ?_) hc)
  exact ⟨(hw w hmem).runs, (hw w hmem).going⟩

/-- A SIGNAL that meets the only wait adds to the counter and ends it with MET. -/
theorem signal_met {y : SWait} {i : Nat} {g : Group} (hwait : (objOf s m.obj).waits = [y]) (hy : Counting s y)
    (hc : condHolds y.cond ((objOf s m.obj).cnt + v) y.operand = true) (hg : InSlot s y.core y.age i g) :
    objOf (arbitrate s m.obj false) m.obj = { counted (objOf s m.obj) v with waits := [] }
      ∧ groupReplied y.core i g y.mask (replyThread y.d 0 (some ((objOf s m.obj).cnt + v))) (arbitrate s m.obj false) := by
  have happly : ObjBecomes m.obj (counted (objOf s m.obj) v) (setMsgs s []) (applyOp m.obj (setMsgs s []) m) :=
    applyOp_signal (s := setMsgs s []) (p := m.obj) hop
  have hcores : (applyOp m.obj (setMsgs s []) m).cores = s.cores := happly.cores
  have hslot := hg.of_cores hcores
  have hmet := settleObj_met happly.here ⟨ho.noWatch, ho.kept⟩ hwait (.of_becomes happly ⟨hy.runs, hy.going⟩) hc hslot
  rw [arbitrate_single hbad hmsgs hfrm (by simp [hop, opRank])]
  exact ⟨hmet.here, groupReplied_of_cores hmet.cores (syncReply_groupReplied hslot _ _ _ _)⟩

end

/-- A SARM of an object without waits arms it. -/
theorem sarm_arms {set : Bool} {v : W32} (hop : m.op = .sarm set v) (hw : (objOf s m.obj).waits = []) (hx : (objOf s m.obj).watches = []) :
    objOf (arbitrate s m.obj false) m.obj = { objOf s m.obj with st := .armed, cnt := if set then v else (objOf s m.obj).cnt } := by
  have happly := applyOp_sarm (s := setMsgs s []) (p := m.obj) hop
  have hnone : ∀ w, w ∉ (objOf s m.obj).waits := fun w hmem => List.not_mem_nil (hw ▸ hmem)
  rw [arbitrate_single hbad hmsgs hfrm (by simp [hop, opRank])]
  exact (settleObj_unmet happly.here ⟨hx, nofun⟩ (fun w hmem => absurd hmem (hnone w)) (fun w hmem => absurd hmem (hnone w))).here

end

/-! ### Timeouts (10 R231, R233, R242) -/

/-- A wait that its timeout ends leaves the object, and its group has outcome TIMEOUT and the counter. -/
theorem endWait_timeout {s : State} {p i : Nat} {o : SyncObj} {y : SWait} {g : Group} (hg : InSlot s y.core y.age i g) (c : W32) :
    objOf (endWait (setObj s p o) p y 1 c) p = o
      ∧ groupReplied y.core i g y.mask (replyThread y.d 1 (some c)) (endWait (setObj s p o) p y 1 c) := by
  have hslot : InSlot (setObj s p o) y.core y.age i g := hg.of_cores (setObj_cores s p o)
  have hend : endWait (setObj s p o) p y 1 c
      = bump0 (syncReply (setObj s p o) y.core y.age y.d y.mask 1 (some c)) .syn (objDie p) 0x038 := rfl
  rw [hend, bump0]
  refine ⟨?_, groupReplied_of_cores (bumpC_cores _ _ _ _ _ _) (syncReply_groupReplied hslot _ _ _ _)⟩
  rw [objOf_of_sync (bumpC_sync _ _ _ _ _ _), objOf_of_sync (syncReply_sync hslot _ _ _ _)]
  exact (objOf_setObj s p p o).trans (if_pos rfl)

section
variable {n : Fin 48} {i : Fin 32} {s : State} {g : Group} (hg : groupOf s n.val i.val = some g) (hkept : timerKept s n.val g.age = false)
include hg hkept

section
variable {d : Nat} {mask : BitVec 32} {p dl : Nat} {y : SWait} (hwait : g.wait = .sync d mask) (hobj : waitObj s n.val g.age = some (p, y))
  (hdl : y.deadline = some dl)
include hwait hobj hdl

theorem execWaitTimeout_early (h : toCkOf s n.val < dl) : exec (.waitTimeout n (.slot i)) s = .next s := by
  show execWaitTimeout n (.slot i) s = .next s
  simp [execWaitTimeout, groupAt, hg, hkept, hwait, hobj, hdl, Nat.not_le.mpr h]

theorem execWaitTimeout_met (h : dl ≤ toCkOf s n.val) (hw : (objOf (arbitrate s p false) p).waits = []) :
    exec (.waitTimeout n (.slot i)) s = .next (arbitrate s p false) := by
  show execWaitTimeout n (.slot i) s = _
  simp [execWaitTimeout, groupAt, hg, hkept, hwait, hobj, hdl, h, hw]

theorem execWaitTimeout_expires (h : dl ≤ toCkOf s n.val) {w : SWait} (hw : (objOf (arbitrate s p false) p).waits = [w])
    (hcore : w.core = n.val) (hage : w.age = g.age) :
    exec (.waitTimeout n (.slot i)) s = .next (endWait
      (setObj (arbitrate s p false) p { objOf (arbitrate s p false) p with waits := [] }) p w 1 (objOf (arbitrate s p false) p).cnt) := by
  show execWaitTimeout n (.slot i) s = _
  simp [execWaitTimeout, groupAt, hg, hkept, hwait, hobj, hdl, h, hw, hcore, hage]

section
variable (hdue : dl ≤ toCkOf s n.val) (hcore : y.core = n.val) (hage : y.age = g.age) (hslot : InSlot s n.val g.age i.val g)
include hdue hcore hage hslot

/-- A wait that the cycle leaves ends with TIMEOUT. -/
theorem waitTimeout_expires {o : SyncObj} {s' : State} (hcycle : ObjBecomes p o s' (arbitrate s p false)) (hcores : s'.cores = s.cores)
    (hw : o.waits = [y]) :
    completes (.waitTimeout n (.slot i)) s (fun t => objOf t p = { o with waits := [] }
      ∧ groupReplied n.val i.val g y.mask (replyThread y.d 1 (some o.cnt)) t) := by
  obtain rfl := hcycle.here
  have hslot' : InSlot (arbitrate s p false) y.core y.age i.val g := by
    rw [hcore, hage]
    exact hslot.of_cores (hcycle.cores.trans hcores)
  obtain ⟨hobj', hreply⟩ := endWait_timeout (p := p) (o := { objOf (arbitrate s p false) p with waits := [] }) hslot'
    (objOf (arbitrate s p false) p).cnt
  rw [hcore] at hreply
  exact ⟨_, execWaitTimeout_expires hg hkept hwait hobj hdl hdue hw hcore hage, hobj', hreply⟩

variable (ho : WaitsOnly (objOf s p)) (hw : (objOf s p).waits = [y]) (hy : Counting s y) (hbad : s.sync.bad.contains p = false)
include ho hw hy hbad

/-- No operation has reached the object, and the condition does not hold: TIMEOUT. -/
theorem waitTimeout_unmet (hc : condHolds y.cond (objOf s p).cnt y.operand = false) (hnone : ∀ m ∈ s.sync.msgs, m.obj ≠ p) :
    completes (.waitTimeout n (.slot i)) s (fun t => objOf t p = { objOf s p with waits := [] }
      ∧ groupReplied n.val i.val g y.mask (replyThread y.d 1 (some (objOf s p).cnt)) t) := by
  have hcycle : ObjBecomes p (objOf s p) (setMsgs s (pickOps s p).left) (arbitrate s p false) := by
    rw [arbitrate_elsewhere hbad hnone]
    exact settleObj_unmet rfl ho (hw ▸ List.forall_mem_singleton.mpr ⟨hy.runs, hy.going⟩) (hw ▸ List.forall_mem_singleton.mpr hc)
  exact waitTimeout_expires hg hkept hwait hobj hdl hdue hcore hage hslot hcycle rfl hw

/-- A SIGNAL has reached the object: it is applied first, and the outcome is MET where the condition holds then, TIMEOUT else. -/
theorem waitTimeout_signal {m : SyncMsg} {v : W32} {fab : Bool} (hm : m.obj = p) (hmsgs : s.sync.msgs = [m]) (hfrm : m.frm = none)
    (hop : m.op = .signal v fab) :
    completes (.waitTimeout n (.slot i)) s (fun t => objOf t p = { counted (objOf s p) v with waits := [] }
      ∧ groupReplied n.val i.val g y.mask (replyThread y.d (if condHolds y.cond ((objOf s p).cnt + v) y.operand then 0 else 1)
          (some ((objOf s p).cnt + v))) t) := by
  subst hm
  cases hc : condHolds y.cond ((objOf s m.obj).cnt + v) y.operand with
  | true =>
    obtain ⟨hmet, hreply⟩ := signal_met hbad hmsgs hfrm hop ho hw hy hc (by rw [hcore, hage]; exact hslot)
    rw [hcore] at hreply
    exact ⟨_, execWaitTimeout_met hg hkept hwait hobj hdl hdue (by rw [hmet]), hmet, hreply⟩
  | false =>
    have hcycle := signal_unmet hbad hmsgs hfrm hop ho (hw ▸ List.forall_mem_singleton.mpr hy) (hw ▸ List.forall_mem_singleton.mpr hc)
    exact waitTimeout_expires hg hkept hwait hobj hdl hdue hcore hage hslot hcycle rfl hw

end
end

section
variable {l d gen dl : Nat} {mask : BitVec 32} (hwait : g.wait = .firefly l d mask gen (some dl))
include hwait

theorem execWaitTimeout_ffEarly (h : toCkOf s n.val < dl) : exec (.waitTimeout n (.slot i)) s = .next s := by
  show execWaitTimeout n (.slot i) s = .next s
  simp [execWaitTimeout, groupAt, hg, hkept, hwait, Nat.not_le.mpr h]

theorem execWaitTimeout_ffExpires (h : dl ≤ toCkOf s n.val) :
    exec (.waitTimeout n (.slot i)) s = .next (bump0 (syncReply s n.val g.age d mask 1 none) .syn 0 0x038) := by
  show execWaitTimeout n (.slot i) s = _
  simp [execWaitTimeout, groupAt, hg, hkept, hwait, h]

/-- An FFWAIT whose timeout has passed ends with TIMEOUT. -/
theorem ffTimeout_replies (h : dl ≤ toCkOf s n.val) (hslot : InSlot s n.val g.age i.val g) :
    completes (.waitTimeout n (.slot i)) s (groupReplied n.val i.val g mask (replyThread d 1 none)) :=
  ⟨_, execWaitTimeout_ffExpires hg hkept hwait h,
    groupReplied_of_cores (bumpC_cores _ _ _ _ _ _) (syncReply_groupReplied hslot d mask 1 none)⟩

end
end

/-! ### What an engine's write leaves (09 R206) -/

/-- `t` differs from `s` in memory and its slices, stored registers, checkpoints' dirty blocks and the free values drawn only. -/
structure MemOnly (s t : State) : Prop where
  frame : { t with mem := s.mem, regs := s.regs, ckpts := s.ckpts, free := s.free } = s

theorem MemOnly.refl (s : State) : MemOnly s s := ⟨rfl⟩

theorem MemOnly.trans {s t r : State} (h : MemOnly s t) (h' : MemOnly t r) : MemOnly s r := by
  have := congrArg (fun z : State => { z with mem := s.mem, regs := s.regs, ckpts := s.ckpts, free := s.free }) h'.frame
  exact ⟨this.trans h.frame⟩

theorem MemOnly.sync {s t : State} (h : MemOnly s t) : t.sync = s.sync := by
  have := congrArg State.sync h.frame
  exact this

theorem MemOnly.que {s t : State} (h : MemOnly s t) : t.que = s.que := by
  have := congrArg State.que h.frame
  exact this

theorem MemOnly.setMem {s t : State} (h : MemOnly s t) (m : MemSt) : MemOnly s { t with mem := m } := ⟨h.frame⟩

theorem memOnly_foldl {α : Type} {f : State → α → State} (hf : ∀ s x, MemOnly s (f s x)) (l : List α) (s : State) :
    MemOnly s (l.foldl f s) := by
  induction l generalizing s with
  | nil => exact .refl s
  | cons x l ih => exact (hf s x).trans (ih _)

theorem memOnly_bumpC (s : State) (b : RBlk) (u off amount : Nat) (ctx : Option Nat) : MemOnly s (bumpC s b u off amount ctx) := by
  obtain ⟨r, h, _⟩ := bumpC_frame s b u off amount ctx
  rw [h]
  exact ⟨rfl⟩

theorem memOnly_memPut (s : State) (a : Nat) (bs : List Byte) : MemOnly s (memPut s a bs) := (MemOnly.refl s).setMem _

theorem memOnly_dropLines (s : State) (h : Nat) (p : SLine → Bool) : MemOnly s (dropLines s h p) := (MemOnly.refl s).setMem _

theorem memOnly_mapLines (s : State) (h : Nat) (p : SLine → Bool) (f : SLine → SLine) : MemOnly s (mapLines s h p f) :=
  (MemOnly.refl s).setMem _

theorem memOnly_makeDirty (s : State) (line : Nat) : MemOnly s (makeDirty s line) := memOnly_mapLines _ _ _ _

theorem memOnly_weevilDrop (s : State) (h line : Nat) : MemOnly s (weevilDrop s h line) := (MemOnly.refl s).setMem _

theorem memOnly_clearSpan (s : State) (a n : Nat) : MemOnly s (clearSpan s a n) := (MemOnly.refl s).setMem _

theorem memOnly_clearBad (s : State) (line : Nat) : MemOnly s (clearBad s line) := (MemOnly.refl s).setMem _

theorem memOnly_regPut (s : State) (a v : Nat) : MemOnly s (regPut s a v) := ⟨rfl⟩

theorem memOnly_winRefuse (s : State) (n : Nat) : MemOnly s (winRefuse s n) := memOnly_regPut _ _ _

theorem memOnly_drawNat (s : State) : MemOnly s (drawNat s).2 := ⟨rfl⟩

theorem memOnly_chanReq (s : State) (a : Nat) : MemOnly s (chanReq s a) := by
  unfold chanReq
  split
  · exact (MemOnly.refl s).setMem _
  · exact .refl s

theorem memOnly_touchLine (s : State) (h : Nat) (p : SLine → Bool) : MemOnly s (touchLine s h p) := by
  unfold touchLine
  split
  · exact (MemOnly.refl s).setMem _
  · exact .refl s

theorem memOnly_ckptMark (s : State) (a : Nat) : MemOnly s (ckptMark s a) := by
  unfold ckptMark
  split
  · exact ⟨rfl⟩
  · exact .refl s

theorem memOnly_pfCount (s : State) (h : Nat) (x : SLine) (off : Nat) : MemOnly s (pfCount s h x off) := by
  unfold pfCount
  split
  · exact memOnly_bumpC _ _ _ _ _ _
  · exact .refl s

theorem memOnly_demandKill (s : State) (h : Nat) (p : SLine → Bool) : MemOnly s (demandKill s h p) := by
  unfold demandKill
  split
  · split
    · exact (memOnly_bumpC _ _ _ _ _ _).trans (memOnly_mapLines _ _ _ _)
    · exact .refl s
  · exact .refl s

theorem memOnly_applyPartial (s : State) (line kind : Nat) (part : List W32) : MemOnly s (applyPartial s line kind part) :=
  memOnly_foldl (fun _ _ => memOnly_memPut _ _ _) _ s

theorem memOnly_evictRed (s : State) (line : Nat) : MemOnly s (evictRed s line) := by
  unfold evictRed
  simp only []
  split
  · exact .refl s
  · refine .trans (.setMem (.trans ?_ (memOnly_dropLines _ _ _)) _) (memOnly_bumpC _ _ _ _ _ _)
    split
    · exact (memOnly_applyPartial s _ _ _).trans (memOnly_chanReq _ _)
    · exact .refl s

theorem memOnly_killReplicas (s : State) (line : Nat) : MemOnly s (killReplicas s line) := by
  unfold killReplicas
  simp only []
  split
  · exact .refl s
  · split
    · exact .refl s
    · refine .trans (memOnly_foldl (fun t d => ?_) _ s) (memOnly_mapLines _ _ _ _)
      split
      · exact memOnly_dropLines _ _ _
      · exact .refl t

theorem memOnly_beforeWrite (s : State) (line : Nat) : MemOnly s (beforeWrite s line) :=
  (((memOnly_evictRed s line).trans (memOnly_killReplicas _ _)).trans (memOnly_weevilDrop _ _ _)).trans
    ((memOnly_demandKill _ _ _).trans (memOnly_ckptMark _ _))

theorem memOnly_evictLine (s : State) (h : Nat) (x : SLine) : MemOnly s (evictLine s h x) := by
  unfold evictLine
  refine (memOnly_pfCount s h x 0x100).trans ?_
  simp only []
  split
  · refine (memOnly_killReplicas _ x.line).trans (.trans ?_ (memOnly_dropLines _ _ _))
    split
    · exact ((memOnly_clearBad _ _).trans (memOnly_chanReq _ _)).setMem _
    · exact .refl _
  · exact memOnly_evictRed _ _
  · exact (memOnly_mapLines _ _ _ _).trans (memOnly_dropLines _ _ _)
  · exact memOnly_dropLines _ _ _

theorem memOnly_makeRoom (s : State) (h line : Nat) : MemOnly s (makeRoom s h line).2 := by
  unfold makeRoom
  simp only []
  split
  · exact .refl s
  · split
    · exact .refl s
    · split
      · exact memOnly_evictLine _ _ _
      · split
        · exact (memOnly_drawNat s).trans (memOnly_evictLine _ _ _)
        · exact memOnly_drawNat s

theorem memOnly_allocLine (s : State) (h : Nat) (x : SLine) : MemOnly s (allocLine s h x) := by
  have hroom := (memOnly_makeRoom s h x.line).setMem
  unfold allocLine
  simp only []
  split
  · exact (hroom _).setMem _
  · exact hroom _

theorem memOnly_engWriteLine (s : State) (ctx a : Nat) (bs : List Byte) (noalloc : Bool) : MemOnly s (engWriteLine s ctx a bs noalloc) := by
  unfold engWriteLine
  split
  · refine ((memOnly_beforeWrite s (a / 128)).trans (memOnly_clearSpan _ a bs.length)).trans ?_
    simp only []
    split
    · exact ((memOnly_touchLine _ _ _).trans (memOnly_bumpC _ _ _ _ _ _)).trans ((memOnly_makeDirty _ _).trans (memOnly_memPut _ _ _))
    · split
      · exact ((memOnly_bumpC _ _ _ _ _ _).trans (memOnly_memPut _ _ _)).trans (memOnly_chanReq _ _)
      · refine .trans ?_ ((memOnly_allocLine _ _ _).trans ((memOnly_makeDirty _ _).trans (memOnly_memPut _ _ _)))
        split
        · exact .refl _
        · exact (memOnly_bumpC _ _ _ _ _ _).trans (memOnly_chanReq _ _)
  · split
    · exact memOnly_winRefuse _ _
    · exact memOnly_memPut _ _ _

theorem memOnly_engWrite (s : State) (ctx a : Nat) (bs : List Byte) (noalloc : Bool) : MemOnly s (engWrite s ctx a bs noalloc) :=
  memOnly_foldl (fun _ _ => memOnly_engWriteLine _ _ _ _ _) _ s

/-! ### What a signal of the module's own units leaves (10 R225, R460) -/

/-- `t` has the queues of `s` and the messages that its segments hold for them. -/
structure SameQueues (s t : State) : Prop where
  que : t.que = s.que
  held : t.sync.held = s.sync.held

theorem SameQueues.trans {s t r : State} (h : SameQueues s t) (h' : SameQueues t r) : SameQueues s r :=
  ⟨h'.que.trans h.que, h'.held.trans h.held⟩

theorem MemOnly.sameQueues {s t : State} (h : MemOnly s t) : SameQueues s t := ⟨h.que, congrArg SyncSt.held h.sync⟩

theorem sameQueues_bump0 (s : State) (b : RBlk) (u off : Nat) : SameQueues s (bump0 s b u off) := (memOnly_bumpC s b u off 1 none).sameQueues

theorem sameQueues_logErr (s : State) (r : ErrRec) : SameQueues s (logErr s r) := by
  have hcount := (memOnly_bumpC s .err 0 (errCounter r.sev.val) r.count.toNat none).sameQueues
  unfold logErr
  simp only []
  split
  · refine .trans ?_ (memOnly_bumpC _ _ _ _ _ _).sameQueues
    exact ⟨hcount.que, hcount.held⟩
  · split
    · exact ⟨hcount.que, hcount.held⟩
    · exact hcount.trans (sameQueues_bump0 _ _ _ _)

theorem sameQueues_translate (s : State) (k ctx vs : Nat) : SameQueues s (translate s k ctx vs).2 := by
  have hmiss := sameQueues_bump0 s .syn (k / 4) 0x058
  unfold translate
  simp only []
  split
  · exact ⟨rfl, rfl⟩
  · split
    · exact hmiss.trans (sameQueues_logErr _ _)
    · split
      · exact ⟨hmiss.que, hmiss.held⟩
      · exact ⟨hmiss.que, hmiss.held⟩

theorem sameQueues_hwSignal (s : State) (k ctx vs v : Nat) : SameQueues s (hwSignal s k ctx vs v) := by
  have hxlat := sameQueues_translate s k ctx vs
  unfold hwSignal
  simp only []
  split
  · exact ⟨hxlat.que, hxlat.held⟩
  · exact hxlat

/-! ### Appending an entry (16 R373, R375) -/

theorem SMap.get?_mod {α : Type} (m : SMap α) (i : Nat) (f : α → α) : SMap.get? (SMap.mod m i f) i = (SMap.get? m i).map f := by
  unfold SMap.mod
  split
  · next v h => rw [SMap.get?_put_same, h]; rfl
  · next h => rw [h]; rfl

/-- The PROD of a queue, VALID or not. -/
def prodOf (s : State) (qid : Nat) : Option W32 := (SMap.get? s.que.descs qid).map (·.prod)

theorem prodOf_modDesc (s : State) (qid : Nat) (f : QDesc → QDesc) :
    prodOf (modDesc s qid f) qid = (SMap.get? s.que.descs qid).map (fun d => (f d).prod) := by
  simp [prodOf, modDesc, SMap.get?_mod, Function.comp_def]

theorem prodOf_of_que {s t : State} (h : t.que = s.que) (qid : Nat) : prodOf t qid = prodOf s qid := by simp only [prodOf, h]

/-- The message of an advance changes no PROD. -/
theorem prodOf_queueIrq (s : State) (qid : Nat) : prodOf (queueIrq s qid) qid = prodOf s qid := by
  unfold queueIrq
  simp only []
  split
  · rfl
  · split
    · rfl
    · split <;> split <;> exact prodOf_modDesc _ _ _

theorem queueIrq_sync (s : State) (qid : Nat) : (queueIrq s qid).sync = s.sync := by
  unfold queueIrq
  simp only []
  split
  · rfl
  · split
    · rfl
    · split <;> split <;> rfl

/-- An advance by `k` moves PROD by `k` and leaves the segments' held messages. -/
theorem produced_spec {s : State} {qid k : Nat} {d : QDesc} (hk : k ≠ 0) (hd : descOf s qid = some d) :
    prodOf (produced s qid k) qid = some (d.prod + BitVec.ofNat 32 k) ∧ (produced s qid k).sync.held = s.sync.held := by
  have hget : SMap.get? s.que.descs qid = some d := (Option.filter_eq_some_iff.mp hd).1
  simp only [produced, if_neg hk, hd, prodOf_queueIrq, queueIrq_sync]
  split
  · constructor
    · rw [prodOf_of_que (sameQueues_hwSignal _ _ _ _ _).que, prodOf_modDesc, hget]
      rfl
    · exact (sameQueues_hwSignal _ _ _ _ _).held
  · constructor
    · rw [prodOf_modDesc, hget]
      rfl
    · rfl

theorem appendEntry_spec {s : State} {qid : Nat} {d : QDesc} (hd : descOf s qid = some d) (bs : List Byte) :
    prodOf (appendEntry s qid d bs) qid = some (d.prod + 1) ∧ (appendEntry s qid d bs).sync.held = s.sync.held := by
  have hwrite := memOnly_engWrite s d.owner (qSlot d d.prod) (padTo (qSize d) 0 bs) false
  have hd' : descOf (engWrite s d.owner (qSlot d d.prod) (padTo (qSize d) 0 bs) false) qid = some d := by
    rw [← hd, descOf, descOf, hwrite.que]
  obtain ⟨hprod, hheld⟩ := produced_spec Nat.one_ne_zero hd'
  exact ⟨hprod, hheld.trans hwrite.sameQueues.held⟩

theorem touchDesc_descs (s : State) (qid : Nat) : (touchDesc s qid).que.descs = s.que.descs := by
  unfold touchDesc
  split
  · rfl
  · simp [bump0]

theorem touchDesc_sync (s : State) (qid : Nat) : (touchDesc s qid).sync = s.sync := by
  unfold touchDesc
  split
  · rfl
  · simp [bump0]

/-! ### Held watch messages (10 R232) -/

theorem segHeld_setSegHeld (s : State) (seg : Nat) (l : List HeldMsg) : segHeld (setSegHeld s seg l) seg = l :=
  (SMap.getD_setD s.sync.held seg seg [] l).trans (if_pos rfl)

section
variable {seg : Fin 16} {qid i : Nat} {h : HeldMsg} {d : QDesc} {s : State}
  (hfirst : findIdxFrom (fun (h : HeldMsg) => h.qid == qid) 0 (segHeld s seg.val) = some (i, h)) (hd : descOf s qid = some d)
include hfirst hd

/-- A segment's first message for a queue with room leaves the segment for the queue. -/
theorem watchMsgDeliver_room (hroom : canAppend s d = true) : completes (.watchMsgDeliver seg qid) s (fun t =>
    segHeld t seg.val = dropAt (segHeld s seg.val) i ∧ ∃ d', SMap.get? t.que.descs qid = some d' ∧ d'.prod = d.prod + 1) := by
  have hexec : exec (.watchMsgDeliver seg qid) s
      = .next (appendEntry (touchDesc (setSegHeld s seg.val (dropAt (segHeld s seg.val) i)) qid) qid d h.bytes) := by
    show execWatchMsgDeliver seg qid s = _
    simp [execWatchMsgDeliver, hfirst, hd, hroom]
  have hd' : descOf (touchDesc (setSegHeld s seg.val (dropAt (segHeld s seg.val) i)) qid) qid = some d := by
    rw [← hd, descOf, touchDesc_descs]
    rfl
  obtain ⟨hprod, hheld⟩ := appendEntry_spec hd' h.bytes
  refine ⟨_, hexec, ?_, Option.map_eq_some_iff.mp hprod⟩
  rw [segHeld, hheld, touchDesc_sync]
  exact segHeld_setSegHeld s seg.val _

theorem watchMsgDeliver_full (hroom : canAppend s d = false) : exec (.watchMsgDeliver seg qid) s = .next s := by
  show execWatchMsgDeliver seg qid s = _
  simp [execWatchMsgDeliver, hfirst, hd, hroom]

end

/-! ### SYN_CTRL (10 R246) -/

theorem regSplit_syn {d o : Nat} (hd : d < 4) (ho : o < 0x140000) : regSplit (regAddr .syn d o) = some (.syn, d, o) := by
  obtain ⟨hlo, hhi, hdie, hrest⟩ := dieAddr_parts (r := 0x200000 + o) (a := regAddr .syn d o) hd (by omega) (Nat.add_assoc _ _ _)
  simp only [regSplit, if_neg hlo, if_neg hhi, hdie, hrest]
  grind

theorem isReg_synCtrl {d : Nat} (hd : d < 4) : IsReg .syn d 0x008 4 where
  split := regSplit_syn hd (by decide)
  width := by decide
  aligned := by simp only [regAddr, blkAddr, blkAt, regBase]; omega

theorem SMap.get?_filter_key {α : Type} (m : SMap α) (q : Nat → Bool) (k : Nat) :
    SMap.get? (m.filter (fun e => q e.1)) k = if q k = true then SMap.get? m k else none := by
  induction m with
  | nil => simp [SMap.get?]
  | cons e m ih =>
    obtain ⟨j, x⟩ := e
    by_cases hj : q j = true
    · by_cases hjk : j = k
      · simp [SMap.get?, hjk ▸ hj, hjk]
      · simp [SMap.get?, hj, hjk, ih]
    · by_cases hjk : j = k
      · subst hjk
        simp [hj, ih]
      · simp [SMap.get?, hj, hjk, ih]

/-- The translation caches of die `u`'s clusters emptied. -/
def dropCaches (s : State) (u : Nat) : State := { s with sync := { s.sync with cache := s.sync.cache.filter (fun e => e.1 / 4 != u) } }

theorem dropCaches_get? (s : State) (u k : Nat) :
    SMap.get? (dropCaches s u).sync.cache k = if k / 4 = u then none else SMap.get? s.sync.cache k := by
  refine (SMap.get?_filter_key s.sync.cache (fun k => k / 4 != u) k).trans ?_
  by_cases hk : k / 4 = u <;> simp [hk]

/-- What a write of SYN_CTRL does to the state. -/
def synAct (u _off v : Nat) (s : State) : State :=
  let s := clearIf v 0 .syn synCounters u s
  if v.testBit 1 then dropCaches s u else s

theorem synCtrl_eq (w : RegWr) (s : State) : synCtrl w s = ctlWrite w .syn (fun off => off == 0x008) fwOnly synAct s := rfl

theorem synAct_xltInval (u off : Nat) (s : State) : synAct u off 2 s = dropCaches s u := rfl

theorem synXltInval_fwStore {u : Nat} (hu : u < 4) (s : State) : fwStore .synXltInval .syn u 0x008 2 s (fun t =>
    (∀ k, SMap.get? t.sync.cache k = if k / 4 = u then none else SMap.get? s.sync.cache k)
      ∧ { t with sync := { t.sync with cache := s.sync.cache } } = s) := by
  refine fwStore_of_ctlWrite (x := 2) (fun w => synCtrl_eq w s) (isReg_synCtrl hu) rfl (fun q ht hf => by simp [fwOnly, ht, hf]) rfl ?_
  rw [synAct_xltInval]
  exact ⟨dropCaches_get? s u, rfl⟩

/-! ### The statement -/

/-- Settles O14: a cycle with one SIGNAL or SARM is its operation followed by `settleObj` (`arbitrate_single`), which ends a wait
where its condition holds (`signal_met`) and leaves it else (`signal_unmet`); a timeout ends what the cycle has left
(`execWaitTimeout_expires`). -/
theorem syncArbitration : Obligations.SyncArbitration := by
  unfold Obligations.SyncArbitration
  refine ⟨⟨?signal, ?sarm⟩, ?conditions, ⟨?timeout, ?firefly⟩, ?delivery, fun u s hu => synXltInval_fwStore hu s⟩
  case signal =>
    intro obj s v fab ctx hbad hmsgs hst hx
    have ho : WaitsOnly (objOf s obj.val) := ⟨hx, hst⟩
    refine ⟨fun hw => ?_, fun y i g hw hpre hleft hrec hslot hg => ⟨fun hc => ?_, fun hc => ?_⟩⟩
    · have hnone : ∀ w, w ∉ (objOf s obj.val).waits := fun w hmem => List.not_mem_nil (hw ▸ hmem)
      have hcycle := signal_unmet hbad hmsgs rfl rfl ho (fun w h => absurd h (hnone w)) (fun w h => absurd h (hnone w))
      exact ⟨_, rfl, hcycle.here, hcycle.msgs, hcycle.mem, hcycle.cores, hcycle.other⟩
    · obtain ⟨hobj, hreply⟩ := signal_met hbad hmsgs rfl rfl ho hw ⟨hpre, hleft⟩ hc ⟨hrec, hslot, hg⟩
      exact ⟨_, rfl, hobj, hreply⟩
    · have hcycle := signal_unmet hbad hmsgs rfl rfl ho (hw ▸ List.forall_mem_singleton.mpr ⟨hpre, hleft⟩)
        (hw ▸ List.forall_mem_singleton.mpr hc)
      exact ⟨_, rfl, hcycle.here, hcycle.cores⟩
  case sarm => exact fun obj s set v ctx hbad hmsgs hw hx => ⟨_, rfl, sarm_arms hbad hmsgs rfl rfl hw hx⟩
  case conditions => exact fun c v => ⟨condHolds_atLeast c v, condHolds_equal c v, condHolds_allBits c v⟩
  case timeout =>
    intro n i s g d p mask y dl hg hwait hkept hobj hdl hcore hage hrec hidx hw hx hst hpre hleft hbad
    have hslot : InSlot s n.val g.age i.val g := ⟨hrec, hidx, hg⟩
    have ho : WaitsOnly (objOf s p) := ⟨hx, hst⟩
    refine ⟨fun hdue hc hnone => ?_, fun v fab ctx hdue hmsgs => ?_, execWaitTimeout_early hg hkept hwait hobj hdl⟩
    · obtain ⟨t, hexec, hend, hreply⟩ :=
        waitTimeout_unmet hg hkept hwait hobj hdl hdue hcore hage hslot ho hw ⟨hpre, hleft⟩ hbad hc hnone
      exact ⟨t, hexec, by rw [hend], by rw [hend], hreply⟩
    · obtain ⟨t, hexec, hend, hreply⟩ :=
        waitTimeout_signal hg hkept hwait hobj hdl hdue hcore hage hslot ho hw ⟨hpre, hleft⟩ hbad rfl hmsgs rfl rfl
      exact ⟨t, hexec, by rw [hend], by rw [hend, counted], hreply⟩
  case firefly =>
    intro n i s g l d m gen dl hg hwait hkept hrec hidx
    refine ⟨fun hdue => ?_, execWaitTimeout_ffEarly hg hkept hwait⟩
    obtain ⟨t, hexec, hreply⟩ := ffTimeout_replies hg hkept hwait hdue ⟨hrec, hidx, hg⟩
    exact ⟨t, hexec, hreply⟩
  case delivery => exact fun seg qid i h d s hfirst hd => ⟨watchMsgDeliver_room hfirst hd, watchMsgDeliver_full hfirst hd⟩

end Sys2Proof.Machine

/-! # Sessions and key locks (O40): SESSION_OPEN, SESSION_AUTH, SESSION_CLOSE, the authentication time-out, the end of a lock -/

namespace Sys2Proof.Machine

/-! ### Bytes and counters -/

/-- `n` bytes hold a number up to a multiple of 256 ^ `n`. -/
theorem natBytes_mod (n v : Nat) : natBytes n (v % 256 ^ n) = natBytes n v := by
  induction n generalizing v with
  | zero => rfl
  | succ n ih =>
    have hlow : BitVec.ofNat 8 (v % 256 ^ (n + 1)) = BitVec.ofNat 8 v := by
      apply BitVec.eq_of_toNat_eq
      simp only [BitVec.toNat_ofNat]
      exact Nat.mod_mod_of_dvd v ⟨256 ^ n, Nat.pow_succ'⟩
    have hhigh : v % 256 ^ (n + 1) / 256 = v / 256 % 256 ^ n := by
      rw [Nat.pow_succ', Nat.mod_mul_right_div_self]
    simp only [natBytes, hlow, hhigh, ih]

@[simp] theorem bumpC_mbx (s : State) (b : RBlk) (u off amount : Nat) (ctx : Option Nat) : (bumpC s b u off amount ctx).mbx = s.mbx := by
  obtain ⟨r, h, _⟩ := bumpC_frame s b u off amount ctx
  rw [h]

@[simp] theorem bumpC_sec (s : State) (b : RBlk) (u off amount : Nat) (ctx : Option Nat) : (bumpC s b u off amount ctx).sec = s.sec := by
  obtain ⟨r, h, _⟩ := bumpC_frame s b u off amount ctx
  rw [h]

/-- A counter that is no performance counter of its die advances by the amount, modulo 2 ^ 64. -/
theorem regGet_bumpC_self {s : State} {b : RBlk} {u off amount : Nat} {ctx : Option Nat} (hamount : amount ≠ 0)
    (hpmc : ∀ i, i < 16 → regAddr b u off ≠ blkAddr .pmc (blkAt b u).1 0 + 0x200 + 8 * i) :
    regGet (bumpC s b u off amount ctx) (regAddr b u off) = (regGet s (regAddr b u off) + amount) % 2 ^ 64 := by
  simp only [bumpC, if_neg hamount]
  split
  · obtain ⟨r, hfeed, hkept⟩ := pmcFeed_frame (regPut s (regAddr b u off) ((regGet s (regAddr b u off) + amount) % 2 ^ 64))
      (blkAt b u).1 b off (blkAt b u).2 amount ctx
    rw [hfeed]
    exact (hkept _ hpmc).trans ((regGet_regPut _ _ _ _).trans (if_pos rfl))
  · exact (regGet_regPut _ _ _ _).trans (if_pos rfl)

/-- A counter of the SEC block advances by one. -/
theorem regGet_bump0_sec (s : State) {off : Nat} (hoff : off < 0x1000) :
    regGet (bump0 s .sec 0 off) (regAddr .sec 0 off) = (regGet s (regAddr .sec 0 off) + 1) % 2 ^ 64 :=
  regGet_bumpC_self (by decide) fun i _ => by simp only [regAddr, blkAddr, blkAt]; omega

/-! ### Mailboxes -/

theorem mbxOf_of_mbx {s t : State} (h : t.mbx = s.mbx) (j : Nat) : mbxOf t j = mbxOf s j := by simp only [mbxOf, h]

@[simp] theorem mbxOf_modMbx_same (s : State) (m : Fin 11) (f : Mbx → Mbx) : mbxOf (modMbx s m.val f) m.val = f (mbxOf s m.val) := by
  have hm : m.val < (padUp 11 Mbx.reset s.mbx).length := Nat.lt_of_lt_of_le m.isLt (padUp_length _ _ _)
  simp only [mbxOf, modMbx, nth_modAt, nth_padUp, hm, and_self, if_true]

theorem mbxOf_modMbx_other (s : State) {m j : Nat} (f : Mbx → Mbx) (h : j ≠ m) : mbxOf (modMbx s m f) j = mbxOf s j := by
  simp only [mbxOf, modMbx, nth_modAt, nth_padUp, h, false_and, if_false]

theorem othersKept_modMbx (s : State) (m : Nat) (f : Mbx → Mbx) : othersKept s (modMbx s m f) m :=
  fun _ hj => mbxOf_modMbx_other s f hj

theorem othersKept.trans {s t r : State} {m : Nat} (h : othersKept s t m) (h' : othersKept t r m) : othersKept s r m :=
  fun j hj => (h' j hj).trans (h j hj)

/-- A field of mailbox `m`'s request is the same where the request is. -/
theorem reqF_of_req {s t : State} {m : Nat} (h : (mbxOf t m).req = (mbxOf s m).req) (off n : Nat) : reqF t m off n = reqF s m off n := by
  simp only [reqF, h]

/-! ### Responses (16 R361, R362) -/

@[simp] theorem respond_sec (s : State) (m st : Nat) (body : List Byte) : (respond s m st body).sec = s.sec := by
  simp only [respond, apply_ite State.sec, raiseMsix_sec, modMbx_sec, ite_self]

@[simp] theorem respond_regs (s : State) (m st : Nat) (body : List Byte) : (respond s m st body).regs = s.regs := by
  simp only [respond, apply_ite State.regs, raiseMsix_regs, modMbx_regs, ite_self]

@[simp] theorem regGet_respond (s : State) (m st : Nat) (body : List Byte) (a : Nat) : regGet (respond s m st body) a = regGet s a := by
  simp only [regGet, respond_regs]

/-- A response message: a header of 16 bytes, a MAC, all zero without a key, and the body. -/
def sealedMsg (key head body : List Byte) : List Byte :=
  if key.isEmpty then head ++ List.replicate 16 0 ++ body else head ++ macOf key (head ++ List.replicate 16 0 ++ body) ++ body

theorem sealedMsg_eq (key head body : List Byte) : ∃ mac, mac.length = 16 ∧ sealedMsg key head body = head ++ mac ++ body := by
  unfold sealedMsg
  split
  · exact ⟨_, List.length_replicate, rfl⟩
  · exact ⟨_, macOf_length _ _, rfl⟩

/-- The first 16 bytes of a response. -/
def rspHead (s : State) (m st len : Nat) : List Byte :=
  natBytes 2 (reqOp s m) ++ natBytes 2 st ++ natBytes 4 len ++ natBytes 4 (reqF s m 8 4) ++ natBytes 4 (reqF s m 12 4)

theorem sealedMsg_status (key : List Byte) (s : State) (m st len : Nat) (body : List Byte) :
    ((sealedMsg key (rspHead s m st len) body).drop 2).take 2 = natBytes 2 st := by
  obtain ⟨mac, -, hmsg⟩ := sealedMsg_eq key (rspHead s m st len) body
  rw [hmsg]
  simp [rspHead, natBytes_length]

theorem sealedMsg_body (key : List Byte) (s : State) (m st len : Nat) (body : List Byte) :
    (sealedMsg key (rspHead s m st len) body).drop 32 = body := by
  obtain ⟨mac, hmac, hmsg⟩ := sealedMsg_eq key (rspHead s m st len) body
  rw [hmsg]
  exact List.drop_left' (by simp [rspHead, natBytes_length, hmac])

/-- What a response makes of the mailbox it answers in. -/
def doneMbx (s : State) (m st : Nat) (body : List Byte) (x : Mbx) : Mbx :=
  { x with st := 2, responses := (x.responses + 1) % 65536, rsp := sealedMsg (mbxOf s m).key (rspHead s m st body.length) body, stage := 0, key := [],
           readAt := 0 }

theorem respond_mbx (s : State) (m st : Nat) (body : List Byte) : (respond s m st body).mbx = (modMbx s m (doneMbx s m st body)).mbx := by
  unfold respond
  exact (apply_ite State.mbx _ _ _).trans (ite_self _)

theorem mbxOf_respond_same (s : State) (m : Fin 11) (st : Nat) (body : List Byte) :
    mbxOf (respond s m.val st body) m.val = doneMbx s m.val st body (mbxOf s m.val) :=
  (mbxOf_of_mbx (respond_mbx s m.val st body) m.val).trans (mbxOf_modMbx_same s m _)

@[simp] theorem respond_session (s : State) (m : Fin 11) (st : Nat) (body : List Byte) :
    (mbxOf (respond s m.val st body) m.val).session = (mbxOf s m.val).session := by
  rw [mbxOf_respond_same]; rfl

theorem replyOf_respond (s : State) (m : Fin 11) (st : Nat) (body : List Byte) : replyOf (respond s m.val st body) m.val st body := by
  unfold replyOf
  rw [mbxOf_respond_same]
  exact ⟨rfl, sealedMsg_status _ _ _ _ _ _, sealedMsg_body _ _ _ _ _ _⟩

theorem othersKept_respond (s : State) (m st : Nat) (body : List Byte) : othersKept s (respond s m st body) m :=
  fun j hj => (mbxOf_of_mbx (respond_mbx s m st body) j).trans (mbxOf_modMbx_other s _ hj)

theorem respondFail_eq (s : State) (m off : Nat) {st : Nat} (hst : 0x100 ≤ st) : respondFail s m st off = respond s m st (natBytes 4 off) := by
  rw [respondFail, if_neg (by omega)]

/-! ### Requests that are due (16 R361, R363) -/

theorem sessionReq_due {s : State} {m : Fin 11} {op len : Nat} (h : sessionDue s m.val op len) (run : State → State) :
    sessionReq m op len s run = .next (run s) := by
  obtain ⟨hready, hst, hop, hlen, hses⟩ := h
  simp [sessionReq, hready, hst, hop, hlen, hses]

/-- What a command that passes the checks of the header leaves of its mailbox before it runs: the response's key, and the next SEQUENCE expected. -/
def begunMbx (x : Mbx) : Mbx :=
  { x with stage := 1, key := (match x.session with | some y => y.rspKey | none => []),
           session := x.session.map (fun (y : Session) => { y with expect := y.expect + 1 }) }

/-- The state in which a command runs. -/
def begun (s : State) (m : Nat) : State := modMbx s m begunMbx

theorem req_begun (s : State) (m : Fin 11) : (mbxOf (begun s m.val) m.val).req = (mbxOf s m.val).req := by
  rw [begun, mbxOf_modMbx_same]; rfl

theorem reqF_begun (s : State) (m : Fin 11) (off n : Nat) : reqF (begun s m.val) m.val off n = reqF s m.val off n :=
  reqF_of_req (req_begun s m) off n

theorem reqOp_begun (s : State) (m : Fin 11) : reqOp (begun s m.val) m.val = reqOp s m.val := reqF_begun s m 0 2

theorem reqCtx_begun (s : State) (m : Fin 11) : reqCtx (begun s m.val) m.val = reqCtx s m.val := by
  simp only [reqCtx, bodyF, reqOp_begun, reqF_begun]; rfl

theorem reservedBad_begun (s : State) (m : Fin 11) (len : Nat) (fields : List (Nat × Nat)) :
    reservedBad (begun s m.val) m.val len fields = reservedBad s m.val len fields := by
  simp only [reservedBad, bodyF, reqF_begun]

theorem authSession_begun (s : State) (m : Fin 11) :
    authSession (begun s m.val) m.val = (authSession s m.val).map (fun (y : Session) => { y with expect := y.expect + 1 }) := by
  rw [authSession, authSession, begun, mbxOf_modMbx_same, begunMbx]
  simp only [Option.filter_map]
  rfl

/-- A session's authority does not depend on its SEQUENCE. -/
theorem ownStatus_begun (s : State) (m : Fin 11) : ownStatus (begun s m.val) m.val = ownStatus s m.val := by
  simp only [ownStatus, reqCtx_begun, authSession_begun, reqOp_begun]
  cases reqCtx s m.val with
  | none => rfl
  | some c => cases authSession s m.val <;> rfl

/-- A command that is due runs on the state in which it has begun. -/
theorem command_due {s : State} {m : Fin 11} {op len : Nat} {fields : List (Nat × Nat)} (h : commandDue s m.val op len fields)
    (image : List Byte) (run : State → Ran) :
    command m op len fields image run s = .next (ranOut m.val image (run (begun s m.val))) := by
  obtain ⟨⟨hready, htarget, hst, hstage, hop, htakes, hctx⟩, hhead, hres, hlcs, hown⟩ := h
  have hlife : ¬ (ctxOp op && s.sec.lcs != 3) = true := by
    simpa using hlcs
  have hown' : ¬ (ownStatus (begun s m.val) m.val != 0) = true := by
    simp [ownStatus_begun, hown]
  have hwaits : ¬ (!s.pkg.ready || s.sec.target != 7 || (mbxOf s m.val).st != 1 || reqOp s m.val != op || !takesOp s m.val op) = true := by
    simp [hready, htarget, hst, hop, htakes]
  simp only [command, if_neg hwaits, hstage, hctx, hhead, bne_self_eq_false, Bool.false_eq_true, if_false]
  split
  next off hoff => exact absurd (hoff.symm.trans ((reservedBad_begun s m len fields).trans hres)) (Option.some_ne_none off)
  next => exact (if_neg hlife).trans (if_neg hown')

/-- A request that names no context and creates none is not journalled. -/
theorem journalReq_noCtx {s : State} {m : Nat} (image : List Byte) (hctx : reqCtx s m = none) (hop : reqOp s m ≠ 0x101) :
    journalReq s m image = s := by
  simp [journalReq, hctx, hop]

/-- A command that leaves its mailbox without a session ends with its response. -/
theorem ranOut_ok_closed {s : State} {m : Fin 11} {image body : List Byte} (hjournal : journalReq s m.val image = s)
    (hclosed : (mbxOf s m.val).session = none) : ranOut m.val image (.ok s body) = respond s m.val 0 body := by
  simp only [ranOut, hjournal, respond_session, hclosed]

@[simp] theorem endSession_session (s : State) (m : Fin 11) : (mbxOf (endSession s m.val) m.val).session = none := by
  rw [endSession, mbxOf_modMbx_same]

/-! ### SESSION_OPEN (17 R385, R387-R389) -/

/-- With no session in any mailbox a drawn ID is refused only where it is 0. -/
theorem freshId_succ {s : State} (hnone : ∀ b ∈ s.mbx, b.session = none) (n x : Nat) :
    freshId s (n + 1) x = if x % 2 ^ 32 = 0 then freshId s n (x + 1) else x % 2 ^ 32 := by
  refine ite_congr (propext ?_) (fun _ => rfl) (fun _ => rfl)
  simp only [Bool.or_eq_true, decide_eq_true_eq, List.any_eq_true]
  refine ⟨?_, Or.inl⟩
  rintro (hzero | ⟨b, hb, htaken⟩)
  · exact hzero
  · rw [hnone b hb] at htaken
    cases htaken

/-- With no session in any mailbox two tries give a session ID that is not 0. -/
theorem freshId_ne_zero {s : State} (hnone : ∀ b ∈ s.mbx, b.session = none) (n x : Nat) : freshId s (n + 2) x % 2 ^ 32 ≠ 0 := by
  rw [freshId_succ hnone, freshId_succ hnone]
  split
  · rw [if_neg (by omega)]
    omega
  · omega

/-- The state once the session's ID and its 32 bytes of nonce are drawn. -/
def nonceDrawn (s : State) : State := { s with free := s.free + 1 + 32 }

/-- The session that a SESSION_OPEN in mailbox `k` makes. -/
def openedSession (s : State) (k : Nat) : Session :=
  { id := BitVec.ofNat 32 (freshId (nonceDrawn s) 12 (drawW32 s).1.toNat), keyId := bodyF s k 0 4, level := bodyF s k 4 1, pending := true, expect := 0,
    hostNonce := ((mbxOf s k).req.drop 40).take 32, devNonce := (drawBytes 32 (drawW32 s).2).1, reqKey := [], rspKey := [], opened := s.now }

theorem openedSession_devNonce_length (s : State) (k : Nat) : (openedSession s k).devNonce.length = 32 := by
  simp [openedSession, drawBytes]

theorem openedSession_id_ne_zero {s : State} (k : Nat) (hnone : ∀ b ∈ s.mbx, b.session = none) : (openedSession s k).id ≠ 0 := by
  intro h
  exact freshId_ne_zero (s := nonceDrawn s) hnone 10 (drawW32 s).1.toNat (congrArg BitVec.toNat h)

theorem natBytes_openedSession_id (s : State) (k : Nat) :
    natBytes 4 (openedSession s k).id.toNat = natBytes 4 (freshId (nonceDrawn s) 12 (drawW32 s).1.toNat) :=
  natBytes_mod 4 _

theorem exec_sessionOpen (s : State) (m : Fin 11) : exec (.sessionOpen m) s = execSessionOpen m s := rfl

section
variable {s : State} {m : Fin 11} {r : KeyRec} (hdue : sessionDue s m.val 0x001 40)
include hdue

theorem sessionOpen_error (herr : s.sec.error = true) :
    exec (.sessionOpen m) s = .next (respond s m.val 0x10B (natBytes 4 0xFFFFFFFF)) := by
  rw [exec_sessionOpen, execSessionOpen, sessionReq_due hdue]
  simp only [herr, if_true]
  exact congrArg _ (respondFail_eq s m.val _ (by decide))

variable (herr : s.sec.error = false)
include herr

theorem sessionOpen_noKey (hkey : keyOf s (bodyF s m.val 0 4) = none) :
    exec (.sessionOpen m) s = .next (respond s m.val 0x107 (natBytes 4 0)) := by
  rw [exec_sessionOpen, execSessionOpen, sessionReq_due hdue]
  simp only [herr, hkey, Bool.false_eq_true, if_false]
  exact congrArg _ (respondFail_eq s m.val _ (by decide))

variable (hkey : keyOf s (bodyF s m.val 0 4) = some r) (hlevel : bodyF s m.val 4 1 ≤ 3)
include hkey hlevel

theorem sessionOpen_locked (hlock : keyLocked s (bodyF s m.val 0 4) = true) :
    exec (.sessionOpen m) s = .next (respond s m.val 0x10A (natBytes 4 0)) := by
  rw [exec_sessionOpen, execSessionOpen, sessionReq_due hdue]
  simp only [herr, hkey, if_neg (Nat.not_lt.mpr hlevel), hlock, Bool.false_eq_true, if_false, if_true]
  exact congrArg _ (respondFail_eq s m.val _ (by decide))

variable (hlock : keyLocked s (bodyF s m.val 0 4) = false)
include hlock

theorem sessionOpen_levelRefused (hno : r.mask.testBit (bodyF s m.val 4 1) = false ∨ levelOpen s.sec.lcs (bodyF s m.val 4 1) = false) :
    exec (.sessionOpen m) s = .next (respond s m.val 0x106 (natBytes 4 4)) := by
  have hrefused : (!r.mask.testBit (bodyF s m.val 4 1) || !levelOpen s.sec.lcs (bodyF s m.val 4 1)) = true := by
    simpa only [Bool.or_eq_true, Bool.not_eq_true'] using hno
  rw [exec_sessionOpen, execSessionOpen, sessionReq_due hdue]
  simp only [herr, hkey, if_neg (Nat.not_lt.mpr hlevel), hlock, if_pos hrefused, Bool.false_eq_true, if_false]
  exact congrArg _ (respondFail_eq s m.val _ (by decide))

theorem sessionOpen_opens (hmask : r.mask.testBit (bodyF s m.val 4 1) = true) (hopen : levelOpen s.sec.lcs (bodyF s m.val 4 1) = true) :
    exec (.sessionOpen m) s = .next (respond (modMbx (nonceDrawn s) m.val (fun y => { y with session := some (openedSession s m.val) })) m.val 0
      (natBytes 4 (openedSession s m.val).id.toNat ++ natBytes 4 0 ++ (openedSession s m.val).devNonce)) := by
  rw [natBytes_openedSession_id, exec_sessionOpen, execSessionOpen, sessionReq_due hdue]
  simp only [herr, hkey, if_neg (Nat.not_lt.mpr hlevel), hlock, hmask, hopen, Bool.not_true, Bool.or_self, Bool.false_eq_true, if_false]
  rfl

end

/-! ### SESSION_AUTH (17 R385-R388) -/

/-- What a failed authentication makes of a key's count (17 R388). -/
def failedAuth (now : Nat) (a : AuthCnt) : AuthCnt :=
  if 8 ≤ a.fails + 1 then ⟨a.fails + 1, some (now + a.span * 1000000000), min 1024 (2 * a.span)⟩ else { a with fails := a.fails + 1 }

theorem authOf_of_sec {s t : State} (h : t.sec = s.sec) (id : Nat) : authOf t id = authOf s id := by simp only [authOf, h]

theorem authOf_authFail (s : State) (id : Nat) : authOf (authFail s id) id = failedAuth s.now (authOf s id) := by
  refine (authOf_of_sec (bumpC_sec _ _ _ _ _ _) id).trans ?_
  rw [authOf, SMap.getD, SMap.get?_put_same]
  rfl

theorem authFail_counts (s : State) (id : Nat) :
    regGet (authFail s id) (regAddr .sec 0 0x018) = (regGet s (regAddr .sec 0 0x018) + 1) % 2 ^ 64 :=
  regGet_bump0_sec _ (by decide)

theorem mbxOf_authFail (s : State) (id j : Nat) : mbxOf (authFail s id) j = mbxOf s j :=
  mbxOf_of_mbx (bumpC_mbx _ _ _ _ _ _) j

/-- The session that the right proof makes of a pending one, with its message keys (17 R386). -/
def authedSession (r : KeyRec) (x : Session) : Session :=
  let okm := hkdf384 r.key (x.hostNonce ++ x.devNonce) (ascii "THZ1-MSG" ++ sessionTail x) 96
  { x with pending := false, expect := 1, reqKey := okm.take 48, rspKey := okm.drop 48 }

/-- The state in which a SESSION_AUTH with the right proof is answered: the session is open, the key's failures are forgotten, and the session is counted. -/
def sessionAuthed (s : State) (k : Nat) (r : KeyRec) (x : Session) : State :=
  bump0 (modMbx { s with sec := { s.sec with auth := SMap.del s.sec.auth x.keyId } } k (fun b => { b with session := some (authedSession r x) })) .sec 0 0x020

theorem sessionAuthed_session (s : State) (m : Fin 11) (r : KeyRec) (x : Session) :
    (mbxOf (sessionAuthed s m.val r x) m.val).session = some (authedSession r x) := by
  refine (congrArg Mbx.session (mbxOf_of_mbx (bumpC_mbx _ _ _ _ _ _) m.val)).trans ?_
  rw [mbxOf_modMbx_same]

theorem sessionAuthed_auth (s : State) (k : Nat) (r : KeyRec) (x : Session) : SMap.get? (sessionAuthed s k r x).sec.auth x.keyId = none := by
  refine (congrArg (fun c : SecSt => SMap.get? c.auth x.keyId) (bumpC_sec _ _ _ _ _ _)).trans ?_
  exact (SMap.get?_del _ _ _).trans (if_pos rfl)

theorem sessionAuthed_counts (s : State) (k : Nat) (r : KeyRec) (x : Session) :
    regGet (sessionAuthed s k r x) (regAddr .sec 0 0x020) = (regGet s (regAddr .sec 0 0x020) + 1) % 2 ^ 64 :=
  regGet_bump0_sec _ (by decide)

theorem exec_sessionAuth (s : State) (m : Fin 11) : exec (.sessionAuth m) s = execSessionAuth m s := rfl

section
variable {s : State} {m : Fin 11} {x : Session} {r : KeyRec} (hdue : sessionDue s m.val 0x002 56)
include hdue

theorem sessionAuth_noPending (hno : ∀ x, (mbxOf s m.val).session = some x → x.pending = true → x.id.toNat ≠ bodyF s m.val 0 4) :
    exec (.sessionAuth m) s = .next (respond s m.val 0x103 (natBytes 4 0)) := by
  rw [exec_sessionAuth, execSessionAuth, sessionReq_due hdue]
  cases hx : (mbxOf s m.val).session with
  | none =>
    simp only [hx]
    exact congrArg _ (respondFail_eq s m.val _ (by decide))
  | some x =>
    have hother : (!x.pending || x.id.toNat != bodyF s m.val 0 4) = true := by
      cases hpend : x.pending with
      | false => rfl
      | true => simpa using hno x hx hpend
    simp only [hx, if_pos hother]
    exact congrArg _ (respondFail_eq s m.val _ (by decide))

variable (hx : (mbxOf s m.val).session = some x) (hpend : x.pending = true) (hid : x.id.toNat = bodyF s m.val 0 4) (herr : s.sec.error = false)
  (hkey : keyOf s x.keyId = some r)
include hx hpend hid herr hkey

/-- The proof decides how the authentication of a pending session ends. -/
theorem sessionAuth_pending : exec (.sessionAuth m) s = .next (
    if ((mbxOf s m.val).req.drop 40).take 48 = proofOf "THZ1-H" r.key x then
      respond (sessionAuthed s m.val r x) m.val 0 (proofOf "THZ1-D" r.key x)
    else respond (authFail (endSession s m.val) x.keyId) m.val 0x105 (natBytes 4 8)) := by
  have hmine : ¬ (!x.pending || x.id.toNat != bodyF s m.val 0 4) = true := by simp [hpend, hid]
  have hok : ¬ s.sec.error = true := by simp [herr]
  rw [exec_sessionAuth, execSessionAuth, sessionReq_due hdue]
  simp only [hx, if_neg hmine, if_neg hok, hkey]
  by_cases hproof : ((mbxOf s m.val).req.drop 40).take 48 = proofOf "THZ1-H" r.key x
  · rw [if_pos hproof, if_neg (by simp [hproof])]
    rfl
  · rw [if_neg hproof, if_pos (bne_iff_ne.mpr hproof)]
    rfl

end

/-! ### The end of a session and of a lock (17 R387-R389) -/

/-- SESSION_CLOSE names no context, so it is not journalled, and its response is sealed with the session that has ended. -/
theorem sessionClose_responds {s : State} {m : Fin 11} (hdue : commandDue s m.val 0x003 0 []) :
    exec (.sessionClose m) s = .next (respond (endSession (begun s m.val) m.val) m.val 0 []) := by
  have hop : reqOp (endSession (begun s m.val) m.val) m.val = 0x003 := by
    obtain ⟨⟨-, -, -, -, hop, -, -⟩, -⟩ := hdue
    rw [reqOp, reqF_of_req (s := begun s m.val) (by rw [endSession, mbxOf_modMbx_same])]
    exact (reqOp_begun s m).trans hop
  have hctx : reqCtx (endSession (begun s m.val) m.val) m.val = none := by simp [reqCtx, hop]
  have hjournal := journalReq_noCtx [] hctx (by rw [hop]; decide)
  refine (command_due hdue [] (fun s => .ok (endSession s m.val) [])).trans ?_
  rw [ranOut_ok_closed hjournal (endSession_session _ m)]

theorem sessionAuthTimeout_ends {s : State} {m : Fin 11} {x : Session} (hx : (mbxOf s m.val).session = some x) (hpend : x.pending = true)
    (hdue : x.opened + 1000000000 ≤ s.now) : exec (.sessionAuthTimeout m) s = .next (endSession s m.val) := by
  change execSessionAuthTimeout m s = _
  simp only [execSessionAuthTimeout, hx, hpend, hdue, decide_true, Bool.and_self, if_true]

theorem sessionAuthTimeout_early {s : State} {m : Fin 11} {x : Session} (hx : (mbxOf s m.val).session = some x)
    (hearly : s.now < x.opened + 1000000000) : exec (.sessionAuthTimeout m) s = .next s := by
  change execSessionAuthTimeout m s = _
  simp only [execSessionAuthTimeout, hx, decide_eq_false (Nat.not_le.mpr hearly), Bool.and_false, Bool.false_eq_true, if_false]

/-- The state in which key `id` is no longer locked. -/
def unlocked (s : State) (id : Nat) : State :=
  { s with sec := { s.sec with auth := SMap.mod s.sec.auth id (fun (a : AuthCnt) => { a with lock := none }) } }

section
variable {s : State} {id n : Nat} (hlock : (authOf s id).lock = some n)
include hlock

/-- A locked key has a count of its own. -/
theorem auth_of_locked : SMap.get? s.sec.auth id = some (authOf s id) := by
  cases hget : SMap.get? s.sec.auth id with
  | none => simp [authOf, SMap.getD, hget] at hlock
  | some a => simp [authOf, SMap.getD, hget]

theorem authOf_unlocked (j : Nat) : authOf (unlocked s id) j = if j = id then { authOf s id with lock := none } else authOf s j := by
  have hauth : (unlocked s id).sec.auth = SMap.put s.sec.auth id { authOf s id with lock := none } := by
    simp only [unlocked, SMap.mod, auth_of_locked hlock]
  rw [authOf, hauth, SMap.getD, SMap.get?_put]
  split <;> rfl

end

theorem keyLockExpire_unlocks {s : State} {k : W32} {n : Nat} (hlock : (authOf s k.toNat).lock = some n) (hdue : n ≤ s.now) :
    exec (.keyLockExpire k) s = .next (unlocked s k.toNat) := by
  change execKeyLockExpire k s = _
  simp only [execKeyLockExpire, hlock, if_pos hdue]
  rfl

theorem keyLockExpire_early {s : State} {k : W32} {n : Nat} (hlock : (authOf s k.toNat).lock = some n) (hearly : s.now < n) :
    exec (.keyLockExpire k) s = .next s := by
  change execKeyLockExpire k s = _
  simp only [execKeyLockExpire, hlock, if_neg (Nat.not_le.mpr hearly)]

/-! ### The statement -/

/-- Settles O40: each outcome is one equation for the command (`sessionOpen_opens`, `sessionAuth_pending`, ...) whose state is a response
(`replyOf_respond`) on a state that its own lemmas describe. -/
theorem sessions : Obligations.Sessions := by
  unfold Obligations.Sessions
  refine ⟨?opens, ?noPending, ?auth, ?close, ?timeout, ?lock⟩
  case opens =>
    intro m s hdue
    refine ⟨fun r herr hkey hlevel hlock hmask hopen => ?_, fun herr => ?_, fun herr hkey => ?_, fun r herr hkey hlevel hlock => ?_,
      fun r herr hkey hlevel hlock hno => ?_⟩
    · refine ⟨_, sessionOpen_opens hdue herr hkey hlevel hlock hmask hopen, openedSession s m.val, ?_, rfl, rfl, rfl, rfl, rfl, rfl,
        openedSession_devNonce_length s m.val, openedSession_id_ne_zero m.val, replyOf_respond _ m _ _, respond_sec _ _ _ _⟩
      rw [respond_session, mbxOf_modMbx_same]
    · exact ⟨_, sessionOpen_error hdue herr, replyOf_respond _ m _ _, respond_sec _ _ _ _⟩
    · exact ⟨_, sessionOpen_noKey hdue herr hkey, replyOf_respond _ m _ _⟩
    · exact ⟨_, sessionOpen_locked hdue herr hkey hlevel hlock, replyOf_respond _ m _ _, respond_session s m _ _⟩
    · exact ⟨_, sessionOpen_levelRefused hdue herr hkey hlevel hlock hno, replyOf_respond _ m _ _, respond_session s m _ _⟩
  case noPending =>
    intro m s hdue hno
    exact ⟨_, sessionAuth_noPending hdue hno, replyOf_respond _ m _ _, respond_session s m _ _, respond_sec _ _ _ _⟩
  case auth =>
    intro m s x r hdue hx hpend hid herr hkey
    have hends := sessionAuth_pending hdue hx hpend hid herr hkey
    refine ⟨fun hproof => ?_, fun hproof => ?_⟩
    · rw [if_pos hproof] at hends
      refine ⟨_, hends, replyOf_respond _ m _ _, ?_, ?_, ?_⟩
      · rw [respond_session, sessionAuthed_session]; rfl
      · rw [respond_sec, sessionAuthed_auth]
      · rw [regGet_respond, sessionAuthed_counts]
    · rw [if_neg hproof] at hends
      refine ⟨_, hends, replyOf_respond _ m _ _, ?_, ?_, ?_⟩
      · rw [respond_session, mbxOf_authFail, endSession_session]
      · exact (authOf_of_sec (respond_sec _ _ _ _) _).trans (authOf_authFail _ _)
      · exact (regGet_respond _ _ _ _ _).trans (authFail_counts _ _)
  case close =>
    intro m s hdue
    refine ⟨_, sessionClose_responds hdue, replyOf_respond _ m _ _, ?_, ?_⟩
    · rw [respond_session, endSession_session]
    · exact ((othersKept_modMbx s m.val begunMbx).trans (othersKept_modMbx _ _ _)).trans (othersKept_respond _ _ _ _)
  case timeout =>
    intro m s x hx hpend
    refine ⟨fun hdue => ?_, sessionAuthTimeout_early hx⟩
    exact ⟨_, sessionAuthTimeout_ends hx hpend hdue, mbxOf_modMbx_same s m _, othersKept_modMbx s m.val _, rfl⟩
  case lock =>
    intro k s n hlock
    refine ⟨fun hdue => ?_, keyLockExpire_early hlock⟩
    exact ⟨_, keyLockExpire_unlocks hlock hdue, (authOf_unlocked hlock _).trans (if_pos rfl),
      fun j hj => (authOf_unlocked hlock j).trans (if_neg hj), rfl⟩

end Sys2Proof.Machine
